-- ==== Sys2Proof/Word.lean ====
section
/-! DEFINITION. The word types of the machine (R3, R10, R73, R74). -/

namespace Sys2Proof

/-- A general register's 64 bits (R10, R99). -/
abbrev Word := BitVec 64

/-- One byte of memory (R3). -/
abbrev Byte := BitVec 8

/-- A general-register field: g0 to g63 (R74). -/
abbrev GReg := BitVec 6

/-- A vector-register field: v0 to v31 (R74). -/
abbrev VReg := BitVec 5

/-- A predicate field: p0 to p7 (R74). -/
abbrev PReg := BitVec 3

/-- A tile field: t0 to t3 (R74). -/
abbrev TReg := BitVec 2

end Sys2Proof
end

