-- ==== Sys2Proof/Config.lean ====
section
/-! DEFINITION. What one implementation fixes and the manual does not say: opaque constants without a body, so that no
proof can use a value of them (logs 1, 2, 5, 6, 8, 11, 12, 20, 22, 44). -/

namespace Sys2Proof.Config

/-- Nanoseconds of global time that pass before the step numbered `tick` (log 2). -/
opaque elapsed : Nat → Nat

/-- Which of the things that can happen next does, at the step numbered `tick`, when the agenda is empty (log 1). -/
opaque pick : Nat → Nat

/-- The place in a whole-register image of each bit of a vector register of `n` bits: the implementation's layout
(R129, R277, log 5). -/
opaque imageLayout (n : Nat) : Equiv.Perm (Fin n)

/-- Byte offset within the hub configuration space of each block of Table 18.3's BASES entry, in its order: QDBASE,
PDBASE, SPBASE, TCFGBASE, FTBASE, TEBASE, ACBASE, TSBASE, BPBASE, GOVBASE, ENBASE, PMBASE, PPBASE (log 6). -/
opaque base : Nat → Nat

/-- The payload doublewords that Table 18.3 gives no value for, by entry ID and index (log 6). -/
opaque capWord : Nat → Nat → Word

/-- How many elements of the entry at the head of a hart's queue are done at the step numbered `tick`, when the lanes stop in it
or go on (R149, log 44). -/
opaque progress : Nat → Nat

/-- Which copy leaves a full cache at the step numbered `tick` (R242, log 8). -/
opaque victim : Nat → Nat

/-- The bytes of a saved context, by the step at which it is written and its offset (R54, log 22). -/
opaque savedByte : Nat → Nat → Byte

/-- Lines of 128 bytes that a team's context with its segment takes in an emergency save area (R388, log 22). -/
opaque contextLines : Nat

/-- HBM training succeeds in the restart at the step numbered `tick` (R415, log 20). -/
opaque trains : Nat → Bool

/-- The data the host answers to a device read of the host window that the agenda does not answer (R407, log 11). -/
opaque hostData : Nat → BitVec 512

/-- SLH-DSA-SHA2-192s verification of an image under the fused key (R415, log 12). -/
opaque verifies (image signature : List Byte) : Bool

/-- The fused 256-bit secret (R418, log 12). -/
opaque secret : BitVec 256

/-- What the identity key pair (false) and the alias key pair (true) are derived from besides the secret (R418, log 12). -/
opaque keyLabel (alias_ : Bool) : List Byte

/-- The 48-byte SLH-DSA-SHA2-192s public key of a derived key pair (R418, log 12). -/
opaque publicKey (seed : BitVec 256) : BitVec 384

/-- An SLH-DSA-SHA2-192s signature by a derived key pair (R418, R419, log 12). -/
opaque sign (seed : BitVec 256) (message : List Byte) : List Byte

/-- The fuse state of an attestation response (R419, log 12). -/
opaque fuses : Word

end Sys2Proof.Config
end

