-- ==== Sys2Proof/Machine/Bits.lean ====
section
/-! DEFINITION. Helpers on numbers, fields and fixed lists that the operations share. -/

namespace Sys2Proof.Machine

/-- Element `i` of a vector, or `d` outside it. -/
def vget {α : Type} {n : Nat} (v : Vector α n) (i : Nat) (d : α) : α := v[i]?.getD d

/-- The vector with element `i` replaced; unchanged outside it. -/
def vset {α : Type} {n : Nat} (v : Vector α n) (i : Nat) (x : α) : Vector α n := v.setIfInBounds i x

/-- Replace the members of a list that satisfy a test. -/
def upd {α : Type} (l : List α) (p : α → Bool) (f : α → α) : List α := l.map (fun x => if p x then f x else x)

/-- Replace the member at an index of a list. -/
def updAt {α : Type} (l : List α) (i : Nat) (f : α → α) : List α := l.modify i f

/-- The `len` bits of a number from bit `lo` up. -/
def natBits (x lo len : Nat) : Nat := x / 2 ^ lo % 2 ^ len

/-- Bit `i` of a number. -/
def natBit (x i : Nat) : Bool := x / 2 ^ i % 2 == 1

/-- A 0 or 1 word (R102). -/
def boolWord (b : Bool) : Word := if b then 1 else 0

/-- Sign-extend a field to 64 bits. -/
def sext64 {n : Nat} (x : BitVec n) : Word := x.signExtend 64

/-- Zero-extend a field to 64 bits. -/
def zext64 {n : Nat} (x : BitVec n) : Word := x.setWidth 64

/-- The integer nearest to a range (used by saturating results). -/
def clampInt (lo hi x : Int) : Int := if x < lo then lo else if hi < x then hi else x

/-- The smallest multiple of `m` that is at least `x`. -/
def roundUp (x m : Nat) : Nat := (x + m - 1) / m * m

/-- Division rounding up. -/
def ceilDiv (x m : Nat) : Nat := (x + m - 1) / m

/-- The largest power of two that is at most `x`, for `x` at least 1 (R136). -/
def floorPow2 (x : Nat) : Nat := 2 ^ Nat.log2 x

end Sys2Proof.Machine
end

