-- ==== Sys2Proof/Machine/Names.lean ====
section
/-! DEFINITION. The closed sets of names that instructions and state share: element formats (Tables 7.1 and 7.2,
code order of R128), scopes and orders (Table 4.5), rounding modes (Table 7.4). -/

namespace Sys2Proof

/-- Element formats, in the order of their 4-bit codes (R128, R161, R163). `none` is the tag NONE. -/
inductive Fmt where
  | none | i8 | n8 | i16 | n16 | i32 | n32 | i64 | n64
  | e2m1 | e4m3 | e5m2 | fp16 | bf16 | fp32 | fp64
  deriving DecidableEq, Repr

/-- The format a 4-bit code names (Tables 7.1 and 6.1). -/
def Fmt.ofCode (c : BitVec 4) : Fmt :=
  match c.toNat with
  | 0 => .none | 1 => .i8 | 2 => .n8 | 3 => .i16 | 4 => .n16 | 5 => .i32 | 6 => .n32 | 7 => .i64
  | 8 => .n64 | 9 => .e2m1 | 10 => .e4m3 | 11 => .e5m2 | 12 => .fp16 | 13 => .bf16 | 14 => .fp32 | _ => .fp64

/-- The 4-bit code of a format (Tables 7.1 and 6.1). -/
def Fmt.code : Fmt → BitVec 4
  | .none => 0 | .i8 => 1 | .n8 => 2 | .i16 => 3 | .n16 => 4 | .i32 => 5 | .n32 => 6 | .i64 => 7
  | .n64 => 8 | .e2m1 => 9 | .e4m3 => 10 | .e5m2 => 11 | .fp16 => 12 | .bf16 => 13 | .fp32 => 14 | .fp64 => 15

/-- A scope of ordering (Table 4.5). -/
inductive Scope where
  | team | facet | package | system
  deriving DecidableEq, Repr

/-- The scope a 2-bit code names (Table 4.5). -/
def Scope.ofCode (c : BitVec 2) : Scope :=
  match c.toNat with
  | 0 => .team | 1 => .facet | 2 => .package | _ => .system

/-- The 2-bit code of a scope (Table 4.5). -/
def Scope.code : Scope → BitVec 2
  | .team => 0 | .facet => 1 | .package => 2 | .system => 3

/-- The order field of a scalar atomic (Table 4.5). -/
inductive MemOrder where
  | relaxed | acquire | release | acqRel
  deriving DecidableEq, Repr

/-- The order a 2-bit code names (Table 4.5). -/
def MemOrder.ofCode (c : BitVec 2) : MemOrder :=
  match c.toNat with
  | 0 => .relaxed | 1 => .acquire | 2 => .release | _ => .acqRel

/-- The 2-bit code of an order (Table 4.5). -/
def MemOrder.code : MemOrder → BitVec 2
  | .relaxed => 0 | .acquire => 1 | .release => 2 | .acqRel => 3

/-- Rounding modes: FRM.MODE 0 to 4 (Table 7.4). -/
inductive Rnd where
  | rne | rtz | sr | rdn | rup
  deriving DecidableEq, Repr

/-- A thread of the device: its team's name in the model and its index g3 in the team (R10, R50). -/
structure HartRef where
  team : Nat
  idx : Nat
  deriving DecidableEq, Repr

/-- How a message entered the recording device (ORIGIN, Table 2.5). -/
inductive Origin where
  | host | peer | launch | timer
  deriving DecidableEq, Repr

/-- A barrier kind (R332). -/
inductive BarKind where
  | team | facet | package
  deriving DecidableEq, Repr

/-- Why a hart was stopped (R54, R60, R61, R372, R388). -/
inductive StopReason where
  | preempt | move | parked | thermal
  deriving DecidableEq, Repr

/-- A firmware image as the boot ROM sees it (R415): its bytes, its rollback counter, whether its header keeps the
format, its signature. -/
structure Image where
  bytes : List Byte
  rollback : Nat
  formatOk : Bool
  signature : List Byte
  deriving DecidableEq, Repr

/-- What jxload chooses when it installs a module (R16, R22, R26): addresses for the sections with LVA 0, the base of
the stack regions, the HBM frames and the page tables it uses, in the order it needs them. -/
structure LoadPlan where
  bases : List Nat
  stackBase : Nat
  stackPages : Nat
  frames : List Nat
  tables : List Nat
  deriving DecidableEq, Repr

/-- What a host read of an HDM line tells the home about the copy it may keep (R408): MetaField No-Op, or MetaState with
MetaValue Shared or Any. -/
inductive HostMeta where
  | noOp | shared | any
  deriving DecidableEq, Repr

/-- A byte offset in one of the device's BARs (R406). -/
structure BarOffset where
  bar : BitVec 3
  off : Nat
  deriving DecidableEq, Repr

/-- An offset in BAR0, the hub configuration space. -/
def BarOffset.hub (off : Nat) : BarOffset := { bar := 0, off := off }

/-- The kinds of access that Table 10.7 distinguishes. -/
inductive AccessKind where
  | fetch | load | atomic | store
  deriving DecidableEq, Repr

end Sys2Proof
end

