-- ==== Sys2Proof/Machine/HartState.lean ====
section
/-! DEFINITION. What one hart holds (R10, R127, R131, R286, R288, R296, R334, R355, R372): plain data. -/

namespace Sys2Proof.Machine

/-- A vector register: its bits and its element-format tag (R127, R128). Bits at or above VL.LEN are zero (R137). -/
structure VecReg where
  bits : BitVec 65536
  tag : Fmt
  deriving DecidableEq, Repr

/-- A matrix tile: its source format (`none`: no source format) and its n × n accumulators, row-major (R211, R212). -/
structure TileReg where
  fmt : Fmt
  acc : List (BitVec 32)
  deriving DecidableEq, Repr

/-- A vector-queue entry or queue-image position (Table 15.5), with the class its requests were presented with (R52). -/
structure VqEntry where
  word : BitVec 32
  addr : BitVec 56
  seq : Word
  opa : Word
  opb : Word
  dim0 : Word
  dim1 : Word
  dim2 : Word
  cls : BitVec 2
  deriving DecidableEq, Repr

/-- A cleared image position: every field zero (R357). -/
def VqEntry.zero : VqEntry :=
  { word := 0, addr := 0, seq := 0, opa := 0, opb := 0, dim0 := 0, dim1 := 0, dim2 := 0, cls := 0 }

/-- Where a retired store line stands between retirement and performance (R151, R246, R247, R248, R326, R407). -/
inductive StoreStage where
  | retired            -- in the store buffer or a late-fault store buffer, not yet translated
  | combining          -- translated to a WC page, in its combining buffer
  | device             -- translated to a DEVC page, waiting for its turn: one element at a time (R246, R257)
  | window             -- a write to the host window in flight
  | migrating          -- stalled at its home on MIG
  | held               -- in the deferred-store buffer
  deriving DecidableEq, Repr

/-- An element of a store line: its index, its offset from the line's first nibble, its size in nibbles (R162), its own data and
the bits of it that are written, which a DEVC page takes element by element (R257). -/
structure LineElem where
  idx : Nat
  off : Nat
  size : Nat
  data : Nat
  mask : Nat
  deriving DecidableEq, Repr

/-- A retired store line: data of one instruction for one 128-byte line (R151, R360). -/
structure StoreLine where
  line : Nat                 -- VA[55:7]
  data : BitVec 1024
  mask : BitVec 1024         -- which bits are written, so that an E2M1 element writes its nibble alone (R272)
  elems : List LineElem      -- ascending element index
  vector : Bool              -- ORIG: scalar store or vector or image store (Table 15.6)
  seq : Word
  addr : BitVec 56
  source : BitVec 25         -- HARTID of the hart that retired it (R157)
  nt : Bool
  handler : Bool             -- made in handler mode (R364)
  stage : StoreStage
  code : BitVec 8            -- for a held line, the code of the Store column of Table 10.7
  delivered : Bool           -- for a held line, its record has been delivered (R363)
  behind : Bool              -- held behind an older held line of the same byte (R326)
  again : Bool               -- the `replay` under way has still to be done with it (R368)
  found : Option Word        -- when its fault was found, while its record waits to be written (R361, R362)
  pa : Nat                   -- the physical line once translated
  groups : List Nat          -- the lane groups whose late-fault store buffers hold it (R133, R151): cluster × 128 + group
  deriving DecidableEq, Repr

/-- One row of a copy operation (R293, R294). -/
structure CopyRow where
  idx : Nat
  near : Nat                 -- offset in the segment
  mem : Word
  num : Word                 -- `cpg`: the memory row number k
  fill : Bool                -- out of range: no memory access (R293)
  complete : Bool
  held : Bool
  code : BitVec 8
  delivered : Bool
  replayed : Bool            -- re-issued by a replay (R363)
  sent : Bool                -- its writes to the host window have been issued (R407)
  found : Option Word        -- when its fault was found, while its record waits to be written (R361, R362)
  deriving DecidableEq, Repr

/-- The three directions of Table 12.2. -/
inductive CopyKind where
  | gather | toNear | toMemory
  deriving DecidableEq, Repr

/-- One copy operation of a stream (R288). -/
structure CopyOp where
  kind : CopyKind
  len : Nat
  swz : Nat
  nt : Bool
  leave : Bool               -- BMODE
  rows : List CopyRow
  bar : Option Nat           -- the byte barrier bound at hand-off (R306)
  cls : BitVec 2
  arrived : Nat              -- when it was handed over, in nanoseconds since reset (R290)
  seq : Word
  since : Word               -- the model's own: the hart's ISEQ when it was handed over (R327)
  addr : BitVec 56
  source : BitVec 25
  handler : Bool
  deriving DecidableEq, Repr

/-- A copy stream (R288): its counts, the operations not yet done, the newest operation handed to it, its binding. -/
structure Stream where
  ops : BitVec 32
  done : BitVec 32
  queue : List CopyOp
  newest : Option CopyOp
  bar : Option Nat
  deriving DecidableEq, Repr

/-- A stream at handler entry (R288). -/
def Stream.empty : Stream := { ops := 0, done := 0, queue := [], newest := none, bar := none }

/-- A hart's own side of one barrier: ARV and OWED (R334). -/
structure BarSlot where
  arv : Option (BitVec 32)
  owed : Bool
  deriving DecidableEq, Repr

/-- A waiting grant request (R63, R64, R136). -/
structure GrantReq where
  cls : BitVec 2             -- the class it was presented with
  arrived : Nat              -- nanoseconds since reset
  raised : Nat               -- how many times its age has raised its class
  least : Nat                -- the smallest acceptable VL
  most : Nat
  square : Bool
  deriving DecidableEq, Repr

/-- What the instruction at the PC waits for (R67, R146, R303, R340, R354). -/
inductive Wait where
  | none
  | queue                                  -- earlier vector-queue entries, or room in the queue
  | stores                                 -- earlier stores, or room for a store line
  | release                                -- the earlier accesses that a release waits for (R318)
  | copy
  | barrier (slot : Nat) (gen : BitVec 32)
  | stall                                  -- MIG, a frame release, a host snoop, or an uncached read of a WC page in flight
  | window                                 -- a device-class access of the host window in flight
  | committed                              -- an instruction that always completes once issued (R354)
  | commitQueue                            -- the same, while it waits for earlier vector-queue entries
  | replay (held : Nat)                    -- a `replay` under way, and the lines it has found to stay held (R368)
  | ptsync (space : Nat) (global : Bool)
  | inval (space : Nat) (page count : Nat)
  | yield (until_ : Word)                  -- CYCLE at which issue resumes
  deriving DecidableEq, Repr

/-- Neither a cause nor a trap at the head of the queue ends this wait: an access is in flight, or the instruction completes first
(R66, R354). -/
def Wait.mustFinish (w : Wait) : Bool :=
  match w with
  | .window | .committed | .replay _ => true
  | _ => false

/-- What a hart's thread is doing (R9, R35, R396). -/
inductive Run where
  | idle       -- no thread
  | free       -- a serving team's hart between messages
  | assigned   -- has a message, waits for its initial grant (R11)
  | running
  | recording  -- a handler that R353 has ended, its record still to be written (R362)
  | ending     -- a handler that R353 ends, waiting for its copies and stores
  | retired    -- a per-team hart whose handler has ended
  deriving DecidableEq, Repr

/-- The message a hart runs: its queue, its ring entry, its address and its argument block (R33, R35, R36). -/
structure MsgRef where
  queue : Nat
  slot : Nat
  msgVa : Word
  argPtr : Word
  entry : Word               -- the handler's entry address
  request : Nat              -- the initial VL request (R11)
  cls : BitVec 2
  stream : Option (BitVec 32) -- the stream of a message of a STRM queue, pinned or not (R47, R49)
  deriving DecidableEq, Repr

/-- The fields of a fault record that the failing access supplies (Table 15.6). -/
structure FaultRec where
  time : Word                -- TIME: when the fault was found
  seq : Word
  code : BitVec 8
  double : Bool
  replay : Bool
  morePg : Bool
  moreEl : Bool
  orig : BitVec 2
  source : BitVec 25
  x : BitVec 16
  iaddr : BitVec 56
  va : BitVec 56
  y : BitVec 16
  z : BitVec 16
  pages : List (BitVec 16)
  mask : Word
  deriving DecidableEq, Repr

/-- A trap about to be taken: the registers of Table 15.3 that it sets, and the number of the trapping instruction. -/
structure Trap where
  code : BitVec 8
  async : Bool := false
  vq : Bool := false
  pc : Word
  npc : Word := 0
  val : Word := 0
  elem : BitVec 16 := 0
  seq : Word
  counted : Bool := true     -- an instruction that passed decode took its number (R356, log 38)
  iaddr : Option Word := none  -- the trapping instruction, where TRAPPC is not its address (R366)
  raised : Option Word := none -- when it was raised, where it has waited for the entry at the head (R357, R361)
  deriving DecidableEq, Repr

/-- Who a hart is (R50, R51, R355). -/
structure HartId where
  ref : HartRef
  phys : BitVec 17           -- FACET, CLUSTER, HART of HARTID
  space : BitVec 14
  part : BitVec 3
  teamId : BitVec 12
  teamSize : BitVec 10
  modNo : Nat
  deriving DecidableEq, Repr

/-- The scalar registers of a hart and its control registers outside the trap and grant groups. -/
structure Scalars where
  g : Vector Word 64
  pc : Word
  frm : BitVec 3
  fflags : BitVec 5
  srseed : Word
  srctr : Word
  dim0 : Word
  dim1 : Word
  dim2 : Word
  cpBnd : BitVec 16
  cpSel : BitVec 4
  prio : BitVec 2
  iseq : Word
  deriving DecidableEq, Repr

/-- VL, VLMAX, VSTART, VSTAT and the grant behind them (R131 to R143, R151). -/
structure Lanes where
  len : Nat                  -- VL.LEN
  trim : BitVec 15
  tv : Bool
  vlmax : Nat                -- VLC (R14)
  vlmin : Nat                -- the module's floor (R15)
  vstart : BitVec 16
  headDevc : Bool            -- the entry at the head has retired data for a DEVC page, and goes on (R66, R153)
  hmStart : Nat              -- elements done of the head entry while HM = 1, where VSTART is not used (R352, log 42)
  headFound : Option Word    -- when a fault of the load at the head was found, while its record waits to be written (R361, R362)
  groups : List Nat          -- lane groups of the cluster that back the grant
  fold : Nat                 -- log2 F
  released : Bool            -- GST 3 (R143)
  sq : Bool
  square : Bool              -- granted with k[0] = 1 (R225, R378)
  pwr : Bool
  cont : Bool
  folds : BitVec 16
  grantSeq : Nat
  foldSeq : Nat
  req : Option GrantReq
  clockGated : Bool
  awake : List Nat           -- those of its groups whose matrix datapath is not gated (R224)
  spillNear : Nat            -- bytes of the hart's state spilled to its cluster's carve-out (R154)
  spillHbm : Nat             -- bytes spilled to the cluster's region in HBM (R154)
  laneIdle : Nat             -- thousandths of a lane cycle since an entry executed (R381)
  mxIdle : Nat               -- thousandths of a lane cycle since MX work (R224)
  deriving DecidableEq, Repr

/-- Vector registers, predicates and tiles (R127). -/
structure VecState where
  v : Vector VecReg 32
  p : Vector (BitVec 16384) 8
  t : Vector TileReg 4
  deriving DecidableEq, Repr

/-- The trap and privileged registers (Table 15.3) and the queue image (R357). -/
structure TrapRegs where
  hm : Bool
  code : BitVec 8
  async : Bool
  vq : Bool
  pc : Word
  npc : Word
  val : Word
  elem : BitVec 16
  voff : Bool
  nrec : BitVec 16
  record : BitVec 56
  save : Vector Word 4
  vqn : BitVec 7
  vqsel : BitVec 6
  image : Vector VqEntry 64
  deriving DecidableEq, Repr

/-- Pending asynchronous causes other than 0x09 (R354, R372, R374). -/
structure Notices where
  thermal : Option Word      -- global time at which the hart stopped
  preempt : Option Word
  watchdog : Option Word     -- milliseconds run
  deriving DecidableEq, Repr

/-- One hart. -/
structure Hart where
  id : HartId
  run : Run
  sc : Scalars
  ln : Lanes
  vec : VecState
  tr : TrapRegs
  vq : List VqEntry
  wait : Wait
  ir : Option (BitVec 32)    -- the word of the instruction that waits at the PC, fetched and not completed (R67)
  due : Option Trap          -- the trap of the instruction at the PC, raised while a device-class access of the head runs (R357)
  stores : List StoreLine
  recs : List Word           -- VAs of the records written and not delivered, oldest first; 0 for a dropped one
  fatal : Option FaultRec    -- a failure of handler mode that ends the handler at the next boundary (R364), or the record to write
  streams : Vector Stream 16
  bars : Vector BarSlot 24
  notice : Notices
  runNs : Nat                -- handler running time since handler entry (R374)
  dogAt : Nat                -- the part of `runNs` whose watchdog periods have been reported (R374)
  unbilled : Nat             -- running time not yet in AC0 (R400)
  unbilledLane : Nat         -- lane-group time not yet in AC1 (R400)
  msg : Option MsgRef
  deriving DecidableEq, Repr

/-- The hart's handler has begun and holds its ring entry still (R9, R353). -/
def Run.inHandler (r : Run) : Bool := r == .running || r == .recording || r == .ending

/-- A vector register at handler entry (R10). -/
def VecReg.zero : VecReg := { bits := 0, tag := .none }

/-- A tile with no source format (R10). -/
def TileReg.zero : TileReg := { fmt := .none, acc := [] }

/-- Vector state at handler entry (R10): all zero, tags NONE, p0 all ones. -/
def VecState.zero : VecState :=
  { v := Vector.replicate 32 VecReg.zero, p := (Vector.replicate 8 0).set 0 (BitVec.allOnes 16384),
    t := Vector.replicate 4 TileReg.zero }

/-- The hart that stands for no thread: every register at the value log 4 names. -/
def Hart.blank : Hart :=
  { id := { ref := { team := 0, idx := 0 }, phys := 0, space := 0, part := 0, teamId := 0, teamSize := 0, modNo := 0 }
    run := .idle
    sc := { g := Vector.replicate 64 0, pc := 0, frm := 0, fflags := 0, srseed := 0, srctr := 0, dim0 := 0,
            dim1 := 0, dim2 := 0, cpBnd := 0, cpSel := 0, prio := 0, iseq := 0 }
    ln := { len := 0, trim := 0, tv := false, vlmax := 0, vlmin := 0, vstart := 0, headDevc := false, hmStart := 0, headFound := none, groups := [],
            fold := 0, released := false, sq := false, square := false, pwr := false, cont := false, folds := 0,
            grantSeq := 0, foldSeq := 0, req := none, clockGated := true, awake := [], spillNear := 0, spillHbm := 0,
            laneIdle := 0, mxIdle := 0 }
    vec := VecState.zero
    tr := { hm := false, code := 0, async := false, vq := false, pc := 0, npc := 0, val := 0, elem := 0,
            voff := false, nrec := 0, record := 0, save := Vector.replicate 4 0, vqn := 0, vqsel := 0,
            image := Vector.replicate 64 VqEntry.zero }
    vq := []
    wait := .none
    ir := none
    due := none
    stores := []
    recs := []
    fatal := none
    streams := Vector.replicate 16 Stream.empty
    bars := Vector.replicate 24 { arv := none, owed := false }
    notice := { thermal := none, preempt := none, watchdog := none }
    runNs := 0
    dogAt := 0
    unbilled := 0
    unbilledLane := 0
    msg := none }

end Sys2Proof.Machine
end

