-- ==== Sys2Proof/Machine/HubState.lean ====
section
/-! DEFINITION. What the device holds outside its harts: caches and translation (chapter 10), modules and spaces
(chapters 1, 15), queues, timers and streams (chapter 2), teams, farms and partitions (chapters 3, 14), power
(chapter 16), time (chapter 17), host and peers (chapter 18): plain data. -/

namespace Sys2Proof.Machine

/-- A cache that can hold a line (R242): a core's instruction or data L1, by core number of the device, or a facet's L2. -/
inductive Place where
  | l1i (core : Nat)
  | l1d (core : Nat)
  | l2 (facet : Nat)
  deriving DecidableEq, Repr

/-- A cached copy of a line: its tag, the physical line it stands for, its permission bits (R242), and whether it is the one copy
that may be written and must be written back: of the L2s of the device by the directory (R245), of the L1s of a facet by its
L2 (R244). SP of an L2 line is set exactly while an L1 of its facet is listed with the line; a facet's L1 holds no line that
its L2 does not. -/
structure CacheLine where
  cspace : Nat
  vline : Nat                -- VA[55:7]
  pline : Nat                -- PA[51:7]
  place : Place
  r : Bool
  w : Bool
  x : Bool
  own : Bool
  deriving DecidableEq, Repr

/-- A leaf or table entry kept by the translation controller of one facet (R250). -/
structure WalkEntry where
  space : Nat                -- SpaceID (private half) or partition number (global half)
  global : Bool
  ctrl : Nat                 -- the facet whose controller keeps it
  leafOf : Option Nat        -- for a leaf, its page VA[55:16]
  at_ : Nat                  -- physical address of the entry
  val : Word
  deriving DecidableEq, Repr

/-- A frame owner entry with OWNED = 1 (R239); `releasing` between the write of 1 and the clearing (R241). -/
structure FrameOwner where
  frame : Nat                -- PA[38:16]
  cspace : Nat
  vpage : Nat
  releasing : Bool
  deriving DecidableEq, Repr

/-- A line the host may hold: with MetaValue Any or Shared, whether a back-invalidate snoop of it is in flight, BISnpInv or
BISnpData (R245, R408). -/
structure HostLine where
  pline : Nat
  any : Bool                 -- recorded Any: the host may hold it modified
  snooped : Option Nat       -- when BISnp was issued, in nanoseconds since reset
  inval : Bool               -- the snoop is BISnpInv
  late : Bool                -- timed out: the host holds it no more, and a write-back of it is discarded (R408)
  deriving DecidableEq, Repr

/-- A device access to the host window in flight (R407): its hart, the instruction's ISEQ and the
element, its address, and the answer of the host once it has come. -/
structure WindowOp where
  hart : HartRef
  seq : Word
  idx : Nat                  -- the piece of a read or of a row; the element of a device-class write, the VA line of a combined one
  pa : Nat
  size : Nat
  write : Bool
  devc : Bool                -- to a DEVC page (R65, R66)
  data : Nat                 -- what a write carries
  mask : Nat                 -- which bits of it are written
  answer : Option (BitVec 512)
  deriving DecidableEq, Repr

/-- A handler of an installed module (Table 1.5). -/
structure Handler where
  msgType : BitVec 16
  entry : Word
  request : Nat              -- the initial VL request
  deriving DecidableEq, Repr

/-- A section of an installed module that occupies pages (R22). -/
structure SectionMap where
  index : Nat
  base : Nat                 -- VA of the first byte
  msize : Nat
  glob : Bool
  deriving DecidableEq, Repr

/-- An installed module (R26). -/
structure Module where
  num : Nat
  crc : BitVec 32
  vlmin : Nat
  vlmax : Nat
  vlc : Nat
  handlers : List Handler
  sections : List SectionMap
  teamSize : Nat
  gang : Bool
  stream : Bool
  cls : BitVec 2
  facets : BitVec 8
  nearseg : Nat
  stackBase : Word           -- base of the stack regions of the module's harts
  stackSize : Nat            -- bytes of one region (R16)
  stackBytes : Nat           -- bytes allocated for all of them (R16)
  deriving DecidableEq, Repr

/-- What jxload answers to the host (R24, R26). -/
inductive LoadAnswer where
  | installed (num : Nat)
  | refused (step : Nat)     -- the step of R24; 0: no free module number
  | removed (num : Nat)
  | unchanged                -- a removal that R38 refuses, or a plan that no jxload would choose (log 19)
  deriving DecidableEq, Repr

/-- The latest answer of jxload. -/
structure LoadReport where
  space : Nat
  answer : LoadAnswer
  deriving DecidableEq, Repr

/-- A space (R56, R350, R362, R400, R26). -/
structure Space where
  id : Nat
  segmin : Nat
  teEn : Bool
  note : Bool
  tvec : BitVec 54
  wdog : BitVec 8
  targ : Word
  logsz : BitVec 4
  logBase : BitVec 44
  logHead : BitVec 32
  logLost : Bool
  logTail : BitVec 32
  acHart : Word
  acLane : Word
  acDone : BitVec 32
  acEnded : BitVec 32
  acRecs : BitVec 32
  modules : List Module
  deriving DecidableEq, Repr

/-- A space with nothing set: the reset values of R56, R350, R362 and R400. -/
def Space.blank (id : Nat) : Space :=
  { id := id, segmin := 0, teEn := false, note := false, tvec := 0, wdog := 0, targ := 0, logsz := 0, logBase := 0,
    logHead := 0, logLost := false, logTail := 0, acHart := 0, acLane := 0, acDone := 0, acEnded := 0, acRecs := 0,
    modules := [] }

/-- A message in a ring entry that has not been dispatched (R33, R41). -/
structure RingMsg where
  slot : Nat
  msg : BitVec 512
  deadline : Option Int      -- resolved instant of an accepted DEADLINE (R42)
  origin : Origin
  deriving DecidableEq, Repr

/-- A queue descriptor and its ring (R31, R33). -/
structure Queue where
  num : Nat
  en : Bool
  perTeam : Bool
  strm : Bool
  openq : Bool
  cls : BitVec 2
  space : BitVec 14
  part : BitVec 3
  maxTeams : BitVec 12
  ringVa : BitVec 56
  logDepth : BitVec 4
  argDef : BitVec 56
  stateBase : BitVec 56
  slines : BitVec 14
  timeout : BitVec 32
  seed : Word
  modNo : BitVec 6
  badcfg : Bool
  drops : BitVec 16
  lastCode : BitVec 8
  held : List Nat            -- ring entries held, enqueued or in service
  lastSlot : Option Nat      -- the entry written last
  pending : List RingMsg     -- not yet dispatched, in the order enqueued
  deriving DecidableEq, Repr

/-- A queue at reset (Table 2.3). -/
def Queue.blank (num : Nat) : Queue :=
  { num := num, en := false, perTeam := false, strm := false, openq := false, cls := 3, space := 0, part := 0,
    maxTeams := 0, ringVa := 0, logDepth := 0, argDef := 0, stateBase := 0, slines := 0, timeout := 0, seed := 0,
    modNo := 0, badcfg := false, drops := 0, lastCode := 0, held := [], lastSlot := none, pending := [] }

/-- A timed message held in the timer unit (R43). -/
structure Timed where
  at_ : Int
  queue : Nat
  msg : BitVec 512
  deadline : Option Int
  launched : Option (BitVec 14 × BitVec 3)   -- for a `launch`, the space and partition of the hart (R433, check 3)
  deriving DecidableEq, Repr

/-- A message that has come over the host link or a peer port and that the hub has not taken yet: its translation or its ring entry needs a
line that the host holds (R252, R408). -/
structure Inbound where
  origin : Origin
  queue : Nat
  msg : BitVec 512
  deriving DecidableEq, Repr

/-- A launch that placement has accepted and not yet placed whole (R57, R58). -/
structure Placing where
  farm : Nat                 -- uid
  queue : Nat
  desc : Queue               -- the queue's descriptor at dispatch
  ring : RingMsg
  perTeam : Bool
  gang : Bool                -- of a module with GANG = 1
  cls : BitVec 2
  first : Nat                -- TEAMID of the next team to place
  count : Nat                -- teams still to place
  waiting : Bool             -- a GANG farm was tried and found no room (R58)
  deriving DecidableEq, Repr

/-- A launch event record (Table 2.5). -/
structure LaunchEvent where
  time : Word
  part : BitVec 3
  queue : BitVec 16
  msgType : BitVec 16
  code : BitVec 8
  origin : Origin
  deriving DecidableEq, Repr

/-- The entry that a message wants which came while its stream's entry drained: that of its own queue, on the facet where it was
placed or another of its partition (R47, R49). -/
structure StreamWant where
  facet : Nat
  part : BitVec 3
  base : Word
  lines : Nat
  timeoutUs : Nat
  deriving DecidableEq, Repr

/-- A stream-context entry (R47, R49). -/
structure StreamEntry where
  facet : Nat
  space : BitVec 14
  stream : BitVec 32
  base : Word
  lines : Nat
  timeoutUs : Nat
  last : Word
  running : Nat
  draining : Bool
  again : Option StreamWant
  deriving DecidableEq, Repr

/-- A facet's phase plan as written and as in force (R341). -/
structure PhasePlan where
  nph : BitVec 4
  spacing : BitVec 9
  phlo : Word
  phhi : Word
  liveNph : BitVec 4
  effsp : BitVec 9
  livePhlo : Word
  livePhhi : Word
  deriving DecidableEq, Repr

/-- When a waiter may resume: once its facet's lane clock reads this many thousandths of a lane cycle; and in which phase of the
facet's plan (R4, R342, R345). -/
structure ReleaseAt where
  facet : Nat
  lane : Nat
  phase : Nat
  deriving DecidableEq, Repr

/-- A release window: the completed generation, the facets' lane clocks and phase plans at its completion instant, each
participant's release time, none for one that was stopped at that instant, and those that have been stopped then or since (R342,
R344). -/
structure Window where
  gen : BitVec 32
  lanes : Vector Nat 8
  plans : Vector PhasePlan 8
  release : List (HartRef × Option ReleaseAt)
  out : List HartRef
  deriving DecidableEq, Repr

/-- A barrier object (R332, R334). A participant that leaves by `done` has arrived at the current generation and is no member of a
later one. -/
structure Barrier where
  cur : BitVec 32
  members : List HartRef
  arrived : List HartRef
  left : List Nat            -- the facets of those that have left in the current generation
  windows : List Window      -- newest first; a window goes once every release time of it has passed
  deriving DecidableEq, Repr

/-- A strip dispenser (R62). -/
structure Dispenser where
  next : Word
  limit : Word
  deriving DecidableEq, Repr

/-- A farm (R36, R50, R62, R332). -/
structure Farm where
  uid : Nat
  queue : Nat
  perTeam : Bool
  gang : Bool
  slot : Nat                 -- ring entry (per-team mode)
  nteams : Nat
  ended : Nat                -- harts whose handler has ended (per-team mode)
  disp : Vector Dispenser 8
  pkg : Vector Barrier 8
  fac : Vector (Vector Barrier 8) 8      -- by facet
  deriving DecidableEq, Repr

/-- Whether a team's harts run: resident, stopped (R54, R60, R388), or moving to a cluster (R61). -/
inductive TeamStatus where
  | resident
  | stopped (why : StopReason)
  | moving (facet cluster : Nat) (why : StopReason)
  deriving DecidableEq, Repr

/-- A team (R50, R57, R282, R285, R332, R333, R398). -/
structure Team where
  uid : Nat
  farm : Nat
  queue : Nat
  teamId : Nat
  size : Nat
  space : BitVec 14
  part : BitVec 3
  modNo : Nat
  facet : Nat
  cluster : Nat
  slots : List Nat           -- the cluster's harts, by g3
  barFacet : Nat
  order : Nat                -- start order
  status : TeamStatus
  segUnits : Nat
  seg : List Host.Cell       -- the segment, by offset
  segSaved : Bool            -- of a pre-empted team: its segment has left the scratchpad (R285)
  bars : Vector Barrier 8
  stackAt : Nat              -- the first of its harts' stack regions, by index (R16)
  idleNs : Nat               -- for how long none of its harts has run a handler (R398)
  spaceSaved : Bool          -- its context has reached HBM in an emergency (R389)
  deriving DecidableEq, Repr

/-- The four states of a partition (Table 3.3). -/
inductive PartState where
  | running | halting | shadow | hbm
  deriving DecidableEq, Repr

/-- A partition descriptor (R53). -/
structure Partition where
  en : Bool
  facets : BitVec 8
  logVlp : BitVec 5
  badcfg : Bool
  state : PartState
  savePa : BitVec 44
  restoring : Bool           -- CMD = IN accepted, context not yet restored (R54)
  deriving DecidableEq, Repr

/-- A facet governor (Table 16.2 and R378, R379). Powers are in mW. -/
structure Governor where
  lbud : BitVec 12
  fbud : BitVec 12
  didt : BitVec 12
  warn : BitVec 8
  crit : BitVec 8
  resume : BitVec 8
  thr : BitVec 2
  shed : Bool
  minsp : BitVec 9
  hot : BitVec 8
  gcut : Bool
  idle : Bool
  gfold : Bool
  thrdn : Bool
  step : Nat                 -- the last step of R379 in force: 0 to 3, and 3 + n after n steps of the throttle state
  since : Nat                -- when it last changed, in nanoseconds since reset
  excess : Bool              -- the last measurement found the facet's draw over FBUD, or a rail over 110 % of it (R379)
  under : Option Nat         -- since when the facet has been under its budget (R379)
  thrSince : Nat             -- when the throttle state last moved for heat (R386)
  phase : Option (ReleaseAt × Nat) -- the last phase that the facet's barrier unit resumed, and its lane clock then (R345)
  ratio : Nat                -- price scale in 1/1000, 500 .. 2000
  allow : Vector Nat 32      -- each cluster's allowance
  deriving DecidableEq, Repr

/-- A message accepted for a peer port and not yet delivered (R411). -/
structure PortMsg where
  device : BitVec 8
  queue : Nat
  msg : BitVec 512
  origin : Origin
  part : BitVec 3
  source : Option HartRef    -- the hart that sent it by `launch`
  cls : BitVec 2             -- its CLASS field, for egress (R63)
  deriving DecidableEq, Repr

/-- A peer port (Table 18.2). -/
structure Port where
  en : Bool
  up : Bool
  peer : BitVec 8
  retry : BitVec 32
  lost : BitVec 16
  flight : List PortMsg
  deriving DecidableEq, Repr

/-- HST.STATE (Table 18.4). -/
inductive HostState where
  | rom | verify | ready | recovery | emergency | tripped
  deriving DecidableEq, Repr

/-- An attestation response (R419). -/
structure AttestResponse where
  nonce : BitVec 256
  measurement : BitVec 256
  rollback : Nat
  fuses : Word
  hst : Word
  aliasKey : BitVec 384      -- the alias certificate: the alias public key and its signature by the identity key (R418)
  aliasCert : List Byte
  signature : List Byte
  deriving DecidableEq, Repr

/-- What the host's latest HDM access or DOE request was answered (R390, R408, R415, R416, R419). -/
inductive HostAnswer where
  | none
  | data (x : BitVec 512)
  | poison
  | written
  | dropped                  -- a write that is not performed
  | busy
  deriving DecidableEq, Repr

/-- Bring-up state (R405, R414 to R419). -/
structure Boot where
  state : HostState
  memok : Bool
  hostto : Bool
  fail : BitVec 8
  fused : Nat                -- the fused rollback counter
  image : Image
  staged : Option Image
  measurement : BitVec 256
  linkUp : Bool
  features : Bool            -- every required CXL feature is offered
  nonce : Option (BitVec 256)
  response : Option AttestResponse
  identity : BitVec 256      -- the seed of the identity key pair: no register shows it (R418, R419)
  alias_ : BitVec 256        -- the seed of the alias key pair of this start
  aliasKey : BitVec 384
  aliasCert : List Byte
  answer : HostAnswer
  msix : BitVec 8            -- raised vectors
  msixMask : BitVec 8
  deriving DecidableEq, Repr

/-- Time and its discipline (R401 to R403). -/
structure Clock where
  now : Word                 -- TIME
  frac : Nat                 -- what has passed of the next nanosecond of TIME, in 10^-9 ns (R403)
  ran : Nat                  -- nanoseconds since reset, which no step changes
  lane : Vector Nat 8        -- each facet's lane clock, in thousandths of a lane cycle (R4, R375)
  slew : BitVec 20
  pps : Word
  steps : BitVec 32
  ppsv : Bool
  ppsAt : Nat                -- when the latest edge came, in nanoseconds since reset
  cycle : Vector Word 8      -- CYCLE of each facet's cores
  deriving DecidableEq, Repr

/-- One entry of the post-mortem record (Table 16.6). -/
structure PmEntry where
  space : BitVec 14
  part : BitVec 3
  cls : BitVec 2
  saved : Bool
  noSeg : Bool
  teamId : BitVec 12
  queue : BitVec 16
  harts : BitVec 16
  held : BitVec 16
  team : Nat                 -- the model's name of the team
  deriving DecidableEq, Repr

/-- The post-mortem record (Table 16.5); `magic` false once cleared (R393). -/
structure PostMortem where
  magic : Bool
  cause : BitVec 8
  stage : BitVec 8
  facet : BitVec 8
  temp : BitVec 8
  tcrit : Word
  ttrip : Word
  linesLost : BitVec 32
  entries : List PmEntry
  deriving DecidableEq, Repr

/-- A thermal emergency in progress (R387, R388). -/
structure Emergency where
  facet : Nat
  temp : BitVec 8
  start : Word
  stage : Nat                -- the last stage completed
  cool : Option Nat          -- since when every sensor is at or below RESUME (R391), in nanoseconds since reset
  deriving DecidableEq, Repr

/-- Power and energy of the device (R384, R385, R387 to R394). -/
structure Power where
  gov : Vector Governor 8
  plan : Vector PhasePlan 8
  energy : List (Nat × Word)             -- accumulators that are not zero, by offset
  latches : List (Nat × Nat × BitVec 32) -- requester, low-half offset, latched high half
  emergency : Option Emergency
  pm : Option PostMortem
  deriving DecidableEq, Repr

/-- Translation configuration (R229). -/
structure TransCfg where
  en : Bool
  stpa : BitVec 35           -- PA[51:17]
  gv : Vector Bool 8
  groot : Vector (BitVec 35) 8
  deriving DecidableEq, Repr

end Sys2Proof.Machine
end

