-- ==== Sys2Proof/Syntax.lean ====
section
/-! DEFINITION. The instructions and events of spec/opcode_table.json, one constructor per row. Encoded instructions
carry the fields of Table 4.1, long forms those of Table 4.6, events what their rule lets vary. The instructions that
R144 pushes into the vector queue stand first, then the table's order. -/

namespace Sys2Proof

/-- What a facet's governor measures (R379): its draw over 100 µs in mW, and the current of its most loaded rail in per cent of what
FBUD allows (DESIGN CHOICE, log 17). -/
structure Draw where
  mw : Nat
  rail : Nat
  deriving DecidableEq, Repr

/-- One row of the opcode table: an instruction, a long form, or an event of the device. -/
inductive Instr where
  /-- `vadd` (R196): Elementwise add of two vectors. -/
  | vadd (d a b : VReg) (p : PReg) (z : Bool)
  /-- `vsub` (R196): Elementwise subtract. -/
  | vsub (d a b : VReg) (p : PReg) (z : Bool)
  /-- `vmul` (R196): Elementwise multiply. -/
  | vmul (d a b : VReg) (p : PReg) (z : Bool)
  /-- `vdiv` (R196): Elementwise divide. -/
  | vdiv (d a b : VReg) (p : PReg) (z : Bool)
  /-- `vmin` (R196): Elementwise minimum. -/
  | vmin (d a b : VReg) (p : PReg) (z : Bool)
  /-- `vmax` (R196): Elementwise maximum. -/
  | vmax (d a b : VReg) (p : PReg) (z : Bool)
  /-- `vfma` (R196): Fused a × b + vd. -/
  | vfma (d a b : VReg) (p : PReg) (z : Bool)
  /-- `vfms` (R196): Fused a × b − vd. -/
  | vfms (d a b : VReg) (p : PReg) (z : Bool)
  /-- `vnfma` (R196): Fused vd − a × b. -/
  | vnfma (d a b : VReg) (p : PReg) (z : Bool)
  /-- `vabs` (R196): Elementwise absolute value. -/
  | vabs (d a : VReg) (p : PReg) (z : Bool)
  /-- `vneg` (R196): Elementwise negation. -/
  | vneg (d a : VReg) (p : PReg) (z : Bool)
  /-- `vsqrt` (R196): Elementwise floating-point square root. -/
  | vsqrt (d a : VReg) (p : PReg) (z : Bool)
  /-- `vand` (R196): Elementwise AND on integer formats. -/
  | vand (d a b : VReg) (p : PReg) (z : Bool)
  /-- `vor` (R196): Elementwise OR. -/
  | vor (d a b : VReg) (p : PReg) (z : Bool)
  /-- `vxor` (R196): Elementwise XOR. -/
  | vxor (d a b : VReg) (p : PReg) (z : Bool)
  /-- `vsll` (R197): Elementwise left shift. -/
  | vsll (d a b : VReg) (p : PReg) (z : Bool)
  /-- `vsrl` (R197): Elementwise logical right shift. -/
  | vsrl (d a b : VReg) (p : PReg) (z : Bool)
  /-- `vsra` (R197): Elementwise arithmetic right shift. -/
  | vsra (d a b : VReg) (p : PReg) (z : Bool)
  /-- `vmulh` (R197): High half of the elementwise product. -/
  | vmulh (d a b : VReg) (p : PReg) (z : Bool)
  /-- `vsadd` (R197): Saturating elementwise add. -/
  | vsadd (d a b : VReg) (p : PReg) (z : Bool)
  /-- `vssub` (R197): Saturating elementwise subtract. -/
  | vssub (d a b : VReg) (p : PReg) (z : Bool)
  /-- `vmov` (R196): Copies a vector bit for bit. -/
  | vmov (d a : VReg) (p : PReg) (z : Bool)
  /-- `vsel` (R199): Selects each body element from vs1 or vs2 by predicate. -/
  | vsel (d a b : VReg) (p : PReg)
  /-- `vexp2` (R181): Correctly rounded 2^x. -/
  | vexp2 (d a : VReg) (p : PReg) (z : Bool)
  /-- `vlog2` (R181): Correctly rounded log2 x. -/
  | vlog2 (d a : VReg) (p : PReg) (z : Bool)
  /-- `vrcp` (R181): Correctly rounded reciprocal. -/
  | vrcp (d a : VReg) (p : PReg) (z : Bool)
  /-- `vrsqrt` (R181): Correctly rounded reciprocal square root. -/
  | vrsqrt (d a : VReg) (p : PReg) (z : Bool)
  /-- `vclz` (R196): Elementwise leading-zero count. -/
  | vclz (d a : VReg) (p : PReg) (z : Bool)
  /-- `vpopc` (R196): Elementwise population count. -/
  | vpopc (d a : VReg) (p : PReg) (z : Bool)
  /-- `vadd` (R196): Adds a scalar to each element. -/
  | vaddVx (d a : VReg) (g : GReg) (p : PReg) (z : Bool)
  /-- `vsub` (R196): Subtracts a scalar from each element. -/
  | vsubVx (d a : VReg) (g : GReg) (p : PReg) (z : Bool)
  /-- `vmul` (R196): Multiplies each element by a scalar. -/
  | vmulVx (d a : VReg) (g : GReg) (p : PReg) (z : Bool)
  /-- `vdiv` (R196): Divides each element by a scalar. -/
  | vdivVx (d a : VReg) (g : GReg) (p : PReg) (z : Bool)
  /-- `vmin` (R196): Minimum with a scalar. -/
  | vminVx (d a : VReg) (g : GReg) (p : PReg) (z : Bool)
  /-- `vmax` (R196): Maximum with a scalar. -/
  | vmaxVx (d a : VReg) (g : GReg) (p : PReg) (z : Bool)
  /-- `vfma` (R196): Fused a × x + vd with a scalar. -/
  | vfmaVx (d a : VReg) (g : GReg) (p : PReg) (z : Bool)
  /-- `vfms` (R196): Fused a × x − vd with a scalar. -/
  | vfmsVx (d a : VReg) (g : GReg) (p : PReg) (z : Bool)
  /-- `vnfma` (R196): Fused vd − a × x with a scalar. -/
  | vnfmaVx (d a : VReg) (g : GReg) (p : PReg) (z : Bool)
  /-- `vand` (R196): AND with a scalar. -/
  | vandVx (d a : VReg) (g : GReg) (p : PReg) (z : Bool)
  /-- `vor` (R196): OR with a scalar. -/
  | vorVx (d a : VReg) (g : GReg) (p : PReg) (z : Bool)
  /-- `vxor` (R196): XOR with a scalar. -/
  | vxorVx (d a : VReg) (g : GReg) (p : PReg) (z : Bool)
  /-- `vsll` (R197): Left shift by a 64-bit scalar amount. -/
  | vsllVx (d a : VReg) (g : GReg) (p : PReg) (z : Bool)
  /-- `vsrl` (R197): Logical right shift by a scalar amount. -/
  | vsrlVx (d a : VReg) (g : GReg) (p : PReg) (z : Bool)
  /-- `vsra` (R197): Arithmetic right shift by a scalar amount. -/
  | vsraVx (d a : VReg) (g : GReg) (p : PReg) (z : Bool)
  /-- `vmulh` (R197): High half of the product with a scalar. -/
  | vmulhVx (d a : VReg) (g : GReg) (p : PReg) (z : Bool)
  /-- `vsadd` (R197): Saturating add of a scalar. -/
  | vsaddVx (d a : VReg) (g : GReg) (p : PReg) (z : Bool)
  /-- `vssub` (R197): Saturating subtract of a scalar. -/
  | vssubVx (d a : VReg) (g : GReg) (p : PReg) (z : Bool)
  /-- `vsel` (R199): Selects each element from vs1 or a scalar by predicate. -/
  | vselVx (d a : VReg) (g : GReg) (p : PReg)
  /-- `vbcast` (R199): Broadcasts a scalar to every active element. -/
  | vbcast (d : VReg) (g : GReg) (p : PReg) (z : Bool)
  /-- `vaddi` (R200): Adds a signed 8-bit immediate. -/
  | vaddi (d a : VReg) (i : BitVec 8) (p : PReg) (z : Bool)
  /-- `vslli` (R200): Left shift by an immediate. -/
  | vslli (d a : VReg) (i : BitVec 8) (p : PReg) (z : Bool)
  /-- `vsrli` (R200): Logical right shift by an immediate. -/
  | vsrli (d a : VReg) (i : BitVec 8) (p : PReg) (z : Bool)
  /-- `vsrai` (R200): Arithmetic right shift by an immediate. -/
  | vsrai (d a : VReg) (i : BitVec 8) (p : PReg) (z : Bool)
  /-- `vandi` (R200): AND with a sign-extended immediate. -/
  | vandi (d a : VReg) (i : BitVec 8) (p : PReg) (z : Bool)
  /-- `vori` (R200): OR with a sign-extended immediate. -/
  | vori (d a : VReg) (i : BitVec 8) (p : PReg) (z : Bool)
  /-- `vxori` (R200): XOR with a sign-extended immediate. -/
  | vxori (d a : VReg) (i : BitVec 8) (p : PReg) (z : Bool)
  /-- `vcmpeq` (R202): Vector equality compare into a predicate. -/
  | vcmpeq (d : PReg) (a b : VReg) (p : PReg) (z : Bool)
  /-- `vcmpne` (R202): Vector inequality compare. -/
  | vcmpne (d : PReg) (a b : VReg) (p : PReg) (z : Bool)
  /-- `vcmplt` (R202): Vector less-than compare. -/
  | vcmplt (d : PReg) (a b : VReg) (p : PReg) (z : Bool)
  /-- `vcmple` (R202): Vector less-or-equal compare. -/
  | vcmple (d : PReg) (a b : VReg) (p : PReg) (z : Bool)
  /-- `vcmpgt` (R202): Vector greater-than compare. -/
  | vcmpgt (d : PReg) (a b : VReg) (p : PReg) (z : Bool)
  /-- `vcmpge` (R202): Vector greater-or-equal compare. -/
  | vcmpge (d : PReg) (a b : VReg) (p : PReg) (z : Bool)
  /-- `vcmpuo` (R202): Vector unordered compare. -/
  | vcmpuo (d : PReg) (a b : VReg) (p : PReg) (z : Bool)
  /-- `vcmpcls` (R202): Compares the floating-point classes of two vectors. -/
  | vcmpcls (d : PReg) (a b : VReg) (p : PReg) (z : Bool)
  /-- `vcmpeq` (R202): Equality compare against a scalar. -/
  | vcmpeqVx (d : PReg) (a : VReg) (g : GReg) (p : PReg) (z : Bool)
  /-- `vcmpne` (R202): Inequality compare against a scalar. -/
  | vcmpneVx (d : PReg) (a : VReg) (g : GReg) (p : PReg) (z : Bool)
  /-- `vcmplt` (R202): Less-than compare against a scalar. -/
  | vcmpltVx (d : PReg) (a : VReg) (g : GReg) (p : PReg) (z : Bool)
  /-- `vcmple` (R202): Less-or-equal compare against a scalar. -/
  | vcmpleVx (d : PReg) (a : VReg) (g : GReg) (p : PReg) (z : Bool)
  /-- `vcmpgt` (R202): Greater-than compare against a scalar. -/
  | vcmpgtVx (d : PReg) (a : VReg) (g : GReg) (p : PReg) (z : Bool)
  /-- `vcmpge` (R202): Greater-or-equal compare against a scalar. -/
  | vcmpgeVx (d : PReg) (a : VReg) (g : GReg) (p : PReg) (z : Bool)
  /-- `vcmpuo` (R202): Unordered compare against a scalar. -/
  | vcmpuoVx (d : PReg) (a : VReg) (g : GReg) (p : PReg) (z : Bool)
  /-- `vcmpcls` (R202): Tests each element's class against a mask in gs. -/
  | vcmpclsVx (d : PReg) (a : VReg) (g : GReg) (p : PReg) (z : Bool)
  /-- `vredsum` (R203): Tree sum reduction into element 0. -/
  | vredsum (d a : VReg) (p : PReg)
  /-- `vredosum` (R185): Ordered sum reduction. -/
  | vredosum (d a : VReg) (p : PReg)
  /-- `vredmin` (R203): Minimum reduction. -/
  | vredmin (d a : VReg) (p : PReg)
  /-- `vredmax` (R203): Maximum reduction. -/
  | vredmax (d a : VReg) (p : PReg)
  /-- `vredand` (R203): AND reduction. -/
  | vredand (d a : VReg) (p : PReg)
  /-- `vredor` (R203): OR reduction. -/
  | vredor (d a : VReg) (p : PReg)
  /-- `vredxor` (R203): XOR reduction. -/
  | vredxor (d a : VReg) (p : PReg)
  /-- `vredsum.w` (R186): Widening tree sum reduction. -/
  | vredsumW (d a : VReg) (p : PReg)
  /-- `vslideup` (R205): Slides elements up by a scalar offset. -/
  | vslideup (d a : VReg) (g : GReg) (p : PReg) (z : Bool)
  /-- `vslidedn` (R205): Slides elements down by a scalar offset. -/
  | vslidedn (d a : VReg) (g : GReg) (p : PReg) (z : Bool)
  /-- `vrgather` (R205): Gathers elements by an index vector. -/
  | vrgather (d a b : VReg) (p : PReg) (z : Bool)
  /-- `vcompress` (R205): Packs predicate-selected elements to the front. -/
  | vcompress (d a : VReg) (p : PReg)
  /-- `vexpand` (R205): Spreads leading elements to active positions. -/
  | vexpand (d a : VReg) (p : PReg) (z : Bool)
  /-- `viota` (R205): Writes the count of active elements below each position. -/
  | viota (d : VReg) (p : PReg) (z : Bool)
  /-- `vzip` (R205): Interleaves two vectors. -/
  | vzip (d a b : VReg) (p : PReg) (z : Bool)
  /-- `vunzip` (R205): De-interleaves two vectors. -/
  | vunzip (d a b : VReg) (p : PReg) (z : Bool)
  /-- `vrev` (R205): Reverses the body elements. -/
  | vrev (d a : VReg) (p : PReg) (z : Bool)
  /-- `vcvt` (R207): Converts elements to a target format with rounding, saturation and part selection. -/
  | vcvt (d a : VReg) (t : Fmt) (p : PReg) (z : Bool) (k : BitVec 2) (s : Bool) (r : BitVec 2)
  /-- `vcvt.bits` (R207): Reinterprets elements as a same-width format. -/
  | vcvtBits (d a : VReg) (t : Fmt) (p : PReg) (z : Bool)
  /-- `setvl` (R136): Requests a lane grant and writes the granted VL. -/
  | setvl (d a : GReg) (k : BitVec 2)
  /-- `vcfg` (R138): Zeroes a vector register and sets its tag. -/
  | vcfg (d : VReg) (f : Fmt)
  /-- `vmvg` (R140): Copies one element to a general register, holding the hart. -/
  | vmvg (d i : GReg) (v : VReg)
  /-- `vins` (R141): Writes one element from a general register. -/
  | vins (d : VReg) (a i : GReg)
  /-- `vfree` (R142): Releases the hart's lane groups while keeping VL. -/
  | vfree
  /-- `vld` (R267): Unit-stride vector load. -/
  | vld (d : VReg) (b x : GReg) (p : PReg) (f : Fmt)
  /-- `vlds` (R267): Strided vector load. -/
  | vlds (d : VReg) (b x : GReg) (p : PReg) (f : Fmt)
  /-- `vldx` (R267): Indexed vector load. -/
  | vldx (d : VReg) (b : GReg) (x : VReg) (p : PReg) (f : Fmt)
  /-- `vldff` (R270): First-fault load that trims VL at a failing element. -/
  | vldff (d : VReg) (b x : GReg) (p : PReg) (f : Fmt)
  /-- `vst` (R272): Unit-stride vector store. -/
  | vst (s : VReg) (b x : GReg) (p : PReg) (n : Bool)
  /-- `vsts` (R272): Strided vector store. -/
  | vsts (s : VReg) (b x : GReg) (p : PReg) (n : Bool)
  /-- `vstx` (R272): Indexed vector store. -/
  | vstx (s : VReg) (b : GReg) (x : VReg) (p : PReg) (n : Bool)
  /-- `vld.t` (R279): Loads a tile image after checking its header. -/
  | vldT (t : TReg) (b x : GReg)
  /-- `vst.t` (R279): Stores a tile image. -/
  | vstT (t : TReg) (b x : GReg)
  /-- `vld.r` (R278): Loads a register image after checking its header. -/
  | vldR (v : VReg) (b x : GReg) (k : Bool)
  /-- `vst.r` (R278): Stores a register image with header and tag. -/
  | vstR (v : VReg) (b x : GReg) (k : Bool)
  /-- `vld.av` (R281): Loads the arrived prefix of a copy and trims VL. -/
  | vldAv (d : VReg) (b x : GReg) (f : Fmt)
  /-- `vld.am` (R281): Waits for every body element to arrive, then loads. -/
  | vldAm (d : VReg) (b x : GReg) (f : Fmt)
  /-- `vamo.add` (R275): Vector atomic add per element, old values to vd. -/
  | vamoAdd (d : VReg) (b : GReg) (i : VReg) (p : PReg) (s : Scope)
  /-- `vamo.min` (R275): Vector atomic minimum. -/
  | vamoMin (d : VReg) (b : GReg) (i : VReg) (p : PReg) (s : Scope)
  /-- `vamo.max` (R275): Vector atomic maximum. -/
  | vamoMax (d : VReg) (b : GReg) (i : VReg) (p : PReg) (s : Scope)
  /-- `vamo.and` (R275): Vector atomic AND. -/
  | vamoAnd (d : VReg) (b : GReg) (i : VReg) (p : PReg) (s : Scope)
  /-- `vamo.or` (R275): Vector atomic OR. -/
  | vamoOr (d : VReg) (b : GReg) (i : VReg) (p : PReg) (s : Scope)
  /-- `vamo.xor` (R275): Vector atomic XOR. -/
  | vamoXor (d : VReg) (b : GReg) (i : VReg) (p : PReg) (s : Scope)
  /-- `vamo.swap` (R275): Vector atomic swap. -/
  | vamoSwap (d : VReg) (b : GReg) (i : VReg) (p : PReg) (s : Scope)
  /-- `vamo.fmin` (R275): Vector atomic floating-point minimum. -/
  | vamoFmin (d : VReg) (b : GReg) (i : VReg) (p : PReg) (s : Scope)
  /-- `vamo.fadd` (R275): Vector atomic floating-point add. -/
  | vamoFadd (d : VReg) (b : GReg) (i : VReg) (p : PReg) (s : Scope)
  /-- `pand` (R208): Predicate AND. -/
  | pand (d a b : PReg)
  /-- `por` (R208): Predicate OR. -/
  | por (d a b : PReg)
  /-- `pxor` (R208): Predicate XOR. -/
  | pxor (d a b : PReg)
  /-- `pandn` (R208): Predicate AND NOT. -/
  | pandn (d a b : PReg)
  /-- `pnot` (R208): Predicate NOT. -/
  | pnot (d a : PReg)
  /-- `pset` (R208): Sets predicate bits below a count. -/
  | pset (g : GReg) (d : PReg)
  /-- `pcnt` (R208): Counts set predicate bits into a general register. -/
  | pcnt (g : GReg) (a b : PReg)
  /-- `pffs` (R208): Finds the first set predicate bit. -/
  | pffs (g : GReg) (a b : PReg)
  /-- `pbrk` (R209): Keeps ps2 bits up to the first common set bit. -/
  | pbrk (d a b : PReg)
  /-- `pmov` (R208): Copies a predicate. -/
  | pmov (d a : PReg)
  /-- `oacc` (R216): Accumulates a panel outer product into a tile. -/
  | oacc (t : TReg) (a b : VReg) (p : PReg)
  /-- `osub` (R216): Subtracts a panel outer product from a tile. -/
  | osub (t : TReg) (a b : VReg) (p : PReg)
  /-- `mzero` (R215): Zeroes a tile and sets its source format. -/
  | mzero (t : TReg) (f : Fmt)
  /-- `mrd` (R219): Reads tile rows into a vector. -/
  | mrd (t : TReg) (d : VReg) (g : GReg)
  /-- `mrdc` (R219): Reads tile columns into a vector. -/
  | mrdc (t : TReg) (d : VReg) (g : GReg)
  /-- `mwr` (R220): Writes tile rows from a vector. -/
  | mwr (t : TReg) (a : VReg) (g : GReg)
  /-- `oacc.n` (R218): Unsigned outer-product accumulate. -/
  | oaccN (t : TReg) (a b : VReg) (p : PReg)
  /-- `cpg` (R293): Hands a gather of memory rows by number into near rows to a copy stream. -/
  | cpg (d a : GReg) (v : VReg) (n : BitVec 4) (p : PReg)
  /-- `cpt` (R294): Hands a block copy of memory rows to near rows to a stream. -/
  | cpt (d a : GReg) (n : BitVec 4)
  /-- `cpl` (R294): Hands a block copy of near rows to memory to a stream. -/
  | cpl (d a : GReg) (n : BitVec 4)
  /-- `cpmask` (R301): Writes a predicate of the completed rows of the newest operation. -/
  | cpmask (p : PReg) (n : BitVec 4)
  /-- `add` (R102): Adds two general registers modulo 2^64. -/
  | add (d a b : GReg)
  /-- `sub` (R102): Subtracts gs2 from gs1 modulo 2^64. -/
  | sub (d a b : GReg)
  /-- `and` (R102): Bitwise AND of two registers. -/
  | and (d a b : GReg)
  /-- `or` (R102): Bitwise OR of two registers. -/
  | or (d a b : GReg)
  /-- `xor` (R102): Bitwise XOR of two registers. -/
  | xor (d a b : GReg)
  /-- `andn` (R102): a AND NOT b. -/
  | andn (d a b : GReg)
  /-- `sll` (R103): Logical left shift by the whole of gs2, zero at 64 or more. -/
  | sll (d a b : GReg)
  /-- `srl` (R103): Logical right shift by the whole of gs2. -/
  | srl (d a b : GReg)
  /-- `sra` (R103): Arithmetic right shift by the whole of gs2. -/
  | sra (d a b : GReg)
  /-- `rotr` (R103): Rotate right by gs2 mod 64. -/
  | rotr (d a b : GReg)
  /-- `slt` (R102): Signed set-less-than. -/
  | slt (d a b : GReg)
  /-- `sltu` (R102): Unsigned set-less-than. -/
  | sltu (d a b : GReg)
  /-- `min` (R102): Signed minimum. -/
  | min (d a b : GReg)
  /-- `max` (R102): Signed maximum. -/
  | max (d a b : GReg)
  /-- `minu` (R102): Unsigned minimum. -/
  | minu (d a b : GReg)
  /-- `maxu` (R102): Unsigned maximum. -/
  | maxu (d a b : GReg)
  /-- `mul` (R102): Low 64 bits of the product. -/
  | mul (d a b : GReg)
  /-- `mulh` (R102): High 64 bits of the signed product. -/
  | mulh (d a b : GReg)
  /-- `mulhu` (R102): High 64 bits of the unsigned product. -/
  | mulhu (d a b : GReg)
  /-- `div` (R104): Signed division towards zero with defined edge results. -/
  | div (d a b : GReg)
  /-- `divu` (R104): Unsigned division with defined division by zero. -/
  | divu (d a b : GReg)
  /-- `rem` (R104): Signed remainder with the dividend's sign. -/
  | rem (d a b : GReg)
  /-- `remu` (R104): Unsigned remainder. -/
  | remu (d a b : GReg)
  /-- `addw` (R102): 32-bit add, sign-extended. -/
  | addw (d a b : GReg)
  /-- `subw` (R102): 32-bit subtract, sign-extended. -/
  | subw (d a b : GReg)
  /-- `mulw` (R102): 32-bit multiply, sign-extended. -/
  | mulw (d a b : GReg)
  /-- `clz` (R102): Counts leading zero bits. -/
  | clz (d a : GReg)
  /-- `ctz` (R102): Counts trailing zero bits. -/
  | ctz (d a : GReg)
  /-- `popc` (R102): Counts one bits. -/
  | popc (d a : GReg)
  /-- `bswap` (R102): Reverses the byte order. -/
  | bswap (d a : GReg)
  /-- `sxb` (R102): Sign-extends the low byte. -/
  | sxb (d a : GReg)
  /-- `sxh` (R102): Sign-extends the low halfword. -/
  | sxh (d a : GReg)
  /-- `sxw` (R102): Sign-extends the low word. -/
  | sxw (d a : GReg)
  /-- `zxw` (R102): Zero-extends the low word. -/
  | zxw (d a : GReg)
  /-- `addi` (R105): Adds a sign-extended 11-bit immediate. -/
  | addi (d a : GReg) (i : BitVec 11)
  /-- `andi` (R105): AND with a sign-extended immediate. -/
  | andi (d a : GReg) (i : BitVec 11)
  /-- `ori` (R105): OR with a sign-extended immediate. -/
  | ori (d a : GReg) (i : BitVec 11)
  /-- `xori` (R105): XOR with a sign-extended immediate. -/
  | xori (d a : GReg) (i : BitVec 11)
  /-- `slli` (R105): Left shift by a 6-bit immediate. -/
  | slli (d a i : BitVec 6)
  /-- `srli` (R105): Logical right shift by a 6-bit immediate. -/
  | srli (d a i : BitVec 6)
  /-- `srai` (R105): Arithmetic right shift by a 6-bit immediate. -/
  | srai (d a i : BitVec 6)
  /-- `slti` (R105): Signed compare with an immediate. -/
  | slti (d a : GReg) (i : BitVec 11)
  /-- `lhi` (R106): Loads a sign-extended 20-bit immediate shifted left by 11. -/
  | lhi (d : GReg) (i : BitVec 20)
  /-- `beq` (R108): Branches when the registers are equal. -/
  | beq (a b : GReg) (o : BitVec 10)
  /-- `bne` (R108): Branches when the registers differ. -/
  | bne (a b : GReg) (o : BitVec 10)
  /-- `blt` (R108): Branches on signed less-than. -/
  | blt (a b : GReg) (o : BitVec 10)
  /-- `bge` (R108): Branches on signed greater-or-equal. -/
  | bge (a b : GReg) (o : BitVec 10)
  /-- `bltu` (R108): Branches on unsigned less-than. -/
  | bltu (a b : GReg) (o : BitVec 10)
  /-- `bgeu` (R108): Branches on unsigned greater-or-equal. -/
  | bgeu (a b : GReg) (o : BitVec 10)
  /-- `beqz` (R109): Branches when the register is zero. -/
  | beqz (a : GReg) (o : BitVec 17)
  /-- `bnez` (R109): Branches when the register is non-zero. -/
  | bnez (a : GReg) (o : BitVec 17)
  /-- `bltz` (R109): Branches when the register is negative. -/
  | bltz (a : GReg) (o : BitVec 17)
  /-- `bgez` (R109): Branches when the register is non-negative. -/
  | bgez (a : GReg) (o : BitVec 17)
  /-- `bgtz` (R109): Branches when the register is positive. -/
  | bgtz (a : GReg) (o : BitVec 17)
  /-- `blez` (R109): Branches when the register is zero or negative. -/
  | blez (a : GReg) (o : BitVec 17)
  /-- `jal` (R110): Jumps by a word offset and links PC + 4. -/
  | jal (d : GReg) (o : BitVec 20)
  /-- `jalr` (R110): Jumps to register plus immediate and links, trapping on a misaligned target. -/
  | jalr (d a : GReg) (i : BitVec 11)
  /-- `li.l` (R107): Long form loading a signed 42-bit constant. -/
  | liL (d : GReg) (i : BitVec 42)
  /-- `jal.l` (R110): Long-form jump with a 42-bit word offset, linking PC + 8. -/
  | jalL (d : GReg) (o : BitVec 42)
  /-- `addi.l` (R107): Long form adding a signed 36-bit immediate. -/
  | addiL (d a : GReg) (i : BitVec 36)
  /-- `ld.b` (R258): Loads a sign-extended byte. -/
  | ldB (g b : GReg) (i : BitVec 11)
  /-- `ld.h` (R258): Loads a sign-extended halfword. -/
  | ldH (g b : GReg) (i : BitVec 11)
  /-- `ld.w` (R258): Loads a sign-extended word. -/
  | ldW (g b : GReg) (i : BitVec 11)
  /-- `ld.d` (R258): Loads a doubleword. -/
  | ldD (g b : GReg) (i : BitVec 11)
  /-- `ld.bu` (R258): Loads a zero-extended byte. -/
  | ldBu (g b : GReg) (i : BitVec 11)
  /-- `ld.hu` (R258): Loads a zero-extended halfword. -/
  | ldHu (g b : GReg) (i : BitVec 11)
  /-- `ld.wu` (R258): Loads a zero-extended word. -/
  | ldWu (g b : GReg) (i : BitVec 11)
  /-- `st.b` (R258): Stores a byte. -/
  | stB (g b : GReg) (i : BitVec 11)
  /-- `st.h` (R258): Stores a halfword. -/
  | stH (g b : GReg) (i : BitVec 11)
  /-- `st.w` (R258): Stores a word. -/
  | stW (g b : GReg) (i : BitVec 11)
  /-- `st.d` (R258): Stores a doubleword. -/
  | stD (g b : GReg) (i : BitVec 11)
  /-- `ld.acq.w` (R259): Acquire load of a zero-extended word at the named scope. -/
  | ldAcqW (g b : GReg) (s : Scope)
  /-- `ld.acq.d` (R259): Acquire load of a doubleword at the named scope. -/
  | ldAcqD (g b : GReg) (s : Scope)
  /-- `st.rel.w` (R260): Release store of a word, trapping if an earlier store is held. -/
  | stRelW (g b : GReg) (s : Scope)
  /-- `st.rel.d` (R260): Release store of a doubleword, trapping if an earlier store is held. -/
  | stRelD (g b : GReg) (s : Scope)
  /-- `amo.add` (R262): Atomic 64-bit add at the home, returning the old value. -/
  | amoAdd (d a b : GReg) (o : MemOrder) (s : Scope)
  /-- `amo.and` (R262): Atomic AND. -/
  | amoAnd (d a b : GReg) (o : MemOrder) (s : Scope)
  /-- `amo.or` (R262): Atomic OR. -/
  | amoOr (d a b : GReg) (o : MemOrder) (s : Scope)
  /-- `amo.xor` (R262): Atomic XOR. -/
  | amoXor (d a b : GReg) (o : MemOrder) (s : Scope)
  /-- `amo.min` (R262): Atomic signed minimum. -/
  | amoMin (d a b : GReg) (o : MemOrder) (s : Scope)
  /-- `amo.max` (R262): Atomic signed maximum. -/
  | amoMax (d a b : GReg) (o : MemOrder) (s : Scope)
  /-- `amo.minu` (R262): Atomic unsigned minimum. -/
  | amoMinu (d a b : GReg) (o : MemOrder) (s : Scope)
  /-- `amo.maxu` (R262): Atomic unsigned maximum. -/
  | amoMaxu (d a b : GReg) (o : MemOrder) (s : Scope)
  /-- `amo.swap` (R262): Atomic swap. -/
  | amoSwap (d a b : GReg) (o : MemOrder) (s : Scope)
  /-- `amo.cas` (R262): Atomic compare-and-swap against the old gd. -/
  | amoCas (d a b : GReg) (o : MemOrder) (s : Scope)
  /-- `amo.incb` (R262): Atomic increment only while below a bound. -/
  | amoIncb (d a b : GReg) (o : MemOrder) (s : Scope)
  /-- `amo.fmin` (R262): Atomic FP64 minimum. -/
  | amoFmin (d a b : GReg) (o : MemOrder) (s : Scope)
  /-- `amo.fadd` (R262): Atomic FP64 add rounded to nearest even. -/
  | amoFadd (d a b : GReg) (o : MemOrder) (s : Scope)
  /-- `fadd.s` (R116): FP32 add. -/
  | faddS (d a b : GReg)
  /-- `fadd.d` (R116): FP64 add. -/
  | faddD (d a b : GReg)
  /-- `fsub.s` (R116): FP32 subtract. -/
  | fsubS (d a b : GReg)
  /-- `fsub.d` (R116): FP64 subtract. -/
  | fsubD (d a b : GReg)
  /-- `fmul.s` (R116): FP32 multiply. -/
  | fmulS (d a b : GReg)
  /-- `fmul.d` (R116): FP64 multiply. -/
  | fmulD (d a b : GReg)
  /-- `fdiv.s` (R116): FP32 divide. -/
  | fdivS (d a b : GReg)
  /-- `fdiv.d` (R116): FP64 divide. -/
  | fdivD (d a b : GReg)
  /-- `fsqrt.s` (R116): FP32 square root. -/
  | fsqrtS (d a : GReg)
  /-- `fsqrt.d` (R116): FP64 square root. -/
  | fsqrtD (d a : GReg)
  /-- `fmin.s` (R117): FP32 minimum. -/
  | fminS (d a b : GReg)
  /-- `fmin.d` (R117): FP64 minimum. -/
  | fminD (d a b : GReg)
  /-- `fmax.s` (R117): FP32 maximum. -/
  | fmaxS (d a b : GReg)
  /-- `fmax.d` (R117): FP64 maximum. -/
  | fmaxD (d a b : GReg)
  /-- `fmac.s` (R116): FP32 fused multiply-add into gd. -/
  | fmacS (d a b : GReg)
  /-- `fmac.d` (R116): FP64 fused multiply-add into gd. -/
  | fmacD (d a b : GReg)
  /-- `fneg.s` (R115): Flips the FP32 sign bit. -/
  | fnegS (d a : GReg)
  /-- `fneg.d` (R115): Flips the FP64 sign bit. -/
  | fnegD (d a : GReg)
  /-- `fabs.s` (R115): Clears the FP32 sign bit. -/
  | fabsS (d a : GReg)
  /-- `fabs.d` (R115): Clears the FP64 sign bit. -/
  | fabsD (d a : GReg)
  /-- `feq.s` (R118): FP32 equality compare. -/
  | feqS (d a b : GReg)
  /-- `feq.d` (R118): FP64 equality compare. -/
  | feqD (d a b : GReg)
  /-- `flt.s` (R118): FP32 less-than compare. -/
  | fltS (d a b : GReg)
  /-- `flt.d` (R118): FP64 less-than compare. -/
  | fltD (d a b : GReg)
  /-- `fle.s` (R118): FP32 less-or-equal compare. -/
  | fleS (d a b : GReg)
  /-- `fle.d` (R118): FP64 less-or-equal compare. -/
  | fleD (d a b : GReg)
  /-- `fclass.s` (R119): Classifies an FP32 value into a one-hot mask. -/
  | fclassS (d a : GReg)
  /-- `fclass.d` (R119): Classifies an FP64 value into a one-hot mask. -/
  | fclassD (d a : GReg)
  /-- `fcvt.s.d` (R120): Converts FP64 to FP32. -/
  | fcvtSD (d a : GReg)
  /-- `fcvt.d.s` (R120): Converts FP32 to FP64 exactly. -/
  | fcvtDS (d a : GReg)
  /-- `fcvt.l.s` (R120): Converts FP32 to a saturating 64-bit integer. -/
  | fcvtLS (d a : GReg)
  /-- `fcvt.l.d` (R120): Converts FP64 to a saturating 64-bit integer. -/
  | fcvtLD (d a : GReg)
  /-- `fcvt.s.l` (R120): Converts a 64-bit integer to FP32. -/
  | fcvtSL (d a : GReg)
  /-- `fcvt.d.l` (R120): Converts a 64-bit integer to FP64. -/
  | fcvtDL (d a : GReg)
  /-- `sysrd` (R365): Reads a system register, waiting for the vector queue for the listed registers. -/
  | sysrd (d : GReg) (i : BitVec 11)
  /-- `syswr` (R365): Writes a system register's writable fields. -/
  | syswr (a : GReg) (i : BitVec 11)
  /-- `trap` (R366): Raises cause 0x0D with the immediate in TRAPVAL. -/
  | trap (i : BitVec 11)
  /-- `done` (R396): Ends the handler after its release, copy wait, barrier leave and lane release. -/
  | done
  /-- `yield` (R397): Stops issue for 256 scalar cycles or until an asynchronous cause. -/
  | yield
  /-- `eret` (R367): Returns from the trap handler, reloading the queue image. -/
  | eret
  /-- `launch` (R45): Sends a 64-byte message image to a queue as a release and returns the disposition. -/
  | launch (d a : GReg) (i : BitVec 11)
  /-- `replay` (R368): Re-translates and performs held store lines or copy rows. -/
  | replay (d a : GReg)
  /-- `fence` (R322): Orders the hart's accesses by acquire, release, acq_rel or sc at a scope. -/
  | fence (o : BitVec 3) (s : Scope)
  /-- `bar.arv` (R336): Arrives at a hardware barrier with a release, without waiting. -/
  | barArv (d : GReg) (n : BitVec 3) (s : Scope)
  /-- `bar.wt` (R337): Waits for the barrier generation named by a token. -/
  | barWt (d a : GReg) (n : BitVec 3) (s : Scope)
  /-- `bar.sy` (R338): Arrives unless an arrival is owed, then waits. -/
  | barSy (d : GReg) (n : BitVec 3) (s : Scope)
  /-- `strip` (R346): Takes the next index from a strip dispenser. -/
  | stripTake (d : GReg) (n : BitVec 3)
  /-- `strip` (R346): Declares a new loop limit on a strip dispenser. -/
  | stripDeclare (d a : GReg) (n : BitVec 3)
  /-- `vsync` (R348): Waits for the vector queue and optionally for earlier stores. -/
  | vsync (k : Bool)
  /-- `inval` (R370): Removes the lines of n pages from every cache. -/
  | inval (n a : GReg) (i : BitVec 11)
  /-- `ptsync` (R369): Makes page-table writes visible to later walks. -/
  | ptsync (a : GReg) (k : Bool)
  /-- `cpavail` (R299): Returns OPS and DONE of a copy stream. -/
  | cpavail (d : GReg) (n : BitVec 4)
  /-- `cpwait` (R300): Waits until outstanding operations fall to a limit. -/
  | cpwait (d a : GReg) (n : BitVec 4)
  /-- `bx.init` (R306): Binds a copy stream to a byte barrier, optionally clearing it. -/
  | bxInit (a : GReg) (k : Bool) (n : BitVec 4)
  /-- `bx.exp` (R307): Posts a byte expectation to a byte barrier. -/
  | bxExp (n a : GReg)
  /-- `bx.wait` (R308): Waits until a byte barrier completes. -/
  | bxWait (d a : GReg)
  /-- `cpsel` (R302): Selects the stream followed by later arrival loads. -/
  | cpsel (n : BitVec 4)
  /-- MODULE_LOAD (R24): jxload checks a module in order and installs it whole or refuses it. -/
  | moduleLoad (space part : Nat) (file : List Byte) (plan : LoadPlan)
  /-- MODULE_REMOVE (R38): jxload replaces or removes a module when its queues and teams are idle. -/
  | moduleRemove (space modNo : Nat)
  /-- WAKE_WRITE (R39): A 64-byte wake write delivers a message to a queue. -/
  | wakeWrite (offset bytes : Nat) (data : BitVec 512)
  /-- TIMER_FIRE (R43): A held timed message reaches its instant and is enqueued or refused. -/
  | timerFire (i : Nat)
  /-- PEER_MESSAGE_RECEIVE (R411): A message arrives over a peer port and is checked or forwarded. -/
  | peerMessageReceive (port : BitVec 3) (device : BitVec 8) (queue : Nat) (msg : BitVec 512)
  /-- ONYX_DISPATCH (R41): Onyx selects a head message by class and queue order and hands it to placement. -/
  | onyxDispatch (choice : Nat)
  /-- TEAM_PLACE (R57): A team, or a whole GANG farm, is placed on a cluster once room exists. -/
  | teamPlace (i : Nat)
  /-- TEAM_RESUME (R60): Pre-empted teams resume when room returns. -/
  | teamResume (team : Nat)
  /-- HANDLER_ENTRY (R10): A hart starts a handler on a message once its initial grant is made. -/
  | handlerEntry (h : HartRef)
  /-- STREAM_TIMEOUT (R49): A silent stream entry reaches its timeout and starts draining. -/
  | streamTimeout (i : Nat)
  /-- STREAM_DRAIN_COMPLETE (R49): A stream entry's write-back completes and the entry is freed or reallocated. -/
  | streamDrainComplete (i : Nat)
  /-- QUEUE_ENABLE (R31): Setting a queue's EN is checked and enables it or sets BADCFG. -/
  | queueEnable (q : Nat)
  /-- QUEUE_DISABLE (R38): Clearing a queue's EN stops enqueueing and dispatch. -/
  | queueDisable (q : Nat)
  /-- QUEUE_MAXTEAMS_WRITE (R31): A new MAXTEAMS takes effect at once, launching or retiring teams. -/
  | queueMaxteamsWrite (q : Nat) (n : BitVec 12)
  /-- PARTITION_ENABLE (R53): Setting a partition's EN is checked and enables it or sets BADCFG. -/
  | partitionEnable (p : BitVec 3)
  /-- PARTITION_OUT (R54): CMD OUT halts a running partition for saving. -/
  | partitionOut (p : BitVec 3)
  /-- PARTITION_HALT_COMPLETE (R54): The halted partition's context reaches shadow SRAM and STATE becomes SHADOW. -/
  | partitionHaltComplete (p : BitVec 3)
  /-- PARTITION_IN (R54): CMD IN restores a parked partition or is refused. -/
  | partitionIn (p : BitVec 3)
  /-- PARTITION_RESTORE_COMPLETE (R54): The restore finishes, STATE becomes RUNNING and harts resume. -/
  | partitionRestoreComplete (p : BitVec 3)
  /-- TEAM_MOVE (R61): The scheduler stops a team to move it to another cluster. -/
  | teamMove (team facet cluster : Nat)
  /-- TEAM_MOVE_COMPLETE (R61): The moved team's segment and context arrive and its harts resume. -/
  | teamMoveComplete (team : Nat)
  /-- LANE_REQUEST_AGE (R64): A waiting grant request's class rises after each 256 µs. -/
  | laneRequestAge (h : HartRef)
  /-- VQ_ENTRY_COMMIT (R145): A vector-queue entry reaches the head, executes and commits in program order. -/
  | vqEntryCommit (h : HartRef)
  /-- SETVL_GRANT (R136): A waiting setvl is granted once a value fits. -/
  | setvlGrant (h : HartRef)
  /-- REBIND (R143): A released hart is rebound at its VL before its next entry. -/
  | rebind (h : HartRef)
  /-- FOLD (R148): The allocator folds a hart's backing, spilling surplus state. -/
  | fold (h : HartRef) (elems : Nat)
  /-- UNFOLD (R155): The allocator unfolds a folded hart when groups and budget allow. -/
  | unfold (h : HartRef)
  /-- STORE_LINE_TRANSLATE (R247): A retired store line is translated at its home and performed or held. -/
  | storeLineTranslate (h : HartRef) (i : Nat)
  /-- HOME_REQUEST (R247): A miss, load, atomic or fill is translated and served at its home. -/
  | homeRequest (h : HartRef) (va : Word) (kind : AccessKind)
  /-- MIG_STALL_RESUME (R248): An access stalled on MIG resumes once a walk finds MIG clear. -/
  | migStallResume (h : HartRef) (i : Nat)
  /-- FRAME_RELEASE (R241): Writing 1 to OWNED starts removing every cached copy of the frame. -/
  | frameRelease (frame : Nat)
  /-- FRAME_RELEASE_COMPLETE (R241): The release finishes and the owner entry is cleared. -/
  | frameReleaseComplete (frame : Nat)
  /-- HOST_MEM_ACCESS (R252): A host CXL.mem access is served at the frame's home. -/
  | hostMemAccess (pa : Nat) (data : Option (BitVec 512)) (hold : HostMeta)
  /-- HOST_BIRSP (R408): The host's BIRsp arrives and the waiting device request proceeds. -/
  | hostBirsp (line : Nat) (writeBack : Option (BitVec 1024))
  /-- HOST_SNOOP_TIMEOUT (R408): No BIRsp within 10 ms: the host copy is treated invalid and HOSTTO set. -/
  | hostSnoopTimeout (line : Nat)
  /-- COPY_ROW_COMPLETE (R288): A copy row completes, updating stream counts and its barrier. -/
  | copyRowComplete (h : HartRef) (stream : BitVec 4) (op row : Nat)
  /-- COPY_ROW_FAULT (R297): A failing copy row is held, recorded and raises the deferred interrupt. -/
  | copyRowFault (h : HartRef) (stream : BitVec 4) (op row : Nat)
  /-- BARRIER_COMPLETE (R334): A barrier generation receives its last arrival and completes. -/
  | barrierComplete (kind : BarKind) (owner facet : Nat) (b : BitVec 3)
  /-- BARRIER_PHASE_RELEASE (R342): A waiter's release time arrives and it resumes. -/
  | barrierPhaseRelease (h : HartRef)
  /-- PHASE_PLAN_WRITE (R341): A phase plan write takes effect at the next completion with no window open. -/
  | phasePlanWrite (facet dw : Nat) (value : Word)
  /-- ASYNC_CAUSE_TAKE (R354): A pending asynchronous cause is taken at an instruction boundary. -/
  | asyncCauseTake (h : HartRef)
  /-- WATCHDOG (R374): A further WDOG ms of handler running time makes Watchdog pending. -/
  | watchdog (h : HartRef)
  /-- YIELD_TIMEOUT (R397): The 256-cycle yield expires and issue resumes. -/
  | yieldTimeout (h : HartRef)
  /-- GOVERNOR_TICK (R378): Every 10 µs the governor rescales prices and divides the lane budget. -/
  | governorTick (facet ratio : Nat)
  /-- GOVERNOR_STEP (R379): After 100 µs or on overcurrent the governor escalates or undoes a step. -/
  | governorStep (facet : Nat) (draw : Draw)
  /-- GOVERNOR_WRITE (R377): A GV0 or GV1 write is clamped or ignored and takes effect within 10 µs. -/
  | governorWrite (facet dw : Nat) (value : Word)
  /-- LANE_CLOCK_GATE (R381): A granted group idle for 4,096 lane cycles is clock-gated. -/
  | laneClockGate (h : HartRef)
  /-- MATRIX_GATE (R224): A group's matrix datapath is gated after 8,192 lane cycles without MX work. -/
  | matrixGate (h : HartRef)
  /-- THERMAL_WARN (R386): A facet's HOT crosses WARN, starting throttling and shedding. -/
  | thermalWarn (facet : Nat) (temp : BitVec 8)
  /-- THROTTLE_STEP (R386): Each 1 ms the throttle state moves one step. -/
  | throttleStep (facet : Nat)
  /-- THERMAL_EMERGENCY (R387): A sensor held at CRIT for 10 µs starts a package emergency. -/
  | thermalEmergency (facet : Nat) (temp : BitVec 8)
  /-- EMERGENCY_STAGE_COMPLETE (R388): An emergency stage finishes and the next begins. -/
  | emergencyStageComplete
  /-- THERMAL_RESUME (R391): After 100 ms at or below RESUME the device restores rails and teams. -/
  | thermalResume
  /-- HARD_TRIP (R392): A sensor reaching TRIP removes compute rails and enters TRIPPED. -/
  | hardTrip (facet : Nat) (temp : BitVec 8)
  /-- POSTMORTEM_CLEAR (R393): A write to MAGIC clears the post-mortem record. -/
  | postmortemClear
  /-- ENERGY_UPDATE (R384): Energy accumulators are updated every 1 µs. -/
  | energyUpdate (added : List (Nat × Nat))
  /-- ENERGY_LOW_READ (R385): A 4-byte low-half read latches the high half for the requester. -/
  | energyLowRead (requester offset : Nat)
  /-- ENERGY_HIGH_READ (R385): A 4-byte high-half read returns the latched or current high bits. -/
  | energyHighRead (requester offset : Nat)
  /-- TEAM_IDLE_RETIRE (R398): A per-hart team idle for 100 µs retires. -/
  | teamIdleRetire (team : Nat)
  /-- ACCOUNTING_UPDATE (R400): Space accounting is updated at least every 10 µs. -/
  | accountingUpdate
  /-- ACCOUNTING_CLEAR (R400): Writing CLR zeroes a space's accounting doublewords. -/
  | accountingClear (space : Nat)
  /-- TIME_STEP (R403): A STEP write adds to TIME on every facet at one instant. -/
  | timeStep (delta : Word)
  /-- PPS_EDGE (R403): A 1PPS rising edge latches TIME into PPS. -/
  | ppsEdge
  /-- PPS_TIMEOUT (R403): No 1PPS edge for 1.1 s clears PPSV. -/
  | ppsTimeout
  /-- COLD_RESET (R415): After reset the ROM verifies firmware, trains HBM and reaches READY or RECOVERY. -/
  | coldReset (image : Image) (trained : Bool)
  /-- HCMD_RESTART (R415): HCMD 1 restarts the device through boot. -/
  | hcmdRestart
  /-- HCMD_INSTALL (R416): HCMD 2 installs the staged image and restarts. -/
  | hcmdInstall
  /-- DOE_IMAGE_WRITE (R417): A new image written through DOE is verified and staged. -/
  | doeImageWrite (image : Image)
  /-- ATTEST_REQUEST (R419): A DOE attestation request with a nonce is accepted or answered BUSY. -/
  | attestRequest (nonce : BitVec 256)
  /-- ATTEST_RESPONSE_READY (R419): The signed attestation response becomes ready and vector 3 is raised. -/
  | attestResponseReady
  /-- CXL_LINK_TRAIN (R405): The host link comes up and the required CXL features are checked. -/
  | cxlLinkTrain (features : Bool)
  /-- PEER_LINK_UP (R412): A peer port's link trains and UP becomes 1. -/
  | peerLinkUp (port : BitVec 3) (peer : BitVec 8)
  /-- PEER_LINK_DOWN (R411): A peer port goes down and its undelivered messages are discarded. -/
  | peerLinkDown (port : BitVec 3)
  /-- CONFIG_WRITE (R5): A write to a configuration or system register with no row of its own. -/
  | configWrite (offset : BarOffset) (value : Word)
  /-- ILLEGAL_WORD (R82): A fetched word with an illegal major, an unassigned selector or a non-zero reserved field raises Illegal (0x01) at decode. -/
  | illegalWord (w : BitVec 32) (second : Option (BitVec 32))
  /-- CONTINUATION (R72): A word with 0x3F in bits [31:26] fetched as a first word raises Continuation (0x02). -/
  | continuation (w : BitVec 32)
  /-- PTSYNC_DROP_COMPLETE (R369): Every controller complex finishes dropping the cached table entries of the named space, and the waiting ptsync completes. -/
  | ptsyncDropComplete (h : HartRef)
  /-- INVAL_COMPLETE (R251): Every copy of the named pages is gone from every L1 and L2 with dirty data written back, and the waiting inval completes. -/
  | invalComplete (h : HartRef)
  /-- HOST_WINDOW_COMPLETION (R407): The host completes a device WC or DEVC access to the host window carried over CXL.io or CXL.cache. -/
  | hostWindowCompletion (h : HartRef) (seq : Word) (data : BitVec 512)
  /-- FLIT_RETRY (R410): A peer-port flit that fails its CRC is retried at link level and counted in RETRY. -/
  | flitRetry (port : BitVec 3)
  /-- HOST_TO_DEVICE_SNOOP (R405): A CXL.cache host-to-device snoop arrives and is answered invalid. -/
  | hostToDeviceSnoop (pa : Nat)
  deriving DecidableEq, Repr

end Sys2Proof
end

