-- ==== Sys2Proof/Machine/State.lean ====
section
/-! DEFINITION. The state of the machine, its state after reset, and the reasons a step can stop. -/

namespace Sys2Proof.Machine

/-- What moves next: a hart's turn, a row of the opcode table that is an event, the passing of time, the eviction of a cached
copy, elements done of a store or atomic at the head of a queue (R149), or the arrival of a port's next message at the far
end (log 1, log 2, log 8, log 44, log 46). -/
inductive Action where
  | hart (h : HartRef)
  | event (i : Instr)
  | pass
  | evict (i : Nat)
  | headPart (h : HartRef)
  | portSend (port : Nat)
  | inbound
  deriving DecidableEq, Repr

/-- The whole device. -/
structure State where
  hart : Hart                       -- the hart whose turn it is
  others : List Hart                -- every other hart that has a thread
  teams : List Team
  farms : List Farm
  spaces : List Space               -- spaces something has been set for
  loadReport : Option LoadReport    -- what jxload answered last (R24, R26)
  mem : List Host.Cell              -- the current bytes of HBM, by PA; an unlisted byte is 0 (log 3)
  backing : List Host.Cell          -- HBM's own bytes where a cache holds newer ones (R245, R392)
  lines : List CacheLine
  walks : List WalkEntry
  frames : List FrameOwner
  hostLines : List HostLine
  windowOps : List WindowOp
  trans : TransCfg
  queues : List Queue               -- queues something has been set for
  timers : List Timed
  inbound : List Inbound            -- messages that wait on the host link and the peer ports, oldest first (R252, R408, log 33)
  served : Vector Nat 4             -- the queue last served in each class (R41)
  placing : List Placing
  events : List LaunchEvent         -- launch event records, oldest first (log 16)
  streamEntries : List StreamEntry
  parts : Vector Partition 8
  power : Power
  clock : Clock
  ports : Vector Port 8
  devnum : BitVec 8
  route : Vector (BitVec 8) 256
  boot : Boot
  agenda : List Action              -- the model's own: what moves next (log 1)
  tick : Nat                        -- the model's own: how often time has passed; free values are drawn from it (log 1, log 2)
  nextUid : Nat                     -- the model's own: names for teams, farms and grants
  deriving DecidableEq, Repr

/-- Why the machine stops. Both are safe: the machine stops where the hardware goes on. -/
inductive Fault where
  /-- A device-class access of a hart reaches an offset of the hub window to which the spec gives no register (log 6).
  Raised by the device accesses of Machine/Hub.lean. Safe. -/
  | hubUnassigned (offset : Nat)
  deriving DecidableEq, Repr

/-- Why an instruction has no meaning. -/
inductive Refusal where
  /-- An instruction whose meaning has not been written. Raised by the arms of Machine/Dispatch.lean only. Safe. -/
  | notModelled (mnemonic : String)
  deriving DecidableEq, Repr

/-- What a step or a meaning answers. -/
abbrev Out := Host.Outcome State Fault Refusal

/-- A facet's governor at reset (Table 16.2). -/
def Governor.initial : Governor :=
  { lbud := 1550, fbud := 2400, didt := 128, warn := 95, crit := 105, resume := 85, thr := 0, shed := false,
    minsp := 16, hot := 0, gcut := false, idle := false, gfold := false, thrdn := false, step := 0, since := 0,
    excess := false, under := none, thrSince := 0, phase := none, ratio := 1000, allow := Vector.replicate 32 12109 }

/-- A facet's phase plan at reset (Table 14.2). -/
def PhasePlan.initial : PhasePlan :=
  { nph := 15, spacing := 32, phlo := 0xFEDCBA9876543210, phhi := 0xFEDCBA9876543210, liveNph := 15, effsp := 32,
    livePhlo := 0xFEDCBA9876543210, livePhhi := 0xFEDCBA9876543210 }

/-- The machine right after reset (Tables 2.3, 3.3, 10.1, 14.2, 16.2, 17.3, 18.2, 18.4): no team, no module, no cached
line, nothing in memory. -/
def State.reset : State :=
  { hart := Hart.blank
    others := []
    teams := []
    farms := []
    spaces := []
    loadReport := none
    mem := []
    backing := []
    lines := []
    walks := []
    frames := []
    hostLines := []
    windowOps := []
    trans := { en := false, stpa := 0, gv := Vector.replicate 8 false, groot := Vector.replicate 8 0 }
    queues := []
    timers := []
    inbound := []
    served := Vector.replicate 4 65535
    placing := []
    events := []
    streamEntries := []
    parts := Vector.replicate 8
      { en := false, facets := 0, logVlp := 0, badcfg := false, state := .running, savePa := 0, restoring := false }
    power :=
      { gov := Vector.replicate 8 Governor.initial, plan := Vector.replicate 8 PhasePlan.initial, energy := [],
        latches := [], emergency := none, pm := none }
    clock :=
      { now := 0, frac := 0, ran := 0, lane := Vector.replicate 8 0, slew := 0, pps := 0, steps := 0, ppsv := false, ppsAt := 0,
        cycle := Vector.replicate 8 0 }
    ports := Vector.replicate 8 { en := false, up := false, peer := 0, retry := 0, lost := 0, flight := [] }
    devnum := 0
    route := Vector.replicate 256 0xFF
    boot :=
      { state := .rom, memok := false, hostto := false, fail := 0, fused := 0,
        image := { bytes := [], rollback := 0, formatOk := false, signature := [] }, staged := none,
        measurement := 0, linkUp := false, features := false, nonce := none, response := none, identity := 0,
        alias_ := 0, aliasKey := 0, aliasCert := [], answer := .none, msix := 0, msixMask := 0xFF }
    agenda := []
    tick := 0
    nextUid := 1 }

end Sys2Proof.Machine
end

