-- ==== Sys2Proof/Machine/MemOps.lean ====
section
/-! DEFINITION. Bytes by address in canonical form: addresses strictly rising, no byte equal to what an unlisted address
reads as, which is 0 (log 3). Wider accesses are little-endian (R3). -/

namespace Sys2Proof.Machine

/-- The byte at an address; an unlisted address reads 0 (log 3). -/
def memRead (m : List Host.Cell) (a : Nat) : Byte :=
  match m with
  | [] => 0
  | (k, b) :: rest => if k = a then b else if a < k then 0 else memRead rest a

/-- Put a cell at the head of a list, unless it holds what an unlisted address reads as. -/
def memCons (a : Nat) (v : Byte) (m : List Host.Cell) : List Host.Cell := if v = 0 then m else (a, v) :: m

/-- Write one byte, keeping the canonical form. -/
def memWrite (m : List Host.Cell) (a : Nat) (v : Byte) : List Host.Cell :=
  match m with
  | [] => memCons a v []
  | (k, b) :: rest =>
    if k = a then memCons a v rest
    else if a < k then memCons a v ((k, b) :: rest)
    else (k, b) :: memWrite rest a v

/-- The canonical form: every address above `lo` and rising, no zero byte. -/
def memWfFrom (lo : Nat) (m : List Host.Cell) : Bool :=
  match m with
  | [] => true
  | (k, b) :: rest => decide (lo ≤ k) && b != 0 && memWfFrom (k + 1) rest

/-- The canonical form of a memory. -/
def Memory.wf (m : List Host.Cell) : Bool := memWfFrom 0 m

/-- `n` bytes from an address up, as a number, little-endian. -/
def readLE (m : List Host.Cell) (a : Nat) (n : Nat) : Nat :=
  match n with
  | 0 => 0
  | k + 1 => (memRead m a).toNat + 256 * readLE m (a + 1) k

/-- Write the low `n` bytes of a number from an address up, little-endian. -/
def writeLE (m : List Host.Cell) (a : Nat) (n : Nat) (v : Nat) : List Host.Cell :=
  match n with
  | 0 => m
  | k + 1 => writeLE (memWrite m a (BitVec.ofNat 8 v)) (a + 1) k (v / 256)

/-- Write the bytes of `data` whose `mask` byte is not zero, bit by bit under the mask, from an address up (R272). -/
def writeMasked (m : List Host.Cell) (a : Nat) (n : Nat) (data mask : Nat) : List Host.Cell :=
  match n with
  | 0 => m
  | k + 1 =>
    let mb : Byte := BitVec.ofNat 8 mask
    let db : Byte := BitVec.ofNat 8 data
    let m' := if mb = 0 then m else memWrite m a ((memRead m a &&& ~~~mb) ||| (db &&& mb))
    writeMasked m' (a + 1) k (data / 256) (mask / 256)

/-- Zero the cells of a range: what an unlisted address reads as (R156). -/
def memClear (m : List Host.Cell) (a n : Nat) : List Host.Cell :=
  m.filter (fun c => c.1 < a || a + n ≤ c.1)

/-- Record HBM's own byte of an address before a cache holds a newer one, in address order; the first record stands
(R392). -/
def keepOld (b : List Host.Cell) (a : Nat) (v : Byte) : List Host.Cell :=
  match b with
  | [] => [(a, v)]
  | (k, w) :: rest => if k = a then b else if a < k then (a, v) :: b else (k, w) :: keepOld rest a v

/-- Record the old bytes of a range that a cached write changes. -/
def keepOldRange (s : State) (a n : Nat) : List Host.Cell :=
  (List.range n).foldl (fun b i => keepOld b (a + i) (memRead s.mem (a + i))) s.backing

/-- A line's dirty data has been written to its frame: HBM's bytes are the current ones (R241, R245, R251). -/
def cleanLine (s : State) (pline : Nat) : State :=
  { s with backing := s.backing.filter (fun c => c.1 / 128 != pline) }

/-- Write bytes of HBM under a mask. `cached`: the write goes to a cache, and HBM keeps its bytes until write-back. -/
def hbmWriteMasked (s : State) (pa n data mask : Nat) (cached : Bool) : State :=
  let b := if cached then keepOldRange s pa n else s.backing.filter (fun c => c.1 < pa || pa + n ≤ c.1)
  { s with backing := b, mem := writeMasked s.mem pa n data mask }

/-- A physical write of HBM by the hub, the host or the walker: dirty device data goes first, every cached copy of the line is
dropped, and the bytes reach the frame (R32, R236, R252, R314). -/
def frameWrite (s : State) (pa n data mask : Nat) : State :=
  let s1 := hbmWriteMasked (cleanLine s (pa / 128)) pa n data mask false
  { s1 with lines := s1.lines.filter (fun c => c.pline != pa / 128) }

/-- Write whole bytes of HBM. -/
def hbmWrite (s : State) (pa n data : Nat) (cached : Bool) : State :=
  hbmWriteMasked s pa n data (256 ^ n - 1) cached

end Sys2Proof.Machine
end

