-- ==== Sys2Proof/Machine/Translate.lean ====
section
/-! DEFINITION. Address spaces, walks, owners and homes (R226 to R241, R247, R248, R408). -/

namespace Sys2Proof.Machine

/-- A space's settings; the reset values where nothing has been set. -/
def State.space (s : State) (id : Nat) : Space := (s.spaces.find? (fun x => x.id == id)).getD (Space.blank id)

/-- Replace a space's settings. -/
def State.setSpace (s : State) (x : Space) : State :=
  { s with spaces := x :: s.spaces.filter (fun y => y.id != x.id) }

/-- A team by its name in the model. -/
def State.team? (s : State) (uid : Nat) : Option Team := s.teams.find? (fun t => t.uid == uid)

/-- Change a team. -/
def State.updTeam (s : State) (uid : Nat) (f : Team → Team) : State :=
  { s with teams := upd s.teams (fun t => t.uid == uid) f }

/-- FACET of a hart (Table 3.2). -/
def HartId.facet (i : HartId) : Nat := natBits i.phys.toNat 14 3

/-- CLUSTER of a hart (Table 3.2). -/
def HartId.cluster (i : HartId) : Nat := natBits i.phys.toNat 9 5

/-- HART of a hart (Table 3.2). -/
def HartId.slot (i : HartId) : Nat := natBits i.phys.toNat 0 9

/-- The core a hart sits on, by its number in the device: hart h sits on core h >> 1 (R51). -/
def HartId.core (i : HartId) : Nat := i.phys.toNat / 2

/-- HARTID (R51): the source number of a hart's records (R404). -/
def State.hartid (s : State) (i : HartId) : BitVec 25 := s.devnum ++ i.phys

/-- VA[55]: the global half (R227). -/
def globalHalf (va : Nat) : Bool := natBit va 55

/-- The home facet of a VA (R237). -/
def colour (va : Nat) : Nat :=
  (natBits va 16 3 ^^^ natBits va 19 3) ^^^ (natBits va 22 3 ^^^ natBits va 25 3)

/-- The home slice of a line within its facet (R238). -/
def homeSlice (va : Nat) : Nat := natBits va 7 6 ^^^ natBits va 28 6

/-- The cache space that tags a VA's lines (R227). -/
def cacheSpace (space va : Nat) : Nat := if globalHalf va then 0 else space

/-- NEARVA (R282). -/
def nearVa : Nat := 0x10000000000

/-- A VA lies in the near window (R282). -/
def inNear (va : Nat) : Bool := nearVa ≤ va && va < nearVa + 0x400000

/-- Where the space-table entry of a space stands (R230). -/
def spaceEntryAt (s : State) (space : Nat) : Nat := s.trans.stpa.toNat * 2 ^ 17 + space * 8

/-- The space-table entry of a space (R230). -/
def spaceEntry (s : State) (space : Nat) : Nat := readLE s.mem (spaceEntryAt s space) 8

/-- The checks of R226 and R227 on an address, for an access of a space of a partition. -/
def addressOk (s : State) (space part va : Nat) : Bool :=
  va < 2 ^ 56 && (!globalHalf va || (natBit (spaceEntry s space) 1 && natBits va 52 3 == part))

/-- A table address lies in the HBM window and meets its alignment (R232, R233). -/
def tableOk (pa align : Nat) : Bool := pa < 2 ^ 39 && pa % align == 0

/-- The table that a root, level-1 or level-2 entry names, for a table of the given alignment (R233). -/
def nextTable (entry align : Nat) : Option Nat :=
  let pa := natBits entry 11 41 * 2 ^ 11
  if natBit entry 0 && natBits entry 1 10 == 0 && tableOk pa align then some pa else none

/-- The root that a walk starts from (R229, R230, R232). The private half of SpaceID 0, which is never used (R227), has no valid
translation (DESIGN CHOICE, log 49). No controller keeps the space-table entry: every walk reads it in memory (DESIGN CHOICE, log 9). -/
def walkRoot (s : State) (space part va : Nat) : Option Nat :=
  let e := spaceEntry s space
  if !s.trans.en || !natBit e 0 || natBits e 5 12 != 0 || natBits e 52 12 != 0 || natBits e 2 3 != part then none
  else if globalHalf va then
    if vget s.trans.gv part false then
      let r := (vget s.trans.groot part 0).toNat * 2 ^ 17
      if tableOk r (2 ^ 17) then some r else none
    else none
  else if space = 0 then none
  else
    let r := natBits e 17 35 * 2 ^ 17
    if tableOk r (2 ^ 17) then some r else none

/-- Walk the tables for a VA: the leaf PTE and where it stands, or no valid translation before it (R232, R233). -/
def walkLeaf (s : State) (space part va : Nat) : Option (Nat × Nat) := do
  let root ← walkRoot s space part va
  let l1 ← nextTable (readLE s.mem (root + natBits va 42 14 * 8) 8) 0x1000
  let l2 ← nextTable (readLE s.mem (l1 + natBits va 33 9 * 8) 8) 0x1000
  let l3 ← nextTable (readLE s.mem (l2 + natBits va 24 9 * 8) 8) 0x800
  let at_ := l3 + natBits va 16 8 * 8
  some (readLE s.mem at_ 8, at_)

/-- FRAME of a leaf as a physical address (Table 10.4). -/
def pteFrame (pte : Nat) : Nat := natBits pte 16 36 * 2 ^ 16

/-- A physical address lies in the HBM window (Table 10.3). -/
def isHbm (pa : Nat) : Bool := pa < 2 ^ 39

/-- A physical address lies in the hub window (Table 10.3). -/
def isHub (pa : Nat) : Bool := natBits pa 50 2 == 1

/-- A physical address lies in the host window (Table 10.3). -/
def isHost (pa : Nat) : Bool := natBit pa 51

/-- A leaf is a valid translation of a VA (R231, R235). -/
def leafValid (pte va : Nat) : Bool :=
  let cls := natBits pte 4 2
  let f := pteFrame pte
  natBit pte 0 && natBits pte 11 5 == 0 && cls != 3 && !(natBit pte 2 && natBit pte 3)
    && natBit pte 10 == globalHalf va
    && ((isHbm f && cls != 2 && natBits f 36 3 == colour va) || (isHub f && cls == 2) || (isHost f && cls != 0))
    && !(cls == 2 && natBit pte 7)

/-- The name under which controllers keep an entry: the space of a private page, the partition of a global one (R250). -/
def walkKey (space part va : Nat) : Nat := if globalHalf va then part else space

/-- An entry is one that the home controller of a VA keeps for its space or slice. -/
def WalkEntry.serves (w : WalkEntry) (space part va : Nat) : Bool :=
  w.space == walkKey space part va && w.global == globalHalf va && w.ctrl == colour va

/-- The entry at a physical address as the home controller of a VA sees it: the one it keeps, else memory's (R250). -/
def tableEntry (s : State) (space part va at_ : Nat) : Nat :=
  match s.walks.find? (fun w => w.serves space part va && w.at_ == at_) with
  | some w => w.val.toNat
  | none => readLE s.mem at_ 8

/-- Keep an entry that a walk has read; one already kept stays as it is (R250, log 9). -/
def keepEntry (s : State) (space part va : Nat) (leaf : Bool) (at_ : Nat) : State :=
  if s.walks.any (fun w => w.serves space part va && w.at_ == at_) then s
  else
    let w : WalkEntry :=
      { space := walkKey space part va, global := globalHalf va, ctrl := colour va
        leafOf := if leaf then some (va / 65536) else none, at_ := at_, val := BitVec.ofNat 64 (readLE s.mem at_ 8) }
    { s with walks := w :: s.walks }

/-- Where the tables for a VA put each entry of its walk, as far as the walk gets: the root's, the level-1, level-2 and leaf
entries, and whether the last is the leaf (R232, R233). -/
def walkPath (s : State) (space part va : Nat) : List Nat × Option Nat :=
  match walkRoot s space part va with
  | none => ([], none)
  | some root =>
    let a0 := root + natBits va 42 14 * 8
    match nextTable (tableEntry s space part va a0) 0x1000 with
    | none => ([a0], none)
    | some l1 =>
      let a1 := l1 + natBits va 33 9 * 8
      match nextTable (tableEntry s space part va a1) 0x1000 with
      | none => ([a0, a1], none)
      | some l2 =>
        let a2 := l2 + natBits va 24 9 * 8
        match nextTable (tableEntry s space part va a2) 0x800 with
        | none => ([a0, a1, a2], none)
        | some l3 => ([a0, a1, a2], some (l3 + natBits va 16 8 * 8))

/-- A walk by the home controller of a VA: the leaf it finds, and the state with every entry it read kept (R250). -/
def walkKept (s : State) (space part va : Nat) : Option (Nat × Nat) × State :=
  match walkPath s space part va with
  | (tables, none) => (none, tables.foldl (fun t a => keepEntry t space part va false a) s)
  | (tables, some at_) =>
    let s1 := keepEntry (tables.foldl (fun t a => keepEntry t space part va false a) s) space part va true at_
    (some (tableEntry s1 space part va at_, at_), s1)

/-- The leaf of a page that its home controller keeps, if it keeps one (R250). -/
def cachedLeaf (s : State) (space part va : Nat) : Option Nat :=
  (s.walks.find? (fun w => w.serves space part va && w.leafOf == some (va / 65536))).map (fun w => w.val.toNat)

/-- Give a kept entry the value that the walker's read-modify-write left or found in memory (R236). -/
def updEntry (s : State) (space part va at_ v : Nat) : State :=
  { s with walks := upd s.walks (fun w => w.serves space part va && w.at_ == at_) (fun w => { w with val := BitVec.ofNat 64 v }) }

/-- What a home answers an access (R247, R248). -/
inductive Home where
  | ok (pte : Nat)          -- translated and permitted, A and D set, the frame claimed
  | zeros                   -- a load from a discarded page
  | fault (code : Nat)
  | mig                     -- stalls on MIG
  | busy                    -- waits for a frame release or for the host (R241, R408)
  deriving DecidableEq, Repr

/-- The permission an access needs (Table 10.7). -/
def permitted (pte : Nat) (k : AccessKind) : Bool :=
  match k with
  | .fetch => natBit pte 3
  | .load => natBit pte 1
  | .store => natBit pte 2
  | .atomic => natBit pte 1 && natBit pte 2

/-- The checks of Table 10.7 after a valid translation and before MIG: what stops the access, if anything does. The table's class row
holds a dash for atomics; R255's class check of an atomic is made in the place of that row (DESIGN CHOICE, log 49). -/
def leafChecks (pte : Nat) (k : AccessKind) : Option Home :=
  let dis := natBit pte 6
  if dis && k != .load then some (.fault 0x0B)
  else if dis then some .zeros
  else if !permitted pte k then some (.fault 0x07)
  else if k == .fetch && natBits pte 4 2 != 0 then some (.fault 0x0C)
  else if k == .atomic && !isHbm (pteFrame pte) then some (.fault 0x0C)
  else if natBit pte 7 then some .mig
  else none

/-- Issue a back-invalidate snoop for every host-held line that a test selects: BISnpInv, or BISnpData for a read that may leave
the host a shared copy (R408). -/
def issueSnoops (s : State) (p : HostLine → Bool) (inval : Bool) : State :=
  let sent := upd s.hostLines (fun h => p h && h.snooped.isNone)
    (fun h => { h with snooped := some s.clock.ran, inval := inval })
  { s with hostLines := sent }

/-- The host's recorded copy of a line conflicts with a device access to it: any copy with a write, one recorded Any with a read
(R408). -/
def HostLine.conflicts (h : HostLine) (pline : Nat) (write : Bool) : Bool :=
  !h.late && h.pline == pline && (h.any || write)

/-- The host is recorded to hold a line (R408). -/
def hostHolds (s : State) (pline : Nat) : Bool := s.hostLines.any (fun h => h.conflicts pline true)

/-- The state with the snoops issued that a device access to a line must wait for, if there are any (R408). -/
def snoopLine (s : State) (pline : Nat) (write : Bool) : Option State :=
  if s.hostLines.any (fun h => h.conflicts pline write) then some (issueSnoops s (fun h => h.conflicts pline write) write)
  else none

/-- The snoop that the first of some physical reads of the walker must wait for (R252, R408). -/
def snoopReads (s : State) (at_ : List Nat) : Option State :=
  (at_.find? (fun a => s.hostLines.any (fun h => h.conflicts (a / 128) false))).bind (fun a => snoopLine s (a / 128) false)

/-- The snoop that a core's check of R227 must wait for: of an address in the global half it reads the space-table entry (R252,
R408). -/
def entrySnoop (s : State) (space va : Nat) : Option State :=
  if va < 2 ^ 56 && globalHalf va then snoopReads s [spaceEntryAt s space] else none

/-- The entries that a walk for a VA reads in memory: the space-table entry, which is never kept (log 9), and those of the tables that its
controller does not keep (R230, R250). -/
def walkReads (s : State) (space part va : Nat) : List Nat :=
  let p := walkPath s space part va
  let kept := fun (a : Nat) => s.walks.any (fun w => w.serves space part va && w.at_ == a)
  spaceEntryAt s space :: (p.1 ++ p.2.toList).filter (fun a => !kept a)

/-- The host may hold a line of a frame (R408). -/
def HostLine.ofFrame (h : HostLine) (frame : Nat) : Bool := !h.late && h.pline / 512 == frame

/-- The owner check of a fill or WC access to an HBM frame (R240, R241, R408): the state with the frame claimed, or why
the access does not proceed. A claim first back-invalidates every line of the frame that the host holds. -/
def claimFrame (s : State) (cspace va pa : Nat) (write : Bool) : Except Home State × State :=
  let f := pa / 65536
  match s.frames.find? (fun o => o.frame == f) with
  | none =>
    if s.hostLines.any (fun h => h.ofFrame f) then (.error .busy, issueSnoops s (fun h => h.ofFrame f) true)
    else
      let s' := { s with frames := { frame := f, cspace := cspace, vpage := va / 65536, releasing := false } :: s.frames }
      (.ok s', s')
  | some o =>
    if o.releasing then (.error .busy, s)
    else if o.cspace == cspace && o.vpage == va / 65536 then
      match snoopLine s (pa / 128) write with
      | some s' => (.error .busy, s')
      | none => (.ok s, s)
    else (.error (.fault 0x0A), s)

/-- An access writes, for D (R236) and for the host's copies (R408). -/
def isWrite (k : AccessKind) : Bool := k == .store || k == .atomic

/-- A leaf as an access leaves it: A set, and D for a store or atomic (R236). -/
def accessed (pte : Nat) (k : AccessKind) : Nat := if isWrite k then pte ||| 0x300 else pte ||| 0x100

/-- Set A, and D for a store or atomic, with an atomic read-modify-write at the PTE's home; none where memory no longer
holds the entry the walk read (R236). -/
def setAccessed (s : State) (space part va pte at_ : Nat) (k : AccessKind) : Option (State × Nat) :=
  let want := accessed pte k
  if want = pte then some (s, pte)
  else if readLE s.mem at_ 8 = pte then
    some (updEntry (frameWrite s at_ 8 want (2 ^ 64 - 1)) space part va at_ want, want)
  else none

/-- The access proceeds from `s'`, with A and D set: it waits where the host holds a copy of the entry's line that the
read-modify-write conflicts with (R252, R408), and then nothing is claimed. -/
def proceed (s s' : State) (space part va pte at_ : Nat) (k : AccessKind) : Option (Home × State) :=
  match (if accessed pte k = pte then none else snoopLine s (at_ / 128) true) with
  | some s1 => some (.busy, s1)
  | none => (setAccessed s' space part va pte at_ k).map (fun r => (.ok r.2, r.1))

/-- One translation at the home from a leaf: every check of Table 10.7 in order, then A and D. None where the walk must
restart (R236). -/
def homeFrom (s : State) (space part va : Nat) (k : AccessKind) (leaf : Option (Nat × Nat)) : Option (Home × State) :=
  match leaf with
  | none => some (.fault 0x08, s)
  | some (pte, at_) =>
    if !leafValid pte va then some (.fault 0x08, s)
    else
      match leafChecks pte k with
      | some .zeros => (proceed s s space part va pte at_ k).map (fun r => (if r.1 == .busy then .busy else .zeros, r.2))
      | some h => some (h, s)
      | none =>
        let pa := pteFrame pte + va % 65536
        if isHbm pa then
          match claimFrame s (cacheSpace space va) va pa (isWrite k) with
          | (.error h, s') => some (h, s')
          | (.ok s', _) => proceed s s' space part va pte at_ k
        else proceed s s space part va pte at_ k

/-- The leaf that a walk used, as its read-modify-write found it in memory (R236). -/
def rereadLeaf (s : State) (space part va : Nat) (leaf : Option (Nat × Nat)) : State :=
  match leaf with
  | none => s
  | some (_, at_) => updEntry s space part va at_ (readLE s.mem at_ 8)

/-- Translate an access at its home (R247): a walk, from the entries its controller keeps where it keeps them. A walk whose
read-modify-write finds the leaf changed restarts from the root with the leaf as found (R236), and cannot find it
changed again; no other entry is dropped (R250). A walk waits for the host's copy of a line that it has to read (R252, R408). -/
def home (s : State) (space part va : Nat) (k : AccessKind) : Home × State :=
  if !s.trans.en then (.fault 0x08, s)
  else
    match snoopReads s (walkReads s space part va) with
    | some s1 => (.busy, s1)
    | none =>
      let w := walkKept s space part va
      match homeFrom w.2 space part va k w.1 with
      | some r => r
      | none =>
        let w' := walkKept (rereadLeaf w.2 space part va w.1) space part va
        (homeFrom w'.2 space part va k w'.1).getD (.busy, w'.2)

end Sys2Proof.Machine
end

