-- ==== Sys2Proof/Machine/Access.lean ====
section
/-! DEFINITION. Accesses of the current hart: caches and their permission bits (R242 to R246), the near window (R282,
R283), loads with the hart's own unperformed stores (R312, R326), retirement and performance of stores (R151, R258,
R272, R326), atomics at their home (R262, R275, R325). -/

namespace Sys2Proof.Machine

/-- Replace the current hart. -/
def State.withHart (s : State) (h : Hart) : State := { s with hart := h }

/-- The space of the current hart. -/
def State.sp (s : State) : Nat := s.hart.id.space.toNat

/-- The partition of the current hart. -/
def State.pt (s : State) : Nat := s.hart.id.part.toNat

/-! ## Cached copies -/

/-- A cached copy is of a given line. -/
def CacheLine.isLine (c : CacheLine) (cspace vline : Nat) : Bool := c.cspace == cspace && c.vline == vline

/-- The facet a cache belongs to. -/
def Place.facet : Place → Nat
  | .l1i core | .l1d core => core / 2 ^ 13
  | .l2 f => f

/-- Lines a cache holds (R242): 32 KiB in an L1, 256 MiB in an L2. -/
def Place.capacity : Place → Nat
  | .l1i _ | .l1d _ => 2 ^ 8
  | .l2 _ => 2 ^ 21

/-- A cache is an L1. -/
def Place.isL1 : Place → Bool
  | .l1i _ | .l1d _ => true
  | .l2 _ => false

/-- The copy of a line in a place. -/
def copyAt (s : State) (p : Place) (cspace vline : Nat) : Option CacheLine :=
  s.lines.find? (fun c => c.place == p && c.isLine cspace vline)

/-- A copy stands in the L2 that pins its line (R48). -/
def pinned (s : State) (c : CacheLine) : Bool :=
  s.streamEntries.any (fun e => c.place == .l2 e.facet &&
    (let va := c.vline * 128
     c.cspace == cacheSpace e.space.toNat va && decide (e.base.toNat ≤ va ∧ va < e.base.toNat + e.lines * 128)))

/-- A copy leaves its cache: an L2's takes the copies of its facet's L1s with it, and the owner's dirty data goes to the frame
(R244, R245). -/
def removeCopy (s : State) (c : CacheLine) : State :=
  let s1 := if c.own && !c.place.isL1 then cleanLine s c.pline else s
  let gone := fun (d : CacheLine) => d.isLine c.cspace c.vline
    && (d.place == c.place || (!c.place.isL1 && d.place.isL1 && d.place.facet == c.place.facet))
  { s1 with lines := s1.lines.filter (fun d => !gone d) }

/-- The current hart's L2 does not keep a line, and then no L1 of its facet does (R244, R272, R286). -/
def forgetL2 (s : State) (cspace vline : Nat) : State :=
  ((copyAt s (.l2 s.hart.id.facet) cspace vline).map (removeCopy s)).getD s

/-- Room for a new copy in a full cache: a copy that is not pinned leaves it, as the implementation chooses (R48, R242,
log 8). -/
def makeRoom (s : State) (c : CacheLine) : State :=
  let there := s.lines.filter (fun d => d.place == c.place)
  if there.length ≤ c.place.capacity then s
  else
    let may := there.filter (fun d => !d.isLine c.cspace c.vline && !pinned s d)
    ((may[Config.victim s.tick % may.length]?).map (removeCopy s)).getD s

/-- Put a copy in a place, replacing the bits of one already there (R243). -/
def putCopy (s : State) (c : CacheLine) : State :=
  makeRoom { s with lines := c :: s.lines.filter (fun d => !(d.place == c.place && d.isLine c.cspace c.vline)) } c

/-- Remove every copy of a line that a test on its place selects (R244, R245). -/
def dropCopies (s : State) (cspace vline : Nat) (p : Place → Bool) : State :=
  { s with lines := s.lines.filter (fun c => !(c.isLine cspace vline && p c.place)) }

/-- Put a copy in an L1 beside those of other L1s of its facet, none of which may write the line any more (R244). -/
def shareL1 (s : State) (c : CacheLine) : State :=
  let other := fun (d : CacheLine) => d.isLine c.cspace c.vline && d.place.isL1 && d.place.facet == c.place.facet
  putCopy { s with lines := upd s.lines other (fun d => { d with own := false }) } c

/-- A copy as a fill makes it from a leaf (R242); `own`: it is filled for a write, or was the owner's already. -/
def fillLine (cspace va pa pte : Nat) (p : Place) (own : Bool) : CacheLine :=
  { cspace := cspace, vline := va / 128, pline := pa / 128, place := p, r := natBit pte 1,
    w := natBit pte 2 && natBit pte 9, x := natBit pte 3, own := own }

/-- Fill a line into a facet's L2, and into the given L1 for a scalar access (R242, R244); `write`: for a write, which has taken
every other copy away (R245). -/
def fillAt (s : State) (facet cspace va pa pte : Nat) (l1 : Option Place) (write : Bool) : State :=
  let had := ((copyAt s (.l2 facet) cspace (va / 128)).map (fun c => c.own)).getD false
  let s1 := putCopy s (fillLine cspace va pa pte (.l2 facet) (write || had))
  match l1 with
  | none => s1
  | some p => shareL1 s1 (fillLine cspace va pa pte p write)

/-- A fill of the current hart. -/
def fill (s : State) (va pa pte : Nat) (l1 : Option Place) (write : Bool) : State :=
  fillAt s s.hart.id.facet (cacheSpace s.sp va) va pa pte l1 write

/-- A cached copy that grants an access: the hart's own L1, or its facet's L2 (R243). -/
def granted (s : State) (va : Nat) (l1 : Option Place) (bit : CacheLine → Bool) : Option CacheLine :=
  let cs := cacheSpace s.sp va
  let inL1 := l1.bind (fun p => (copyAt s p cs (va / 128)).filter bit)
  match inL1 with
  | some c => some c
  | none => (copyAt s (.l2 s.hart.id.facet) cs (va / 128)).filter bit

/-- A scalar read that hits takes its line into the L1 it looks in (R244). -/
def touchL1 (s : State) (c : CacheLine) (l1 : Option Place) : State :=
  match l1 with
  | some p => if c.place == p then s else shareL1 s { c with place := p, own := false }
  | none => s

/-! ## The hart's own stores -/

/-- A store line covers a byte of a VA range with any bit. -/
def StoreLine.touches (l : StoreLine) (va size : Nat) : Bool :=
  l.line == va / 128 && natBits (l.mask.toNat) (va % 128 * 8) (size * 8) != 0

/-- The data of a range of a store line. -/
def StoreLine.dataAt (l : StoreLine) (va size : Nat) : Nat := natBits l.data.toNat (va % 128 * 8) (size * 8)

/-- The write mask of a range of a store line. -/
def StoreLine.maskAt (l : StoreLine) (va size : Nat) : Nat := natBits l.mask.toNat (va % 128 * 8) (size * 8)

/-- A value with a store line's bits laid over it. -/
def overlayOne (va size old : Nat) (l : StoreLine) : Nat :=
  if l.line == va / 128 then
    let m := l.maskAt va size
    (old ^^^ (old &&& m)) ||| (l.dataAt va size &&& m)
  else old

/-- A value read from memory with the hart's own unperformed stores laid over it, oldest first (R147, R312, R326). -/
def overlay (ls : List StoreLine) (va size old : Nat) : Nat := ls.foldl (overlayOne va size) old

/-- Every bit of a range stands in the deferred-store buffer (R326). -/
def allHeld (ls : List StoreLine) (va size : Nat) : Bool :=
  (ls.filter (fun l => l.stage == .held && l.line == va / 128)).foldl (fun m l => m ||| l.maskAt va size) 0
    == 2 ^ (size * 8) - 1

/-- Some bit of a range stands in the deferred-store buffer. -/
def anyHeld (ls : List StoreLine) (va size : Nat) : Bool := ls.any (fun l => l.stage == .held && l.touches va size)

/-- Some bit of a range is an own store that is neither performed nor held. -/
def anyPending (ls : List StoreLine) (va size : Nat) : Bool :=
  ls.any (fun l => l.stage != .held && l.touches va size)

/-! ## Near window -/

/-- The segment of the current hart's team, in bytes (R283). -/
def State.segBytes (s : State) : Nat := ((s.team? s.hart.id.ref.team).map (fun t => t.segUnits * 4096)).getD 0

/-- The bytes of the current hart's segment (R284). -/
def State.seg (s : State) : List Host.Cell := ((s.team? s.hart.id.ref.team).map (fun t => t.seg)).getD []

/-- Change the bytes of the current hart's segment. -/
def State.updSeg (s : State) (f : List Host.Cell → List Host.Cell) : State :=
  s.updTeam s.hart.id.ref.team (fun t => { t with seg := f t.seg })

/-- A near access of `size` bytes lies within the segment (R283). -/
def nearOk (s : State) (va size : Nat) : Bool := va - nearVa + size ≤ s.segBytes

/-! ## Loads -/

/-- What a load of one unit answers. -/
inductive LoadRes where
  | val (x : Nat) (s : State)
  | fault (code : Nat) (s : State)
  | wait (w : Wait) (s : State)        -- MIG, a frame release, a host snoop, an earlier store
  | device (pa : Nat) (wc : Bool) (s : State)      -- an uncached read of the hub window, or of the host window

/-- The checks every access makes before Table 10.7: alignment, then R226 and R227 (R254). -/
def preCheck (s : State) (va size : Nat) : Option Nat :=
  if va % size ≠ 0 then some 0x06
  else if !addressOk s s.sp s.pt va then some 0x08
  else none

/-- The snoop that those checks wait for (R252, R408). -/
def checkSnoop (s : State) (va size : Nat) : Option State := if va % size = 0 then entrySnoop s s.sp va else none

/-- Two physical addresses lie in the same one of the hub and host windows. -/
def sameWindow (pa pb : Nat) : Bool := isHub pa == isHub pb

/-- A store of the current hart, each of which precedes a load that executes now (R316, log 10), may still have to reach the window that
the load reads: a device-class one, which every later load of its window follows, or, before a device-class load, any (Tables 10.6, 13.2).
A line that stalls on MIG is no device-class one (R235). -/
def deviceWaits (s : State) (pa : Nat) (wc : Bool) : Bool :=
  s.hart.stores.any (fun l => l.stage == .retired ||
    ((l.stage == .device || (l.stage == .window && !wc)) && sameWindow (l.pa * 128) pa))

/-- Read `size` bytes at a VA through the caches or the home, the hart's own stores laid over them. `vector`: the path of the VMU, which
never allocates in an L1 (R244). Alignment and R226, R227 have been checked. -/
def loadMapped (s : State) (va size : Nat) (vector : Bool) : LoadRes :=
  let own := s.hart.stores
  if allHeld own va size then .val (overlay own va size 0) s
  else
    let l1 := if vector then none else some (Place.l1d s.hart.id.core)
    match granted s va l1 (fun c => c.r) with
    | some c => .val (overlay own va size (readLE s.mem (c.pline * 128 + va % 128) size)) (touchL1 s c l1)
    | none =>
      match home s s.sp s.pt va .load with
      | (.fault code, s1) => .fault code s1
      | (.mig, s1) => .wait .stall s1
      | (.busy, s1) => .wait .stall s1
      | (.zeros, s1) => .val (overlay own va size 0) s1
      | (.ok pte, s1) =>
        let pa := pteFrame pte + va % 65536
        if isHbm pa then
          let s2 := if natBits pte 4 2 = 0 then fill s1 va pa pte l1 false else s1
          .val (overlay own va size (readLE s2.mem pa size)) s2
        else if deviceWaits s pa (natBits pte 4 2 == 1) then .wait .stores s1
        else .device pa (natBits pte 4 2 == 1) s1

/-- Read one aligned unit of `size` bytes for a load (R254, R258, R267, R283). -/
def loadUnit (s : State) (a : Word) (size : Nat) (vector : Bool) : LoadRes :=
  let va := a.toNat
  match checkSnoop s va size with
  | some s1 => .wait .stall s1
  | none =>
    match preCheck s va size with
    | some code => .fault code s
    | none =>
      if inNear va then
        if nearOk s va size then .val (readLE s.seg (va - nearVa) size) s else .fault 0x08 s
      else loadMapped s va size vector

/-- The bytes a device read answered, those of the hart's held stores laid over them (R326). -/
def State.overHeld (s : State) (a : Word) (size x : Nat) : Nat := overlay s.hart.stores a.toNat size x

/-! ## Stores -/

/-- Write a line's bits at a physical line: every copy that a test does not keep goes, and those kept are the owner's (R244,
R245). -/
def performAt (s : State) (l : StoreLine) (cspace pline : Nat) (cached : Bool) (keep : Place → Bool) : State :=
  let s1 := dropCopies (hbmWriteMasked s (pline * 128) 128 l.data.toNat l.mask.toNat cached) cspace l.line (fun p => !keep p)
  { s1 with lines := upd s1.lines (fun c => c.isLine cspace l.line) (fun c => { c with own := true }) }

/-- The places of the current hart that may keep a line it has just written: its facet's L2, and its core's data L1
for a scalar store (R244). -/
def ownPlaces (s : State) (vector : Bool) (p : Place) : Bool :=
  p == .l2 s.hart.id.facet || (!vector && p == .l1d s.hart.id.core)

/-- The nibbles of a line that one unit writes: both of each byte, or the one nibble of an E2M1 element (R162). -/
def lineElem (va size data mask idx : Nat) : LineElem :=
  if mask = 0xF then { idx := idx, off := va % 128 * 2, size := 1, data := data, mask := mask }
  else if mask = 0xF0 then { idx := idx, off := va % 128 * 2 + 1, size := 1, data := data, mask := mask }
  else { idx := idx, off := va % 128 * 2, size := 2 * size, data := data, mask := mask }

/-- A lane group by its number among those of the device: clusters × 128 + group. -/
def HartId.groupKey (i : HartId) (g : Nat) : Nat := i.phys.toNat / 512 * 128 + g

/-- The lane group whose buffer takes a vector line: the hart's groups take lines in turn (R133; R129 leaves it open, log 44). -/
def Hart.bufferOf (h : Hart) (line : Nat) : List Nat :=
  ((h.ln.groups[line % h.ln.groups.length]?).map h.id.groupKey).toList

/-- A store line of one unit. -/
def storeLineOf (s : State) (va size data mask idx : Nat) (vector nt : Bool) (seq : Word) (addr : BitVec 56) :
    StoreLine :=
  { line := va / 128, data := BitVec.ofNat 1024 (data * 2 ^ (va % 128 * 8))
    mask := BitVec.ofNat 1024 (mask * 2 ^ (va % 128 * 8)), elems := [lineElem va size data mask idx]
    vector := vector, seq := seq, addr := addr, source := s.hartid s.hart.id, nt := nt, handler := s.hart.tr.hm
    stage := .retired, code := 0, delivered := false, behind := false, again := false, found := none, pa := 0
    groups := if vector then s.hart.bufferOf (va / 128) else [] }

/-- Two store lines of one line, the later laid over the earlier. -/
def StoreLine.merge (a b : StoreLine) : StoreLine :=
  { a with data := (a.data &&& ~~~b.mask) ||| (b.data &&& b.mask), mask := a.mask ||| b.mask, elems := a.elems ++ b.elems
           again := a.again || b.again
           groups := a.groups ++ b.groups.filter (fun g => !a.groups.contains g) }

/-- The bits of a line that some elements of it write. -/
def lineMask (es : List LineElem) : BitVec 1024 := es.foldl (fun m e => m ||| BitVec.ofNat 1024 (e.mask * 2 ^ (e.off / 2 * 8))) 0

/-- A device-class line whose first piece has been performed: what is left of it (R246, R257). -/
def StoreLine.popElem (l : StoreLine) : StoreLine := { l with elems := l.elems.tail, mask := lineMask l.elems.tail }

/-- The first piece of a device-class line is one of element `idx` of instruction `seq`, which stands in one line. -/
def StoreLine.begins (l : StoreLine) (seq : Word) (idx : Nat) : Bool :=
  l.stage == .device && l.seq == seq && (l.elems.head?.map (fun e => e.idx)) == some idx

/-- The lines that instruction `seq` has retired since any other did: a handler's stand between the two parts of a store that its trap
has set aside (R314, R357). -/
def lastOf (ls : List StoreLine) (seq : Word) : List StoreLine := (ls.reverse.takeWhile (fun k => k.seq == seq)).reverse

/-- Retire a store line into the hart's buffers: into the line of the same instruction when there is one and no other instruction has
retired a line since (R314, R360), else as a new line when there is room; none when 64 are held (R151). -/
def retire (s : State) (l : StoreLine) : Option State :=
  let same := fun (k : StoreLine) => k.seq == l.seq && k.line == l.line && k.stage == .retired
  let put := fun (ls : List StoreLine) => s.withHart { s.hart with stores := ls }
  let own := lastOf s.hart.stores l.seq
  if own.any same then
    let rest := s.hart.stores.take (s.hart.stores.length - own.length)
    some (put (rest ++ upd own same (fun k => k.merge l)))
  else if s.hart.stores.length < 64 then some (put (s.hart.stores ++ [l]))
  else none

/-- What a store of one unit answers. -/
inductive StoreRes where
  | ok (s : State)
  | fault (code : Nat)
  | full                       -- 64 lines held (R151)
  | wait (s : State)           -- a host snoop (R408)

/-- Store one aligned unit: near at once, otherwise retired into the hart's buffers (R151, R258, R272, R283). `mask` has
a bit for every bit written. -/
def storeUnit (s : State) (a : Word) (size data mask idx : Nat) (vector nt : Bool) (seq : Word) (addr : BitVec 56) :
    StoreRes :=
  let va := a.toNat
  match checkSnoop s va size with
  | some s1 => .wait s1
  | none =>
    match preCheck s va size with
    | some code => .fault code
    | none =>
      if inNear va then
        if nearOk s va size then .ok (s.updSeg (fun m => writeMasked m (va - nearVa) size data mask)) else .fault 0x08
      else
        match retire s (storeLineOf s va size data mask idx vector nt seq addr) with
        | some s' => .ok s'
        | none => .full

/-- The cached copy with W set that a retired line is performed against, if there is one (R243, R258). -/
def StoreLine.copy? (l : StoreLine) (s : State) : Option CacheLine :=
  granted s (l.line * 128) (if l.vector then none else some (Place.l1d s.hart.id.core)) (fun c => c.w)

/-- Perform a retired line against such a copy (R243, R258, R272). -/
def performOn (s : State) (l : StoreLine) (c : CacheLine) : State :=
  let s1 := performAt s l (cacheSpace s.sp (l.line * 128)) c.pline (!l.nt) (ownPlaces s l.vector)
  if l.nt then forgetL2 s1 c.cspace c.vline else s1

/-! ## Atomics -/

/-- What an atomic of one unit answers: its old value, or why nothing of it was performed. -/
inductive AtomicRes where
  | done (old : Nat) (s : State)
  | fault (code : Nat) (s : State)
  | wait (w : Wait) (s : State)

/-- The write of an atomic at the home slice of its location: every other copy goes, and on an IDEM page the home facet's L2
owns the line then (R238, R244, R245). -/
def atomicWrite (s : State) (va pa pte size v : Nat) : State :=
  let idem := natBits pte 4 2 == 0
  let s1 := dropCopies (hbmWrite s pa size v idem) (cacheSpace s.sp va) (va / 128) (fun _ => true)
  if idem then fillAt s1 (colour va) (cacheSpace s.sp va) va pa pte none true else s1

/-- Perform an atomic of `size` bytes whole, at its bank or at its home slice; `f old` is the new value, or none where
the operation does not write (R262, R275, R283, R325). -/
def atomicUnit (s : State) (a : Word) (size : Nat) (f : Nat → Option Nat) : AtomicRes :=
  let va := a.toNat
  match checkSnoop s va size with
  | some s1 => .wait .stall s1
  | none =>
    match preCheck s va size with
    | some code => .fault code s
    | none =>
      if inNear va then
        if nearOk s va size then
          let old := readLE s.seg (va - nearVa) size
          match f old with
          | some v => .done old (s.updSeg (fun m => writeLE m (va - nearVa) size v))
          | none => .done old s
        else .fault 0x08 s
      else if anyHeld s.hart.stores va size then .fault 0x09 s
      else if anyPending s.hart.stores va size then .wait .stores s
      else
        match home s s.sp s.pt va .atomic with
        | (.fault code, s1) => .fault code s1
        | (.zeros, s1) => .fault 0x0B s1
        | (.mig, s1) => .wait .stall s1
        | (.busy, s1) => .wait .stall s1
        | (.ok pte, s1) =>
          let pa := pteFrame pte + va % 65536
          let old := readLE s1.mem pa size
          match f old with
          | some v =>
            .done old (atomicWrite s1 va pa pte size v)
          | none => .done old s1

/-! ## Fetch -/

/-- What the fetch of one word answers (R69, R70, R283). -/
inductive FetchRes where
  | word (w : BitVec 32) (s : State)
  | fault (code : Nat) (s : State)
  | stall (s : State)

/-- Fetch the word at an address: R69, the near window, R227, a cached copy with X, or the home (R70, R243). -/
def fetchWord (s : State) (a : Word) : FetchRes :=
  let va := a.toNat
  if 2 ^ 56 ≤ va then .fault 0x08 s
  else if inNear va then .fault 0x07 s
  else
    match entrySnoop s s.sp va with
    | some s1 => .stall s1
    | none =>
      if !addressOk s s.sp s.pt va then .fault 0x08 s
      else
        let l1 := Place.l1i s.hart.id.core
        match granted s va (some l1) (fun c => c.x) with
        | some c => .word (BitVec.ofNat 32 (readLE s.mem (c.pline * 128 + va % 128) 4)) (touchL1 s c (some l1))
        | none =>
          match home s s.sp s.pt va .fetch with
          | (.fault code, s1) => .fault code s1
          | (.zeros, s1) => .fault 0x0B s1
          | (.mig, s1) => .stall s1
          | (.busy, s1) => .stall s1
          | (.ok pte, s1) =>
            let pa := pteFrame pte + va % 65536
            let s2 := fill s1 va pa pte (some l1) false
            .word (BitVec.ofNat 32 (readLE s2.mem pa 4)) s2

end Sys2Proof.Machine
end

