-- ==== Sys2Proof/Machine/Ops.lean ====
section
/-! DEFINITION. The named operations that meanings share: registers, the advance of the PC, fault records (R361, R362),
taking a trap (R351, R357), ending a handler by a trap (R353), returning from one (R359, R367). -/

namespace Sys2Proof.Machine

/-! ## Registers -/

/-- A general register; g0 reads zero (R74, R123). -/
def Hart.getG (h : Hart) (r : GReg) : Word := if r = 0 then 0 else vget h.sc.g r.toNat 0

/-- Write a general register; a write to g0 is discarded (R74). -/
def Hart.setG (h : Hart) (r : GReg) (x : Word) : Hart :=
  if r = 0 then h else { h with sc := { h.sc with g := vset h.sc.g r.toNat x } }

/-- A general register of the current hart. -/
def State.g (s : State) (r : GReg) : Word := s.hart.getG r

/-- Write a general register of the current hart. -/
def State.setG (s : State) (r : GReg) (x : Word) : State := s.withHart (s.hart.setG r x)

/-- Go on after an instruction of `n` bytes at the PC: it took its number, and waits for nothing (R68, R356). -/
def Hart.advance (h : Hart) (n : Nat) : Hart :=
  { h with sc := { h.sc with pc := h.sc.pc + BitVec.ofNat 64 n, iseq := h.sc.iseq + 1 }, wait := .none }

/-- Go on after the current instruction. -/
def State.advance (s : State) (n : Nat) : State := s.withHart (s.hart.advance n)

/-- Go on at a target after a transfer of control (R69, R108, R110). -/
def State.jump (s : State) (target : Word) : State :=
  s.withHart { s.hart with sc := { s.hart.sc with pc := target, iseq := s.hart.sc.iseq + 1 }, wait := .none }

/-- Write a result and go on: the shape of every scalar instruction with a destination (R99). -/
def writeNext (s : State) (d : GReg) (x : Word) : Out := .next ((s.setG d x).advance 4)

/-- OR flags into FFLAGS (R121, R122). -/
def State.raiseFlags (s : State) (f : BitVec 5) : State :=
  s.withHart { s.hart with sc := { s.hart.sc with fflags := s.hart.sc.fflags ||| f } }

/-- The instruction at the PC waits; nothing else changes (R67). -/
def State.waitFor (s : State) (w : Wait) : State := s.withHart { s.hart with wait := w }

/-- The answer of an instruction that waits. -/
def waiting (s : State) (w : Wait) : Out := .next (s.waitFor w)

/-! ## Choosing the current hart -/

/-- Make a hart the current one, if it has a thread. -/
def State.activate (s : State) (r : HartRef) : Option State :=
  if s.hart.run != .idle && s.hart.id.ref == r then some s
  else
    match s.others.find? (fun h => h.id.ref == r) with
    | none => none
    | some h =>
      let rest := s.others.filter (fun k => k.id.ref != r)
      let out := if s.hart.run == .idle then rest else s.hart :: rest
      some { s with hart := h, others := out }

/-- Every hart that has a thread. -/
def State.harts (s : State) : List Hart := if s.hart.run == .idle then s.others else s.hart :: s.others

/-- A hart by its name. -/
def State.hart? (s : State) (r : HartRef) : Option Hart := s.harts.find? (fun h => h.id.ref == r)

/-- Change every hart that a test selects. -/
def State.updHarts (s : State) (p : Hart → Bool) (f : Hart → Hart) : State :=
  { s with hart := if s.hart.run != .idle && p s.hart then f s.hart else s.hart, others := upd s.others p f }

/-! ## Fault records -/

/-- The 64 bytes of a fault record, as one little-endian number (Table 15.6). -/
def recordBits (id : HartId) (r : FaultRec) : Nat :=
  let kind := r.code.toNat % 128 + (if r.double then 128 else 0)
  let rflags := (if r.replay then 1 else 0) + (if r.morePg then 2 else 0) + (if r.moreEl then 4 else 0)
    + (r.pages.length % 8) * 8 + r.orig.toNat * 64
  let who := r.source.toNat + id.ref.idx % 512 * 2 ^ 25 + id.teamId.toNat * 2 ^ 34
  let pages := r.pages.foldr (fun p acc => p.toNat + acc * 65536) 0
  r.time.toNat + r.seq.toNat % 2 ^ 48 * 2 ^ 64 + kind * 2 ^ 112 + rflags * 2 ^ 120 + who * 2 ^ 128
    + r.x.toNat * 2 ^ 176 + r.iaddr.toNat * 2 ^ 192 + r.va.toNat * 2 ^ 256 + r.y.toNat * 2 ^ 320
    + r.z.toNat * 2 ^ 336 + pages * 2 ^ 352 + r.mask.toNat * 2 ^ 448

/-- Count a record produced for the space (AC3.RECS, R400). -/
def countRecord (s : State) : State :=
  let x := s.space s.sp
  s.setSpace { x with acRecs := x.acRecs + 1 }

/-- Drop a record: LOST is set (R362). -/
def dropRecord (s : State) : State :=
  let x := s.space s.sp
  s.setSpace { x with logLost := true }

/-- The record after HEAD has been written: one more of the space (R362). -/
def advanceLog (s : State) : State :=
  let x := s.space s.sp
  s.setSpace { x with logHead := x.logHead + 1 }

/-- Write a record of the current hart into its space's fault log (R362): the state, and the record's VA, 0 where it was dropped;
none while it waits for the log's page, which migrates, or for the host's copy of a line (R252, R408), and then the state holds the
snoop. A record for a log page that is mapped and not IDEM is dropped, and LOST says so (DESIGN CHOICE, log 57). -/
def writeRecord (s : State) (r : FaultRec) : State × Option Word :=
  let x := s.space s.sp
  let size := 64 * 2 ^ x.logsz.toNat
  let va := x.logBase.toNat * 4096 + x.logHead.toNat % size * 64
  let lost := fun (t : State) => (dropRecord (countRecord t), some (0 : Word))
  if x.logBase = 0 || size ≤ (x.logHead - x.logTail).toNat then lost s
  else
    match entrySnoop s s.sp va with
    | some s1 => (s1, none)
    | none =>
      if !addressOk s s.sp s.pt va || inNear va then lost s
      else
        match home s s.sp s.pt va .store with
        | (.mig, s1) | (.busy, s1) => (s1, none)
        | (.ok pte, s1) =>
          if natBits pte 4 2 != 0 then lost s1
          else
            let pa := pteFrame pte + va % 65536
            let s2 := dropCopies (hbmWrite s1 pa 64 (recordBits s.hart.id r) true) (cacheSpace s.sp va) (va / 128)
              (fun _ => true)
            (advanceLog (countRecord (fill s2 va pa pte none true)), some (BitVec.ofNat 64 va))
        | (_, s1) => lost s1

/-! ## Traps -/

/-- Operations at the front whose rows are all complete are done (R288). -/
def Stream.settle (st : Stream) : Stream :=
  let rest := st.queue.dropWhile (fun o => o.rows.all (fun r => r.complete))
  { st with queue := rest, done := st.done + BitVec.ofNat 32 (st.queue.length - rest.length) }

/-- A held row of a copy operation is discarded (R310, R353). -/
def Stream.dropHeld (st : Stream) : Stream :=
  Stream.settle { st with queue := st.queue.map (fun o => { o with rows := o.rows.filter (fun r => !r.held) }) }

/-- A hart whose handler R353 ends: the queue, the image and the deferred-store buffer discarded. -/
def Hart.beginEnding (h : Hart) : Hart :=
  { h with run := .ending, vq := [], wait := .none, due := none, fatal := none, recs := []
           ln := { h.ln with req := none, headDevc := false, hmStart := 0, headFound := none }
           tr := { h.tr with vqn := 0, image := Vector.replicate 64 VqEntry.zero }
           stores := h.stores.filter (fun l => l.stage != .held)
           streams := h.streams.map Stream.dropHeld }

/-- The record of R353 for a trap that ends a handler (log 39). -/
def doubleRecord (s : State) (t : Trap) : FaultRec :=
  { time := t.raised.getD s.clock.now, seq := t.seq, code := t.code, double := true, replay := false, morePg := false, moreEl := false, orig := 3
    source := s.hartid s.hart.id, x := 0, iaddr := (t.iaddr.getD t.pc).setWidth 56, va := t.val.setWidth 56, y := t.elem, z := 0
    pages := [], mask := 0 }

/-- An instruction that passed decode took its number, if `counted` (R356, log 38). -/
def Hart.count (h : Hart) (counted : Bool) : Hart :=
  if counted then { h with sc := { h.sc with iseq := h.sc.iseq + 1 } } else h

/-- Write the record of R353 and discard what the handler held; the hart has stopped, and waits for a log that cannot be written
yet (R362). The record's TIME stays the moment at which the fault was found (R361). -/
def recordEnd (s : State) (r : FaultRec) : State :=
  match writeRecord s r with
  | (s1, none) => s1.withHart { s1.hart with run := .recording, wait := .none, fatal := some r }
  | (s1, some _) => s1.withHart s1.hart.beginEnding

/-- End the hart's handler with a record (R353). -/
def endByTrap (s : State) (r : FaultRec) (counted : Bool) : State := recordEnd (s.withHart (s.hart.count counted)) r

/-- A device-class read of a hart's head entry has started (Table 6.5). -/
def headReads (s : State) (h : Hart) : Bool :=
  s.windowOps.any (fun o => o.hart == h.id.ref && o.devc && !o.write && h.vq.any (fun e => e.seq == o.seq))

/-- A store at the head has retired data for a DEVC page and goes on to its commit (Table 6.5). One that waits for room while all 64
lines are held cannot go on, and stops where it is (R151; DESIGN CHOICE, log 52). -/
def Hart.storesDevc (h : Hart) : Bool :=
  h.ln.headDevc && decide ((h.stores.filter (fun l => l.stage == .held)).length < 64)

/-- A device-class access of the head of a hart's queue has started: the entry completes and commits before a trap of the hart is
taken (R66, R153, R357, Table 6.5). -/
def headStarted (s : State) (h : Hart) : Bool := headReads s h || h.storesDevc

/-- The trap of the instruction at the PC waits for the entry at the head. What raised it was looked at when the instruction issued, and
is not looked at again (R336, R339). -/
def Hart.holdTrap (h : Hart) (t : Trap) (now : Word) : Hart :=
  { h with wait := .queue, ir := if t.counted then h.ir else none, due := some { t with raised := some now } }

/-- Set every uncommitted entry aside as the queue image; the other positions are cleared (R357). A grant request of the
entry at the head is withdrawn with it. -/
def setAside (h : Hart) : Hart :=
  let filled := (h.vq ++ List.replicate 64 VqEntry.zero).take 64
  { h with vq := [], ln := { h.ln with req := none, headDevc := false, hmStart := 0, headFound := none }
           tr := { h.tr with image := Vector.ofFn (fun (i : Fin 64) => filled.getD i.val VqEntry.zero)
                             vqn := BitVec.ofNat 7 h.vq.length, vqsel := 0 } }

/-- Deliver the records written since the last delivery (R363). -/
def deliver (h : Hart) : Hart :=
  { h with recs := []
           tr := { h.tr with record := (h.recs.headD 0).setWidth 56, nrec := BitVec.ofNat 16 (min h.recs.length 65535) }
           stores := h.stores.map (fun l => if l.stage == .held then { l with delivered := true } else l)
           streams := h.streams.map (fun st => { st with queue := st.queue.map (fun o =>
             { o with rows := o.rows.map (fun r => if r.held then { r with delivered := true } else r) }) }) }

/-- The trap registers of a trap that is taken (R351, Table 15.1; TRAPNPC for VQ = 0: log 30). -/
def setTrapRegs (h : Hart) (t : Trap) : Hart :=
  { h with tr := { h.tr with code := t.code, async := t.async, vq := t.vq, pc := t.pc, npc := if t.vq then t.npc else t.pc, val := t.val
                             elem := t.elem, hm := true } }

/-- The address of the trap handler: TVEC × 4 (Table 15.2). -/
def Space.vector (x : Space) : Word := x.tvec.setWidth 64 * 4

/-- Take a trap on the current hart (R351), once a device-class access that its head entry has started is over (R357, Table 6.5; until
then the trap stands in `due`): in
handler mode or without a trap handler it ends the handler (R353); otherwise the registers of Table 15.1 are set, the queue is set
aside, HM := 1 and the PC goes to the vector. -/
def takeTrap (s : State) (t : Trap) : State :=
  let x := s.space s.sp
  let h1 := if t.code = 0x09 then deliver s.hart else s.hart
  let t' := if t.code = 0x09 && t.async then
      { t with val := h1.tr.record.setWidth 64, elem := h1.tr.nrec } else t
  if !t.async && !t.vq && headStarted s s.hart then s.withHart (s.hart.holdTrap t s.clock.now)
  else if s.hart.tr.hm || !x.teEn then endByTrap s (doubleRecord s t') t.counted
  else
    let h2 := setTrapRegs (setAside h1) t'
    let n := if t.counted then h2.sc.iseq + 1 else h2.sc.iseq
    s.withHart { h2 with sc := { h2.sc with pc := x.vector, iseq := n }, wait := .none, due := none }

/-- A trap raised by the instruction at the PC. -/
def trapAt (s : State) (code : BitVec 8) (val : Word) : Out :=
  .next (takeTrap s { code := code, pc := s.hart.sc.pc, val := val, seq := s.hart.sc.iseq })

/-- The instruction at the PC has passed decode and waits inside itself: it holds its number, and when its wait is ended it is
executed again under a new one (R354, R356). -/
def Hart.waitsInside (h : Hart) : Bool := h.wait != .none && h.ir.isSome

/-- A trap raised by a vector-queue entry at the head (R357): TRAPNPC is the first scalar instruction not completed. -/
def trapHead (s : State) (e : VqEntry) (code : BitVec 8) (val : Word) (elem : Nat) : State :=
  takeTrap s { code := code, vq := true, pc := e.addr.setWidth 64, npc := s.hart.sc.pc, val := val
               elem := BitVec.ofNat 16 elem, seq := e.seq, counted := s.hart.waitsInside }

/-- Return from a trap on the current hart (R359, R367): PC from TRAPNPC or TRAPPC with bits [1:0] zero, the image's
first VQN positions pushed again with the values they captured, VQN := 0, HM := 0. An image position holds no class (Table
15.5): an entry pushed again takes PRIO as it stands (DESIGN CHOICE, log 43). -/
def leaveTrap (h : Hart) : Hart :=
  let target := if h.tr.vq then h.tr.npc else h.tr.pc
  let entries := (h.tr.image.toList.take h.tr.vqn.toNat).map (fun e => { e with cls := h.sc.prio })
  { h with vq := entries, wait := .none
           tr := { h.tr with vqn := 0, hm := false }
           sc := { h.sc with pc := target &&& ~~~3, iseq := h.sc.iseq + 1 } }

/-! ## The watchdog (R374) -/

/-- A watchdog period of `w` ms has ended since those reported: the periods of the WDOG that holds now, counted from the handler's entry. -/
def Hart.dogDue (h : Hart) (w : Nat) : Bool :=
  h.run == .running && w != 0 && decide (h.dogAt / (w * 1000000) < h.runNs / (w * 1000000))

/-- Watchdog becomes pending on a hart; periods that have ended together are reported together. -/
def Hart.bark (h : Hart) : Hart :=
  { h with dogAt := h.runNs, notice := { h.notice with watchdog := some (BitVec.ofNat 64 (h.runNs / 1000000)) } }

/-- A hart when its space's WDOG changes from `w` ms: a period that has ended is reported, and what it has run so far ends no period of
the new WDOG (DESIGN CHOICE, log 56). -/
def Hart.newDog (w : Nat) (h : Hart) : Hart := { (if h.dogDue w then h.bark else h) with dogAt := h.runNs }

/-- Answers of a load inside an instruction of the hart: a trap, a wait, or the value. -/
def onLoad (r : LoadRes) (a : Word) (k : Nat → State → Out)
    (dev : Nat → Bool → State → Out) : Out :=
  match r with
  | .val x s' => k x s'
  | .fault code s' => trapAt s' (BitVec.ofNat 8 code) a
  | .wait w s' => waiting s' w
  | .device pa wc s' => dev pa wc s'

end Sys2Proof.Machine
end

