-- ==== Sys2Proof/Machine/Sha.lean ====
section
/-! DEFINITION. SHA-256 of the firmware image (R415, R418) and HMAC-SHA-256 (R418): FIPS 180-4 and FIPS 198-1, which the spec
names and does not restate (log 12). The constants are computed from their definitions. -/

namespace Sys2Proof.Machine

/-- The leading bits of the `e`-th root of a number, which is below 2^`bits`: bit by bit from the top. -/
def rootBits (e x bits : Nat) : Nat → Nat
  | 0 => 0
  | k + 1 =>
    let high := rootBits e x bits k * 2
    if (high + 1) ^ e ≤ x / 2 ^ (e * (bits - (k + 1))) then high + 1 else high

/-- The first 32 bits of the fractional part of the `e`-th root of `p`, for a root below 256 (FIPS 180-4, 4.2.2 and 5.3.3). -/
def rootFraction (e p : Nat) : BitVec 32 := BitVec.ofNat 32 (rootBits e (p * 2 ^ (32 * e)) 40 40)

/-- A number of at least 2 without a smaller divisor but 1. -/
def isPrime (n : Nat) : Bool := decide (2 ≤ n) && (List.range n).all (fun d => decide (d < 2) || n % d != 0)

/-- The primes below 312: the first 64. -/
def shaPrimes : List Nat := (List.range 312).filter isPrime

/-- The message digest while it is computed: the words a to h of FIPS 180-4. -/
abbrev Digest := Vector (BitVec 32) 8

/-- The digest before the first block. -/
def Digest.initial : Digest := Vector.ofFn (fun (i : Fin 8) => rootFraction 2 (shaPrimes.getD i 0))

/-- The xor of a word rotated right by each of some distances. -/
def rotXor (x : BitVec 32) (ds : List Nat) : BitVec 32 := ds.foldl (fun acc d => acc ^^^ x.rotateRight d) 0

/-- The bits of the message, then a 1, then zeros, then its length, as whole blocks of 64 bytes. -/
def shaPadded (m : List Byte) : List Byte :=
  let tail := (List.range 8).reverse.map (fun i => BitVec.ofNat 8 (natBits (8 * m.length) (8 * i) 8))
  m ++ 0x80 :: List.replicate (63 - (m.length + 8) % 64) 0 ++ tail

/-- Bytes as one number, the first the most significant. -/
def bigEndian (bs : List Byte) : Nat := bs.foldl (fun n b => 256 * n + b.toNat) 0

/-- Word `t` of the message schedule of a block, from the words before it. -/
def scheduleNext (w : Array (BitVec 32)) (t : Nat) : BitVec 32 :=
  let near := w.getD (t - 2) 0
  let far := w.getD (t - 15) 0
  (rotXor near [17, 19] ^^^ near >>> 10) + w.getD (t - 7) 0 + (rotXor far [7, 18] ^^^ far >>> 3) + w.getD (t - 16) 0

/-- The message schedule of a block. -/
def schedule (block : List Byte) : Array (BitVec 32) :=
  let first := ((List.range 16).map (fun t => BitVec.ofNat 32 (bigEndian ((block.drop (4 * t)).take 4)))).toArray
  (List.range 48).foldl (fun w i => w.push (scheduleNext w (i + 16))) first

/-- One round with the sum of its constant and its schedule word: every word moves one place, the first and the fifth take
new values. -/
def Digest.round (d : Digest) (kw : BitVec 32) : Digest :=
  let t1 := d[7] + rotXor d[4] [6, 11, 25] + (d[6] ^^^ (d[4] &&& (d[5] ^^^ d[6]))) + kw
  let t2 := rotXor d[0] [2, 13, 22] + ((d[0] &&& d[1]) ||| (d[2] &&& (d[0] ||| d[1])))
  #v[t1 + t2, d[0], d[1], d[2], d[3] + t1, d[4], d[5], d[6]]

/-- The digest after one more block of 64 bytes. -/
def Digest.absorb (d : Digest) (block : List Byte) : Digest :=
  let w := schedule block
  let out := shaPrimes.zipIdx.foldl (fun (x : Digest) p => x.round (rootFraction 3 p.1 + w.getD p.2 0)) d
  Vector.zipWith (fun a b => a + b) d out

/-- SHA-256 as one 256-bit number, most significant byte first. -/
def sha256 (m : List Byte) : BitVec 256 :=
  let bytes := shaPadded m
  let out := (List.range (bytes.length / 64)).foldl
    (fun (d : Digest) i => d.absorb ((bytes.drop (64 * i)).take 64)) Digest.initial
  BitVec.ofNat 256 (out.toList.foldl (fun n x => n * 2 ^ 32 + x.toNat) 0)

/-- The bytes of a number, the most significant first. -/
def bytesOf {n : Nat} (x : BitVec n) : List Byte :=
  (List.range (n / 8)).reverse.map (fun i => BitVec.ofNat 8 (natBits x.toNat (8 * i) 8))

/-- HMAC-SHA-256 under a 256-bit key (R418). -/
def hmacSha256 (key : BitVec 256) (m : List Byte) : BitVec 256 :=
  let block := bytesOf key ++ List.replicate 32 0
  let inner := sha256 (block.map (fun b => b ^^^ 0x36) ++ m)
  sha256 (block.map (fun b => b ^^^ 0x5C) ++ bytesOf inner)

/-- The seed of the identity key pair: derived from the fused secret (R418). -/
def identitySeed : BitVec 256 := hmacSha256 Config.secret (Config.keyLabel false)

/-- The seed of the alias key pair of a start: derived from the same secret and the firmware measurement (R418). -/
def aliasSeed (measurement : BitVec 256) : BitVec 256 := hmacSha256 Config.secret (Config.keyLabel true ++ bytesOf measurement)

end Sys2Proof.Machine
end

