-- ==== Sys2Proof/Machine/Hub.lean ====
section
/-! DEFINITION. The hub configuration space: which register stands at an offset (log 6), and what a read returns (Tables
2.3, 3.3, 10.1, 10.5, 14.2, 15.2, 16.2, 16.3, 16.5, 16.6, 17.1, 17.3, 18.2, 18.3, 18.4, R385, R413). -/

namespace Sys2Proof.Machine

/-- A doubleword register of the hub configuration space. -/
inductive HubReg where
  | hst | hst1 | hcmd
  | cap (k : Nat)                  -- doubleword k of the capability list
  | qd (q dw : Nat)
  | pd (p dw : Nat)
  | segmin (space : Nat)
  | tcfg (dw : Nat)
  | frame (f : Nat)
  | te (space dw : Nat)
  | ac (space dw : Nat)
  | ts (dw : Nat)
  | bp (facet dw : Nat)
  | gv (facet dw : Nat)
  | energy (offset : Nat)
  | pm (dw : Nat)
  | pp (port dw : Nat)
  | devnum
  | route (dw : Nat)
  deriving DecidableEq, Repr

/-- The device takes writes of its registers, other than HCMD and the record's MAGIC: not before READY, in RECOVERY or in TRIPPED
(R415, R416). -/
def writesTaken (s : State) : Bool := s.boot.state == .ready || s.boot.state == .emergency

/-- A write that the device takes, or none. -/
def ifTaken (s : State) (t : State) : Out := .next (if writesTaken s then t else s)

/-- WAKEBASE: the wake space within the hub window (R406). -/
def wakeBase : Nat := 0x10000000000

/-- An offset of the hub window lies in the wake space: 256 devices of 4 GiB from WAKEBASE up (R39). -/
def inWake (off : Nat) : Bool := decide (wakeBase ≤ off ∧ off < wakeBase + 2 ^ 40)

/-- Byte offset of the capability list (R413). -/
def capBase : Nat := 0x1000

/-- The block of BASES number `i` holds an offset, within its `size` bytes. -/
def inBlock (i size off : Nat) : Bool := Config.base i ≤ off && off < Config.base i + size

/-- The register whose doubleword holds a byte offset (log 6). -/
def hubReg (off : Nat) : Option HubReg :=
  let at_ := fun (i : Nat) => off - Config.base i
  if off < 0x8 then some .hst
  else if off < 0x10 then some .hst1
  else if off < 0x18 then some .hcmd
  else if capBase ≤ off && off < capBase + 0x1F8 then some (.cap ((off - capBase) / 8))
  else if inBlock 0 0x400000 off then some (.qd (at_ 0 / 64) (at_ 0 / 8 % 8))
  else if inBlock 1 0x80 off then some (.pd (at_ 1 / 16) (at_ 1 / 8 % 2))
  else if inBlock 2 0x20000 off then some (.segmin (at_ 2 / 8))
  else if inBlock 3 0x48 off then some (.tcfg (at_ 3 / 8))
  else if inBlock 4 0x4000000 off then some (.frame (at_ 4 / 8))
  else if inBlock 5 0x40000 off then some (.te (at_ 5 / 16) (at_ 5 / 8 % 2))
  else if inBlock 6 0x80000 off then some (.ac (at_ 6 / 32) (at_ 6 / 8 % 4))
  else if inBlock 7 0x20 off then some (.ts (at_ 7 / 8))
  else if inBlock 8 0x100 off then some (.bp (at_ 8 / 32) (at_ 8 / 8 % 4))
  else if inBlock 9 0x100 off then some (.gv (at_ 9 / 32) (at_ 9 / 8 % 4))
  else if inBlock 10 0x4010 off then some (.energy (at_ 10 / 8 * 8))
  else if inBlock 11 0x200040 off then some (.pm (at_ 11 / 8))
  else if inBlock 12 0x80 off then some (.pp (at_ 12 / 16) (at_ 12 / 8 % 2))
  else if inBlock 12 0x88 off then some .devnum
  else if inBlock 12 0x200 off && 0x100 ≤ at_ 12 then some (.route ((at_ 12 - 0x100) / 8))
  else none

/-- A queue descriptor; the reset values where nothing has been set (Table 2.3). -/
def State.queue (s : State) (q : Nat) : Queue := (s.queues.find? (fun x => x.num == q)).getD (Queue.blank q)

/-- Replace a queue descriptor. -/
def State.setQueue (s : State) (x : Queue) : State :=
  { s with queues := x :: s.queues.filter (fun y => y.num != x.num) }

/-- A bit as a number. -/
def bit (b : Bool) : Nat := if b then 1 else 0

/-- A doubleword of a queue descriptor (Table 2.3). -/
def readQd (x : Queue) (dw : Nat) : Nat :=
  match dw with
  | 0 => bit x.en + bit x.perTeam * 2 + bit x.strm * 4 + bit x.openq * 8 + x.cls.toNat * 2 ^ 4 + x.space.toNat * 2 ^ 8
      + x.part.toNat * 2 ^ 22 + x.maxTeams.toNat * 2 ^ 32
  | 1 => x.ringVa.toNat + x.logDepth.toNat * 2 ^ 56
  | 2 => x.argDef.toNat
  | 3 => x.stateBase.toNat
  | 4 => x.slines.toNat + x.timeout.toNat * 2 ^ 16
  | 5 => x.seed.toNat
  | 6 => x.modNo.toNat
  | 7 => x.held.length + bit x.badcfg * 2 ^ 21 + x.drops.toNat * 2 ^ 32 + x.lastCode.toNat * 2 ^ 48
  | _ => 0

/-- The code of a partition state (Table 3.3). -/
def PartState.code (p : PartState) : Nat :=
  match p with
  | .running => 0 | .halting => 1 | .shadow => 2 | .hbm => 3

/-- The code of HST.STATE (Table 18.4). -/
def HostState.code (h : HostState) : Nat :=
  match h with
  | .rom => 0 | .verify => 1 | .ready => 2 | .recovery => 3 | .emergency => 4 | .tripped => 5

/-- A doubleword of a partition descriptor (Table 3.3). -/
def readPd (x : Partition) (dw : Nat) : Nat :=
  if dw = 0 then bit x.en + x.facets.toNat * 2 ^ 8 + x.logVlp.toNat * 2 ^ 16
  else bit x.badcfg * 4 + x.state.code * 2 ^ 8 + x.savePa.toNat * 2 ^ 12

/-- The header of a capability entry (R413). -/
def capHeader (id mu length : Nat) : Nat := id + 2 ^ 16 + mu * 2 ^ 24 + length * 2 ^ 32

/-- Doubleword `k` of the capability list (Table 18.3). The doubleword that ends it has ID 0 and LENGTH 8; that it has VERSION 0 is a
DESIGN CHOICE (log 6). -/
def readCap (s : State) (k : Nat) : Nat :=
  if k = 0 then capHeader 1 1 112
  else if k < 14 then Config.base (k - 1)
  else if k = 14 then capHeader 2 1 24
  else if k = 15 then wakeBase
  else if k = 16 then 256
  else if k = 17 then capHeader 3 1 208
  else if k < 43 then (Config.capWord 3 (k - 18)).toNat
  else if k = 43 then capHeader 4 1 32
  else if k = 44 then 1550
  else if k = 45 then 2400
  else if k = 46 then 105
  else if k = 47 then capHeader 5 0 56
  else if k = 48 then (Config.capWord 5 0).toNat
  else if k = 49 then s.boot.fused
  else if k < 54 then natBits s.boot.measurement.toNat ((k - 50) * 64) 64
  else if k = 54 then capHeader 6 0 64
  else if k = 55 then (Config.capWord 6 0).toNat
  else if k < 62 then natBits (Config.publicKey identitySeed).toNat ((k - 56) * 64) 64
  else if k = 62 then 8 * 2 ^ 32
  else 0

/-- A doubleword of the translation configuration (Table 10.1). -/
def readTcfg (x : TransCfg) (dw : Nat) : Nat :=
  if dw = 0 then bit x.en + x.stpa.toNat * 2 ^ 17
  else bit (vget x.gv (dw - 1) false) + (vget x.groot (dw - 1) 0).toNat * 2 ^ 17

/-- A frame owner entry (Table 10.5). -/
def readFrame (s : State) (f : Nat) : Nat :=
  match s.frames.find? (fun o => o.frame == f) with
  | none => 0
  | some o => o.cspace + o.vpage * 2 ^ 14 + 2 ^ 63

/-- A doubleword of a trap entry (Table 15.2). -/
def readTe (x : Space) (dw : Nat) : Nat :=
  if dw = 0 then bit x.teEn + bit x.note * 2 + x.tvec.toNat * 4 + x.wdog.toNat * 2 ^ 56 else x.targ.toNat

/-- A doubleword of a space's accounting (Table 17.1). -/
def readAc (x : Space) (dw : Nat) : Nat :=
  match dw with
  | 0 => x.acHart.toNat
  | 1 => x.acLane.toNat
  | 2 => x.acDone.toNat + x.acEnded.toNat * 2 ^ 32
  | _ => x.acRecs.toNat

/-- A doubleword of the timestamp discipline (Table 17.3); PPSV reads 0 from 1.1 s after the latest edge (R403). -/
def readTs (c : Clock) (dw : Nat) : Nat :=
  match dw with
  | 1 => c.slew.toNat
  | 2 => c.pps.toNat
  | 3 => c.steps.toNat + bit (c.ppsv && decide (c.ran < c.ppsAt + 1100000000)) * 2 ^ 32
  | _ => 0

/-- A doubleword of a phase plan (Table 14.2). -/
def readBp (p : PhasePlan) (dw : Nat) : Nat :=
  match dw with
  | 0 => p.nph.toNat + p.spacing.toNat * 2 ^ 8 + p.effsp.toNat * 2 ^ 32
  | 1 => p.phlo.toNat
  | 2 => p.phhi.toNat
  | _ => 0

/-- A doubleword of the governor registers (Table 16.2). -/
def readGv (s : State) (g : Governor) (dw : Nat) : Nat :=
  match dw with
  | 0 => g.lbud.toNat + g.fbud.toNat * 2 ^ 16 + g.didt.toNat * 2 ^ 32
  | 1 => g.warn.toNat + g.crit.toNat * 2 ^ 8 + g.resume.toNat * 2 ^ 16 + 115 * 2 ^ 24
  | 2 => g.thr.toNat + bit s.power.emergency.isSome * 4 + bit g.shed * 8 + g.minsp.toNat * 2 ^ 4 + g.hot.toNat * 2 ^ 13
  | _ => bit g.gcut + bit g.idle * 2 + bit g.gfold * 4 + bit g.thrdn * 8

/-- A doubleword of the post-mortem record (Tables 16.5 and 16.6); 0 when none is held. -/
def readPm (s : State) (dw : Nat) : Nat :=
  match s.power.pm.filter (fun p => p.magic) with
  | none => 0
  | some p =>
    if dw = 0 then
      0x4D50584A + p.cause.toNat * 2 ^ 32 + p.stage.toNat * 2 ^ 40 + p.facet.toNat * 2 ^ 48
        + p.temp.toNat * 2 ^ 56
    else if dw = 1 then p.tcrit.toNat
    else if dw = 2 then p.ttrip.toNat
    else if dw = 3 then p.entries.length + p.linesLost.toNat * 2 ^ 32
    else if dw < 8 then 0
    else
      match p.entries[(dw - 8) / 2]? with
      | none => 0
      | some e =>
        if dw % 2 = 0 then
          e.space.toNat + (e.part.toNat + e.cls.toNat * 8) * 2 ^ 16 + (bit e.saved + bit e.noSeg * 2) * 2 ^ 24
            + e.teamId.toNat * 2 ^ 32 + e.queue.toNat * 2 ^ 48
        else e.harts.toNat + e.held.toNat * 2 ^ 16

/-- Doubleword `k` of the routing table: eight destinations (Table 18.2). -/
def readRoute (s : State) (k : Nat) : Nat :=
  (List.range 8).foldr (fun i acc => (vget s.route (8 * k + i) 0).toNat + acc * 256) 0

/-- An offset of Table 16.3 other than the package's. -/
def energyOffset (off : Nat) : Bool :=
  let b := off % 0x800
  off % 8 == 0 && ((decide (off < 0x4000) && (decide (b < 0x400 ∧ b % 0x20 < 0x18) || b == 0x400 || b == 0x408)) || off == 0x4000)

/-- An offset that Table 16.3 assigns. -/
def energyAssigned (off : Nat) : Bool := energyOffset off || off == 0x4008

/-- An energy accumulator (R384). -/
def energyAt (s : State) (off : Nat) : Word := ((s.power.energy.find? (fun e => e.1 == off)).map (fun e => e.2)).getD 0

/-- A doubleword of the hub configuration space. -/
def readReg (s : State) (r : HubReg) : Nat :=
  match r with
  | .hst => s.boot.state.code + bit s.boot.memok * 8 + bit s.boot.staged.isSome * 16 + bit s.boot.hostto * 32
      + s.boot.fail.toNat * 2 ^ 8
  | .hst1 => capBase
  | .hcmd => 0
  | .cap k => readCap s k
  | .qd q dw => readQd (s.queue q) dw
  | .pd p dw => (s.parts[p]?.map (fun x => readPd x dw)).getD 0
  | .segmin x => (s.space x).segmin
  | .tcfg dw => readTcfg s.trans dw
  | .frame f => readFrame s f
  | .te x dw => readTe (s.space x) dw
  | .ac x dw => readAc (s.space x) dw
  | .ts dw => readTs s.clock dw
  | .bp f dw => (s.power.plan[f]?.map (fun p => readBp p dw)).getD 0
  | .gv f dw => (s.power.gov[f]?.map (fun g => readGv s g dw)).getD 0
  | .energy off => (energyAt s off).toNat
  | .pm dw => readPm s dw
  | .pp p dw =>
    if dw = 0 then
      (s.ports[p]?.map (fun x => bit x.en + bit x.up * 2 + x.peer.toNat * 2 ^ 8 + x.retry.toNat * 2 ^ 16
        + x.lost.toNat * 2 ^ 48)).getD 0
    else 0
  | .devnum => s.devnum.toNat
  | .route k => readRoute s k

/-- The requester number of the host's CXL.io function (R385); harts are named by their HARTID. -/
def hostRequester : Nat := 2 ^ 25

/-- A 4-byte read of the low half of an accumulator (R385): latches the high half for the requester. An offset that Table 16.3
does not assign reads zero and latches nothing. -/
def readEnergyLow (s : State) (req off : Nat) : Nat × State :=
  if !energyAssigned off then (0, s)
  else
    let x := (energyAt s off).toNat
    let rest := s.power.latches.filter (fun l => l.1 != req)
    (x % 2 ^ 32, { s with power := { s.power with latches := (req, off, BitVec.ofNat 32 (x / 2 ^ 32)) :: rest } })

/-- A 4-byte read of the high half of an accumulator (R385). -/
def readEnergyHigh (s : State) (req off : Nat) : Nat :=
  match s.power.latches.find? (fun l => l.1 == req && l.2.1 == off) with
  | some l => l.2.2.toNat
  | none => (energyAt s off).toNat / 2 ^ 32

/-- Read an accumulator (R385): 8 aligned bytes, either half, and zero for any other read. -/
def readEnergy (s : State) (req off at_ size : Nat) : Nat × State :=
  if size = 8 then ((energyAt s off).toNat, s)
  else if size = 4 && at_ = 0 then readEnergyLow s req off
  else if size = 4 && at_ = 4 then (readEnergyHigh s req off, s)
  else (0, s)

/-- A read of `size` aligned bytes of the hub window; none where the spec gives no register (log 6). The wake window
reads zero (R39). -/
def hubRead (s : State) (req off size : Nat) : Option (Nat × State) :=
  if inWake off then some (0, s)
  else
    match hubReg off with
    | none => none
    | some (.energy e) => some (readEnergy s req e (off % 8) size)
    | some r => some (natBits (readReg s r) (off % 8 * 8) (size * 8), s)

/-! ## Device loads of the current hart -/

/-- What a device-class read answers: its value, a wait for the host window, or a hub offset without a register. -/
inductive DevRes where
  | val (x : Nat) (s : State)
  | wait (s : State)
  | hole (off : Nat)

/-- The operation in flight of the current hart's instruction number `seq` and element `idx` (R407). -/
def State.windowOp? (s : State) (seq : Word) (idx : Nat) : Option WindowOp :=
  s.windowOps.find? (fun o => o.hart == s.hart.id.ref && o.seq == seq && o.idx == idx && !o.write)

/-- One read of the hub window or of the host link for piece `key` of instruction `seq`, made once: its answer stands in the model
until the instruction is over (R246, R407, log 11). -/
def devPiece (s : State) (pa size : Nat) (wc : Bool) (seq : Word) (key : Nat) : DevRes :=
  let op : WindowOp :=
    { hart := s.hart.id.ref, seq := seq, idx := key, pa := pa, size := size, write := false, devc := !wc, data := 0
      mask := 0, answer := none }
  match s.windowOp? seq key with
  | some o =>
    match o.answer with
    | some x => .val (x.toNat % 2 ^ (size * 8)) s
    | none => .wait s
  | none =>
    if isHub pa then
      match hubRead s (s.hartid s.hart.id).toNat (pa % 2 ^ 50) size with
      | some (x, s') => .val x { s' with windowOps := s'.windowOps ++ [{ op with answer := some (BitVec.ofNat 512 x) }] }
      | none => .hole (pa % 2 ^ 50)
    else .wait { s with windowOps := s.windowOps ++ [op] }

/-- `n` pieces of `size` bytes, lowest first. -/
def devPieces (s : State) (pa size : Nat) (wc : Bool) (seq : Word) (key n : Nat) : DevRes :=
  match n with
  | 0 => .val 0 s
  | m + 1 =>
    match devPieces s pa size wc seq key m with
    | .val x s1 =>
      match devPiece s1 (pa + size * m) size wc seq (key + m) with
      | .val y s2 => .val (x + y * 2 ^ (8 * size * m)) s2
      | r => r
    | r => r

/-- An uncached read of `size` bytes for element `idx` (R407): on a WC page of the whole 64-byte host line it lies in (RdCurr;
DEDUCED, log 11), else of the bytes themselves, at most 8 at a time. -/
def devRead (s : State) (pa size : Nat) (wc : Bool) (seq : Word) (idx : Nat) : DevRes :=
  if wc then
    match devPieces s (pa / 64 * 64) 64 true seq (idx * 16) (max 1 (size / 64)) with
    | .val x s' => .val (natBits x (pa % 64 * 8) (size * 8)) s'
    | r => r
  else if size ≤ 8 then devPiece s pa size false seq (idx * 16)
  else devPieces s pa 8 false seq (idx * 16) (size / 8)

/-- The pieces of an uncached read of `size` bytes: whole host lines, or at most 8 bytes each. -/
def devCount (size : Nat) (wc : Bool) : Nat := if wc then max 1 (size / 64) else max 1 (size / 8)

/-- The read that has been begun for element `idx` of an instruction, if a piece of it is in flight or none is left to issue: where
its bytes stand, and whether it reads whole host lines. A piece still to be issued is translated first, so that none is made under
an entry that has gone (R251). -/
def devBegun (s : State) (a : Word) (seq : Word) (idx size : Nat) : Option (Nat × Bool) :=
  (s.windowOp? seq (idx * 16)).bind (fun o =>
    let wc := o.size == 64
    let ops := (List.range (devCount size wc)).map (fun m => s.windowOp? seq (idx * 16 + m))
    if ops.all Option.isSome || ops.any (fun x => (x.map (fun p => p.answer.isNone)).getD false) then
      some (o.pa / 64 * 64 + a.toNat % 64, wc)
    else none)

/-- Forget the answers of an instruction that is over. -/
def clearDev (s : State) (seq : Word) : State :=
  { s with windowOps := s.windowOps.filter (fun o => !(o.hart == s.hart.id.ref && o.seq == seq && !o.write)) }

/-- Run an uncached read inside a scalar instruction: no cause ends its wait for a device-class access (R66), any ends that for a WC page
(R354), which then is read again; the hart's held stores are laid over what it answers (R326). -/
def onDevice (s : State) (a : Word) (pa size : Nat) (wc : Bool) (k : Nat → State → Out) : Out :=
  match devRead s pa size wc s.hart.sc.iseq 0 with
  | .val x s' => k (s'.overHeld a size x) (clearDev s' s.hart.sc.iseq)
  | .wait s' => waiting s' (if wc then .stall else .window)
  | .hole off => .fault (.hubUnassigned off)

end Sys2Proof.Machine
end

