-- ==== Sys2Proof/WellFormed.lean ====
section
/-! DEFINITION. The operand checks of R82 that go beyond zero fields: a predicate destination of p0 (R74), field values
that a description makes illegal, and system register numbers that Table 4.12 does not assign (R98). -/

namespace Sys2Proof

/-- The system register numbers that Table 4.12 assigns. -/
def sysRegAssigned (n : BitVec 11) : Bool :=
  let k := n.toNat
  k ≤ 0x004 || k == 0x008 || k == 0x009 || (0x010 ≤ k && k ≤ 0x014) || (0x018 ≤ k && k ≤ 0x01B)
    || (0x020 ≤ k && k ≤ 0x022) || k == 0x028 || (0x030 ≤ k && k ≤ 0x037) || k == 0x040
    || (0x100 ≤ k && k ≤ 0x102) || (0x104 ≤ k && k ≤ 0x109) || (0x110 ≤ k && k ≤ 0x117)

/-- The source formats of Table 9.1; the format codes 0, 5, 6, 7, 8 and 15 are not among them (R213). -/
def matrixFmt (f : Fmt) : Bool :=
  match f with
  | .none | .i32 | .n32 | .i64 | .n64 | .fp64 => false
  | _ => true

/-- A scope a barrier instruction may name (R335). -/
def barScope (s : Scope) : Bool :=
  match s with
  | .system => false
  | _ => true

/-- No operand that R74, R82, R98 or the instruction's own description makes illegal. Events are well formed. -/
def Instr.wellFormed (i : Instr) : Bool :=
  match i with
  | .sysrd _ n | .syswr _ n => sysRegAssigned n
  | .fence o _ => 1 ≤ o.toNat && o.toNat ≤ 4
  | .barArv _ _ s | .barWt _ _ _ s | .barSy _ _ s => barScope s
  | .vcmpeq d _ _ _ _ | .vcmpne d _ _ _ _ | .vcmplt d _ _ _ _ | .vcmple d _ _ _ _ | .vcmpgt d _ _ _ _
  | .vcmpge d _ _ _ _ | .vcmpuo d _ _ _ _ | .vcmpcls d _ _ _ _ => d != 0
  | .vcmpeqVx d _ _ _ _ | .vcmpneVx d _ _ _ _ | .vcmpltVx d _ _ _ _ | .vcmpleVx d _ _ _ _ | .vcmpgtVx d _ _ _ _
  | .vcmpgeVx d _ _ _ _ | .vcmpuoVx d _ _ _ _ | .vcmpclsVx d _ _ _ _ => d != 0
  | .vcvt _ _ t _ _ _ _ _ | .vcvtBits _ _ t _ _ => t != .none
  | .vld _ _ _ _ f | .vlds _ _ _ _ f | .vldx _ _ _ _ f | .vldff _ _ _ _ f => f != .none
  | .vldAv _ _ _ f | .vldAm _ _ _ f => f != .none
  | .vldR v _ _ n => !n || (v != 0 && v.toNat < 8)
  | .vstR v _ _ n => !n || v.toNat < 8
  | .pand d _ _ | .por d _ _ | .pxor d _ _ | .pandn d _ _ | .pbrk d _ _ => d != 0
  | .pnot d _ | .pmov d _ => d != 0
  | .pset _ d => d != 0
  | .mzero _ f => matrixFmt f
  | .cpmask p _ => p != 0
  | _ => true

end Sys2Proof
end

