-- ==== Sys2Proof/Decode.lean ====
section
/-! DEFINITION. Decoding (R68 to R85) and the encoder: every pattern of bits has one fate. Each major's table is that of
spec/opcode_table.json: the selector of Table 4.2, then the fields of Table 4.1, the bits a row fixes being zero
checks. (A definition is marked noncomputable where it builds an instruction whose constructor number exceeds what
compiled code can hold; the kernel evaluates it.) -/

namespace Sys2Proof

/-- The `len` bits of `w` from bit `lo` up, as a number. -/
def fld (w lo len : Nat) : Nat := w / 2 ^ lo % 2 ^ len

/-- The `len` bits of `w` from bit `lo` up, as a field. -/
def bits (w lo len : Nat) : BitVec len := BitVec.ofNat len (w / 2 ^ lo)

/-- Bit `lo` of `w`. -/
def flag (w lo : Nat) : Bool := w / 2 ^ lo % 2 == 1

/-- Why bytes are not an instruction: an illegal word, an illegal pair (R71), a second word met first (R72), or too few
bytes to read. -/
inductive DecodeErr where
  | illegal (w : BitVec 32)
  | illegalPair (w1 w2 : BitVec 32)
  | continuation (w : BitVec 32)
  | truncated
  deriving DecidableEq, Repr

/-- Major 0x01, OP (Tables 4.2 and 4.3): the instruction, or none where R76 or R82 makes the word illegal. -/
def decodeOp (w : Nat) : Option Instr :=
  match fld w 0 7 with
  | 0 => if fld w 7 1 = 0 then some (.add (bits w 20 6) (bits w 14 6) (bits w 8 6)) else none
  | 1 => if fld w 7 1 = 0 then some (.sub (bits w 20 6) (bits w 14 6) (bits w 8 6)) else none
  | 2 => if fld w 7 1 = 0 then some (.and (bits w 20 6) (bits w 14 6) (bits w 8 6)) else none
  | 3 => if fld w 7 1 = 0 then some (.or (bits w 20 6) (bits w 14 6) (bits w 8 6)) else none
  | 4 => if fld w 7 1 = 0 then some (.xor (bits w 20 6) (bits w 14 6) (bits w 8 6)) else none
  | 5 => if fld w 7 1 = 0 then some (.andn (bits w 20 6) (bits w 14 6) (bits w 8 6)) else none
  | 6 => if fld w 7 1 = 0 then some (.sll (bits w 20 6) (bits w 14 6) (bits w 8 6)) else none
  | 7 => if fld w 7 1 = 0 then some (.srl (bits w 20 6) (bits w 14 6) (bits w 8 6)) else none
  | 8 => if fld w 7 1 = 0 then some (.sra (bits w 20 6) (bits w 14 6) (bits w 8 6)) else none
  | 9 => if fld w 7 1 = 0 then some (.rotr (bits w 20 6) (bits w 14 6) (bits w 8 6)) else none
  | 10 => if fld w 7 1 = 0 then some (.slt (bits w 20 6) (bits w 14 6) (bits w 8 6)) else none
  | 11 => if fld w 7 1 = 0 then some (.sltu (bits w 20 6) (bits w 14 6) (bits w 8 6)) else none
  | 12 => if fld w 7 1 = 0 then some (.min (bits w 20 6) (bits w 14 6) (bits w 8 6)) else none
  | 13 => if fld w 7 1 = 0 then some (.max (bits w 20 6) (bits w 14 6) (bits w 8 6)) else none
  | 14 => if fld w 7 1 = 0 then some (.minu (bits w 20 6) (bits w 14 6) (bits w 8 6)) else none
  | 15 => if fld w 7 1 = 0 then some (.maxu (bits w 20 6) (bits w 14 6) (bits w 8 6)) else none
  | 16 => if fld w 7 1 = 0 then some (.mul (bits w 20 6) (bits w 14 6) (bits w 8 6)) else none
  | 17 => if fld w 7 1 = 0 then some (.mulh (bits w 20 6) (bits w 14 6) (bits w 8 6)) else none
  | 18 => if fld w 7 1 = 0 then some (.mulhu (bits w 20 6) (bits w 14 6) (bits w 8 6)) else none
  | 19 => if fld w 7 1 = 0 then some (.div (bits w 20 6) (bits w 14 6) (bits w 8 6)) else none
  | 20 => if fld w 7 1 = 0 then some (.divu (bits w 20 6) (bits w 14 6) (bits w 8 6)) else none
  | 21 => if fld w 7 1 = 0 then some (.rem (bits w 20 6) (bits w 14 6) (bits w 8 6)) else none
  | 22 => if fld w 7 1 = 0 then some (.remu (bits w 20 6) (bits w 14 6) (bits w 8 6)) else none
  | 23 => if fld w 7 1 = 0 then some (.addw (bits w 20 6) (bits w 14 6) (bits w 8 6)) else none
  | 24 => if fld w 7 1 = 0 then some (.subw (bits w 20 6) (bits w 14 6) (bits w 8 6)) else none
  | 25 => if fld w 7 1 = 0 then some (.mulw (bits w 20 6) (bits w 14 6) (bits w 8 6)) else none
  | 26 => if fld w 7 7 = 0 then some (.clz (bits w 20 6) (bits w 14 6)) else none
  | 27 => if fld w 7 7 = 0 then some (.ctz (bits w 20 6) (bits w 14 6)) else none
  | 28 => if fld w 7 7 = 0 then some (.popc (bits w 20 6) (bits w 14 6)) else none
  | 29 => if fld w 7 7 = 0 then some (.bswap (bits w 20 6) (bits w 14 6)) else none
  | 30 => if fld w 7 7 = 0 then some (.sxb (bits w 20 6) (bits w 14 6)) else none
  | 31 => if fld w 7 7 = 0 then some (.sxh (bits w 20 6) (bits w 14 6)) else none
  | 32 => if fld w 7 7 = 0 then some (.sxw (bits w 20 6) (bits w 14 6)) else none
  | 33 => if fld w 7 7 = 0 then some (.zxw (bits w 20 6) (bits w 14 6)) else none
  | _ => none

/-- Major 0x02, OPI (Tables 4.2 and 4.3): the instruction, or none where R76 or R82 makes the word illegal. -/
def decodeOpi (w : Nat) : Option Instr :=
  match fld w 11 3 with
  | 0 => some (.addi (bits w 20 6) (bits w 14 6) (bits w 0 11))
  | 1 => some (.andi (bits w 20 6) (bits w 14 6) (bits w 0 11))
  | 2 => some (.ori (bits w 20 6) (bits w 14 6) (bits w 0 11))
  | 3 => some (.xori (bits w 20 6) (bits w 14 6) (bits w 0 11))
  | 4 => if fld w 6 5 = 0 then some (.slli (bits w 20 6) (bits w 14 6) (bits w 0 6)) else none
  | 5 => if fld w 6 5 = 0 then some (.srli (bits w 20 6) (bits w 14 6) (bits w 0 6)) else none
  | 6 => if fld w 6 5 = 0 then some (.srai (bits w 20 6) (bits w 14 6) (bits w 0 6)) else none
  | 7 => some (.slti (bits w 20 6) (bits w 14 6) (bits w 0 11))
  | _ => none

/-- Major 0x03, LHI (Tables 4.2 and 4.3): the instruction, or none where R76 or R82 makes the word illegal. -/
def decodeLhi (w : Nat) : Option Instr :=
  some (.lhi (bits w 20 6) (bits w 0 20))

/-- Major 0x04, BRC (Tables 4.2 and 4.3): the instruction, or none where R76 or R82 makes the word illegal. -/
def decodeBrc (w : Nat) : Option Instr :=
  match fld w 22 4 with
  | 0 => some (.beq (bits w 16 6) (bits w 10 6) (bits w 0 10))
  | 1 => some (.bne (bits w 16 6) (bits w 10 6) (bits w 0 10))
  | 2 => some (.blt (bits w 16 6) (bits w 10 6) (bits w 0 10))
  | 3 => some (.bge (bits w 16 6) (bits w 10 6) (bits w 0 10))
  | 4 => some (.bltu (bits w 16 6) (bits w 10 6) (bits w 0 10))
  | 5 => some (.bgeu (bits w 16 6) (bits w 10 6) (bits w 0 10))
  | _ => none

/-- Major 0x05, BRZ (Tables 4.2 and 4.3): the instruction, or none where R76 or R82 makes the word illegal. -/
def decodeBrz (w : Nat) : Option Instr :=
  match fld w 23 3 with
  | 0 => some (.beqz (bits w 17 6) (bits w 0 17))
  | 1 => some (.bnez (bits w 17 6) (bits w 0 17))
  | 2 => some (.bltz (bits w 17 6) (bits w 0 17))
  | 3 => some (.bgez (bits w 17 6) (bits w 0 17))
  | 4 => some (.bgtz (bits w 17 6) (bits w 0 17))
  | 5 => some (.blez (bits w 17 6) (bits w 0 17))
  | _ => none

/-- Major 0x06, JAL (Tables 4.2 and 4.3): the instruction, or none where R76 or R82 makes the word illegal. -/
def decodeJal (w : Nat) : Option Instr :=
  some (.jal (bits w 20 6) (bits w 0 20))

/-- Major 0x07, JALR (Tables 4.2 and 4.3): the instruction, or none where R76 or R82 makes the word illegal. -/
def decodeJalr (w : Nat) : Option Instr :=
  match fld w 11 3 with
  | 0 => some (.jalr (bits w 20 6) (bits w 14 6) (bits w 0 11))
  | _ => none

/-- Major 0x08, LD (Tables 4.2 and 4.3): the instruction, or none where R76 or R82 makes the word illegal. -/
def decodeLd (w : Nat) : Option Instr :=
  match fld w 11 3 with
  | 0 => some (.ldB (bits w 20 6) (bits w 14 6) (bits w 0 11))
  | 1 => some (.ldH (bits w 20 6) (bits w 14 6) (bits w 0 11))
  | 2 => some (.ldW (bits w 20 6) (bits w 14 6) (bits w 0 11))
  | 3 => some (.ldD (bits w 20 6) (bits w 14 6) (bits w 0 11))
  | 4 => some (.ldBu (bits w 20 6) (bits w 14 6) (bits w 0 11))
  | 5 => some (.ldHu (bits w 20 6) (bits w 14 6) (bits w 0 11))
  | 6 => some (.ldWu (bits w 20 6) (bits w 14 6) (bits w 0 11))
  | _ => none

/-- Major 0x09, ST (Tables 4.2 and 4.3): the instruction, or none where R76 or R82 makes the word illegal. -/
def decodeSt (w : Nat) : Option Instr :=
  match fld w 11 3 with
  | 0 => some (.stB (bits w 20 6) (bits w 14 6) (bits w 0 11))
  | 1 => some (.stH (bits w 20 6) (bits w 14 6) (bits w 0 11))
  | 2 => some (.stW (bits w 20 6) (bits w 14 6) (bits w 0 11))
  | 3 => some (.stD (bits w 20 6) (bits w 14 6) (bits w 0 11))
  | _ => none

/-- Major 0x0A, LDSTO (Tables 4.2 and 4.3): the instruction, or none where R76 or R82 makes the word illegal. -/
def decodeLdstO (w : Nat) : Option Instr :=
  match fld w 10 2 with
  | 0 => if fld w 0 10 = 0 then some (.ldAcqW (bits w 20 6) (bits w 14 6) (Scope.ofCode (bits w 12 2))) else none
  | 1 => if fld w 0 10 = 0 then some (.ldAcqD (bits w 20 6) (bits w 14 6) (Scope.ofCode (bits w 12 2))) else none
  | 2 => if fld w 0 10 = 0 then some (.stRelW (bits w 20 6) (bits w 14 6) (Scope.ofCode (bits w 12 2))) else none
  | 3 => if fld w 0 10 = 0 then some (.stRelD (bits w 20 6) (bits w 14 6) (Scope.ofCode (bits w 12 2))) else none
  | _ => none

/-- Major 0x0B, AMO (Tables 4.2 and 4.3): the instruction, or none where R76 or R82 makes the word illegal. -/
def decodeAmo (w : Nat) : Option Instr :=
  match fld w 0 4 with
  | 0 => some (.amoAdd (bits w 20 6) (bits w 14 6) (bits w 8 6) (MemOrder.ofCode (bits w 6 2)) (Scope.ofCode (bits w 4 2)))
  | 1 => some (.amoAnd (bits w 20 6) (bits w 14 6) (bits w 8 6) (MemOrder.ofCode (bits w 6 2)) (Scope.ofCode (bits w 4 2)))
  | 2 => some (.amoOr (bits w 20 6) (bits w 14 6) (bits w 8 6) (MemOrder.ofCode (bits w 6 2)) (Scope.ofCode (bits w 4 2)))
  | 3 => some (.amoXor (bits w 20 6) (bits w 14 6) (bits w 8 6) (MemOrder.ofCode (bits w 6 2)) (Scope.ofCode (bits w 4 2)))
  | 4 => some (.amoMin (bits w 20 6) (bits w 14 6) (bits w 8 6) (MemOrder.ofCode (bits w 6 2)) (Scope.ofCode (bits w 4 2)))
  | 5 => some (.amoMax (bits w 20 6) (bits w 14 6) (bits w 8 6) (MemOrder.ofCode (bits w 6 2)) (Scope.ofCode (bits w 4 2)))
  | 6 => some (.amoMinu (bits w 20 6) (bits w 14 6) (bits w 8 6) (MemOrder.ofCode (bits w 6 2)) (Scope.ofCode (bits w 4 2)))
  | 7 => some (.amoMaxu (bits w 20 6) (bits w 14 6) (bits w 8 6) (MemOrder.ofCode (bits w 6 2)) (Scope.ofCode (bits w 4 2)))
  | 8 => some (.amoSwap (bits w 20 6) (bits w 14 6) (bits w 8 6) (MemOrder.ofCode (bits w 6 2)) (Scope.ofCode (bits w 4 2)))
  | 9 => some (.amoCas (bits w 20 6) (bits w 14 6) (bits w 8 6) (MemOrder.ofCode (bits w 6 2)) (Scope.ofCode (bits w 4 2)))
  | 10 => some (.amoIncb (bits w 20 6) (bits w 14 6) (bits w 8 6) (MemOrder.ofCode (bits w 6 2)) (Scope.ofCode (bits w 4 2)))
  | 11 => some (.amoFmin (bits w 20 6) (bits w 14 6) (bits w 8 6) (MemOrder.ofCode (bits w 6 2)) (Scope.ofCode (bits w 4 2)))
  | 12 => some (.amoFadd (bits w 20 6) (bits w 14 6) (bits w 8 6) (MemOrder.ofCode (bits w 6 2)) (Scope.ofCode (bits w 4 2)))
  | _ => none

/-- Major 0x0C, FOP (Tables 4.2 and 4.3): the instruction, or none where R76 or R82 makes the word illegal. -/
noncomputable def decodeFop (w : Nat) : Option Instr :=
  match fld w 0 7 with
  | 0 => if fld w 7 1 = 0 then some (.faddS (bits w 20 6) (bits w 14 6) (bits w 8 6)) else none
  | 1 => if fld w 7 1 = 0 then some (.faddD (bits w 20 6) (bits w 14 6) (bits w 8 6)) else none
  | 2 => if fld w 7 1 = 0 then some (.fsubS (bits w 20 6) (bits w 14 6) (bits w 8 6)) else none
  | 3 => if fld w 7 1 = 0 then some (.fsubD (bits w 20 6) (bits w 14 6) (bits w 8 6)) else none
  | 4 => if fld w 7 1 = 0 then some (.fmulS (bits w 20 6) (bits w 14 6) (bits w 8 6)) else none
  | 5 => if fld w 7 1 = 0 then some (.fmulD (bits w 20 6) (bits w 14 6) (bits w 8 6)) else none
  | 6 => if fld w 7 1 = 0 then some (.fdivS (bits w 20 6) (bits w 14 6) (bits w 8 6)) else none
  | 7 => if fld w 7 1 = 0 then some (.fdivD (bits w 20 6) (bits w 14 6) (bits w 8 6)) else none
  | 8 => if fld w 7 7 = 0 then some (.fsqrtS (bits w 20 6) (bits w 14 6)) else none
  | 9 => if fld w 7 7 = 0 then some (.fsqrtD (bits w 20 6) (bits w 14 6)) else none
  | 10 => if fld w 7 1 = 0 then some (.fminS (bits w 20 6) (bits w 14 6) (bits w 8 6)) else none
  | 11 => if fld w 7 1 = 0 then some (.fminD (bits w 20 6) (bits w 14 6) (bits w 8 6)) else none
  | 12 => if fld w 7 1 = 0 then some (.fmaxS (bits w 20 6) (bits w 14 6) (bits w 8 6)) else none
  | 13 => if fld w 7 1 = 0 then some (.fmaxD (bits w 20 6) (bits w 14 6) (bits w 8 6)) else none
  | 14 => if fld w 7 1 = 0 then some (.fmacS (bits w 20 6) (bits w 14 6) (bits w 8 6)) else none
  | 15 => if fld w 7 1 = 0 then some (.fmacD (bits w 20 6) (bits w 14 6) (bits w 8 6)) else none
  | 16 => if fld w 7 7 = 0 then some (.fnegS (bits w 20 6) (bits w 14 6)) else none
  | 17 => if fld w 7 7 = 0 then some (.fnegD (bits w 20 6) (bits w 14 6)) else none
  | 18 => if fld w 7 7 = 0 then some (.fabsS (bits w 20 6) (bits w 14 6)) else none
  | 19 => if fld w 7 7 = 0 then some (.fabsD (bits w 20 6) (bits w 14 6)) else none
  | 20 => if fld w 7 1 = 0 then some (.feqS (bits w 20 6) (bits w 14 6) (bits w 8 6)) else none
  | 21 => if fld w 7 1 = 0 then some (.feqD (bits w 20 6) (bits w 14 6) (bits w 8 6)) else none
  | 22 => if fld w 7 1 = 0 then some (.fltS (bits w 20 6) (bits w 14 6) (bits w 8 6)) else none
  | 23 => if fld w 7 1 = 0 then some (.fltD (bits w 20 6) (bits w 14 6) (bits w 8 6)) else none
  | 24 => if fld w 7 1 = 0 then some (.fleS (bits w 20 6) (bits w 14 6) (bits w 8 6)) else none
  | 25 => if fld w 7 1 = 0 then some (.fleD (bits w 20 6) (bits w 14 6) (bits w 8 6)) else none
  | 26 => if fld w 7 7 = 0 then some (.fclassS (bits w 20 6) (bits w 14 6)) else none
  | 27 => if fld w 7 7 = 0 then some (.fclassD (bits w 20 6) (bits w 14 6)) else none
  | 28 => if fld w 7 7 = 0 then some (.fcvtSD (bits w 20 6) (bits w 14 6)) else none
  | 29 => if fld w 7 7 = 0 then some (.fcvtDS (bits w 20 6) (bits w 14 6)) else none
  | 30 => if fld w 7 7 = 0 then some (.fcvtLS (bits w 20 6) (bits w 14 6)) else none
  | 31 => if fld w 7 7 = 0 then some (.fcvtLD (bits w 20 6) (bits w 14 6)) else none
  | 32 => if fld w 7 7 = 0 then some (.fcvtSL (bits w 20 6) (bits w 14 6)) else none
  | 33 => if fld w 7 7 = 0 then some (.fcvtDL (bits w 20 6) (bits w 14 6)) else none
  | _ => none

/-- Major 0x0D, SYS (Tables 4.2 and 4.3): the instruction, or none where R76 or R82 makes the word illegal. -/
noncomputable def decodeSys (w : Nat) : Option Instr :=
  match fld w 11 3 with
  | 0 => if fld w 14 6 = 0 then some (.sysrd (bits w 20 6) (bits w 0 11)) else none
  | 1 => if fld w 20 6 = 0 then some (.syswr (bits w 14 6) (bits w 0 11)) else none
  | 2 => if fld w 14 12 = 0 then some (.trap (bits w 0 11)) else none
  | 3 => if fld w 0 11 = 0 ∧ fld w 14 12 = 0 then some .done else none
  | 4 => if fld w 0 11 = 0 ∧ fld w 14 12 = 0 then some .yield else none
  | 5 => if fld w 0 11 = 0 ∧ fld w 14 12 = 0 then some .eret else none
  | 6 => some (.launch (bits w 20 6) (bits w 14 6) (bits w 0 11))
  | 7 => if fld w 0 11 = 0 then some (.replay (bits w 20 6) (bits w 14 6)) else none
  | _ => none

/-- Major 0x0E, SYNC (Tables 4.2 and 4.3): the instruction, or none where R76 or R82 makes the word illegal. -/
noncomputable def decodeSync (w : Nat) : Option Instr :=
  match fld w 11 3 with
  | 0 => if fld w 5 6 = 0 ∧ fld w 14 12 = 0 then some (.fence (bits w 2 3) (Scope.ofCode (bits w 0 2))) else none
  | 1 => if fld w 5 6 = 0 ∧ fld w 14 6 = 0 then
      some (.barArv (bits w 20 6) (bits w 2 3) (Scope.ofCode (bits w 0 2)))
    else none
  | 2 => if fld w 5 6 = 0 then
      some (.barWt (bits w 20 6) (bits w 14 6) (bits w 2 3) (Scope.ofCode (bits w 0 2)))
    else none
  | 3 => if fld w 5 6 = 0 ∧ fld w 14 6 = 0 then
      some (.barSy (bits w 20 6) (bits w 2 3) (Scope.ofCode (bits w 0 2)))
    else none
  | 4 => if fld w 3 8 = 0 ∧ fld w 14 6 = 0 then
      some (.stripTake (bits w 20 6) (bits w 0 3)) else if fld w 3 8 = 1 then
      some (.stripDeclare (bits w 20 6) (bits w 14 6) (bits w 0 3))
    else none
  | 5 => if fld w 1 10 = 0 ∧ fld w 14 12 = 0 then some (.vsync (flag w 0)) else none
  | 6 => some (.inval (bits w 20 6) (bits w 14 6) (bits w 0 11))
  | 7 => if fld w 1 10 = 0 ∧ fld w 20 6 = 0 then some (.ptsync (bits w 14 6) (flag w 0)) else none
  | _ => none

/-- Major 0x10, VOP (Tables 4.2 and 4.3): the instruction, or none where R76 or R82 makes the word illegal. -/
def decodeVop (w : Nat) : Option Instr :=
  match fld w 0 7 with
  | 0 => some (.vadd (bits w 21 5) (bits w 16 5) (bits w 11 5) (bits w 8 3) (flag w 7))
  | 1 => some (.vsub (bits w 21 5) (bits w 16 5) (bits w 11 5) (bits w 8 3) (flag w 7))
  | 2 => some (.vmul (bits w 21 5) (bits w 16 5) (bits w 11 5) (bits w 8 3) (flag w 7))
  | 3 => some (.vdiv (bits w 21 5) (bits w 16 5) (bits w 11 5) (bits w 8 3) (flag w 7))
  | 4 => some (.vmin (bits w 21 5) (bits w 16 5) (bits w 11 5) (bits w 8 3) (flag w 7))
  | 5 => some (.vmax (bits w 21 5) (bits w 16 5) (bits w 11 5) (bits w 8 3) (flag w 7))
  | 6 => some (.vfma (bits w 21 5) (bits w 16 5) (bits w 11 5) (bits w 8 3) (flag w 7))
  | 7 => some (.vfms (bits w 21 5) (bits w 16 5) (bits w 11 5) (bits w 8 3) (flag w 7))
  | 8 => some (.vnfma (bits w 21 5) (bits w 16 5) (bits w 11 5) (bits w 8 3) (flag w 7))
  | 9 => if fld w 11 5 = 0 then some (.vabs (bits w 21 5) (bits w 16 5) (bits w 8 3) (flag w 7)) else none
  | 10 => if fld w 11 5 = 0 then some (.vneg (bits w 21 5) (bits w 16 5) (bits w 8 3) (flag w 7)) else none
  | 11 => if fld w 11 5 = 0 then some (.vsqrt (bits w 21 5) (bits w 16 5) (bits w 8 3) (flag w 7)) else none
  | 12 => some (.vand (bits w 21 5) (bits w 16 5) (bits w 11 5) (bits w 8 3) (flag w 7))
  | 13 => some (.vor (bits w 21 5) (bits w 16 5) (bits w 11 5) (bits w 8 3) (flag w 7))
  | 14 => some (.vxor (bits w 21 5) (bits w 16 5) (bits w 11 5) (bits w 8 3) (flag w 7))
  | 15 => some (.vsll (bits w 21 5) (bits w 16 5) (bits w 11 5) (bits w 8 3) (flag w 7))
  | 16 => some (.vsrl (bits w 21 5) (bits w 16 5) (bits w 11 5) (bits w 8 3) (flag w 7))
  | 17 => some (.vsra (bits w 21 5) (bits w 16 5) (bits w 11 5) (bits w 8 3) (flag w 7))
  | 18 => some (.vmulh (bits w 21 5) (bits w 16 5) (bits w 11 5) (bits w 8 3) (flag w 7))
  | 19 => some (.vsadd (bits w 21 5) (bits w 16 5) (bits w 11 5) (bits w 8 3) (flag w 7))
  | 20 => some (.vssub (bits w 21 5) (bits w 16 5) (bits w 11 5) (bits w 8 3) (flag w 7))
  | 21 => if fld w 11 5 = 0 then some (.vmov (bits w 21 5) (bits w 16 5) (bits w 8 3) (flag w 7)) else none
  | 22 => if fld w 7 1 = 0 then some (.vsel (bits w 21 5) (bits w 16 5) (bits w 11 5) (bits w 8 3)) else none
  | 23 => if fld w 11 5 = 0 then some (.vexp2 (bits w 21 5) (bits w 16 5) (bits w 8 3) (flag w 7)) else none
  | 24 => if fld w 11 5 = 0 then some (.vlog2 (bits w 21 5) (bits w 16 5) (bits w 8 3) (flag w 7)) else none
  | 25 => if fld w 11 5 = 0 then some (.vrcp (bits w 21 5) (bits w 16 5) (bits w 8 3) (flag w 7)) else none
  | 26 => if fld w 11 5 = 0 then some (.vrsqrt (bits w 21 5) (bits w 16 5) (bits w 8 3) (flag w 7)) else none
  | 27 => if fld w 11 5 = 0 then some (.vclz (bits w 21 5) (bits w 16 5) (bits w 8 3) (flag w 7)) else none
  | 28 => if fld w 11 5 = 0 then some (.vpopc (bits w 21 5) (bits w 16 5) (bits w 8 3) (flag w 7)) else none
  | _ => none

/-- Major 0x11, VOPX (Tables 4.2 and 4.3): the instruction, or none where R76 or R82 makes the word illegal. -/
def decodeVopx (w : Nat) : Option Instr :=
  match fld w 0 6 with
  | 0 => some (.vaddVx (bits w 21 5) (bits w 16 5) (bits w 10 6) (bits w 7 3) (flag w 6))
  | 1 => some (.vsubVx (bits w 21 5) (bits w 16 5) (bits w 10 6) (bits w 7 3) (flag w 6))
  | 2 => some (.vmulVx (bits w 21 5) (bits w 16 5) (bits w 10 6) (bits w 7 3) (flag w 6))
  | 3 => some (.vdivVx (bits w 21 5) (bits w 16 5) (bits w 10 6) (bits w 7 3) (flag w 6))
  | 4 => some (.vminVx (bits w 21 5) (bits w 16 5) (bits w 10 6) (bits w 7 3) (flag w 6))
  | 5 => some (.vmaxVx (bits w 21 5) (bits w 16 5) (bits w 10 6) (bits w 7 3) (flag w 6))
  | 6 => some (.vfmaVx (bits w 21 5) (bits w 16 5) (bits w 10 6) (bits w 7 3) (flag w 6))
  | 7 => some (.vfmsVx (bits w 21 5) (bits w 16 5) (bits w 10 6) (bits w 7 3) (flag w 6))
  | 8 => some (.vnfmaVx (bits w 21 5) (bits w 16 5) (bits w 10 6) (bits w 7 3) (flag w 6))
  | 12 => some (.vandVx (bits w 21 5) (bits w 16 5) (bits w 10 6) (bits w 7 3) (flag w 6))
  | 13 => some (.vorVx (bits w 21 5) (bits w 16 5) (bits w 10 6) (bits w 7 3) (flag w 6))
  | 14 => some (.vxorVx (bits w 21 5) (bits w 16 5) (bits w 10 6) (bits w 7 3) (flag w 6))
  | 15 => some (.vsllVx (bits w 21 5) (bits w 16 5) (bits w 10 6) (bits w 7 3) (flag w 6))
  | 16 => some (.vsrlVx (bits w 21 5) (bits w 16 5) (bits w 10 6) (bits w 7 3) (flag w 6))
  | 17 => some (.vsraVx (bits w 21 5) (bits w 16 5) (bits w 10 6) (bits w 7 3) (flag w 6))
  | 18 => some (.vmulhVx (bits w 21 5) (bits w 16 5) (bits w 10 6) (bits w 7 3) (flag w 6))
  | 19 => some (.vsaddVx (bits w 21 5) (bits w 16 5) (bits w 10 6) (bits w 7 3) (flag w 6))
  | 20 => some (.vssubVx (bits w 21 5) (bits w 16 5) (bits w 10 6) (bits w 7 3) (flag w 6))
  | 22 => if fld w 6 1 = 0 then some (.vselVx (bits w 21 5) (bits w 16 5) (bits w 10 6) (bits w 7 3)) else none
  | 29 => if fld w 16 5 = 0 then some (.vbcast (bits w 21 5) (bits w 10 6) (bits w 7 3) (flag w 6)) else none
  | _ => none

/-- Major 0x12, VOPI (Tables 4.2 and 4.3): the instruction, or none where R76 or R82 makes the word illegal. -/
def decodeVopi (w : Nat) : Option Instr :=
  match fld w 0 4 with
  | 0 => some (.vaddi (bits w 21 5) (bits w 16 5) (bits w 8 8) (bits w 5 3) (flag w 4))
  | 1 => some (.vslli (bits w 21 5) (bits w 16 5) (bits w 8 8) (bits w 5 3) (flag w 4))
  | 2 => some (.vsrli (bits w 21 5) (bits w 16 5) (bits w 8 8) (bits w 5 3) (flag w 4))
  | 3 => some (.vsrai (bits w 21 5) (bits w 16 5) (bits w 8 8) (bits w 5 3) (flag w 4))
  | 4 => some (.vandi (bits w 21 5) (bits w 16 5) (bits w 8 8) (bits w 5 3) (flag w 4))
  | 5 => some (.vori (bits w 21 5) (bits w 16 5) (bits w 8 8) (bits w 5 3) (flag w 4))
  | 6 => some (.vxori (bits w 21 5) (bits w 16 5) (bits w 8 8) (bits w 5 3) (flag w 4))
  | _ => none

/-- Major 0x13, VCMP (Tables 4.2 and 4.3): the instruction, or none where R76 or R82 makes the word illegal. -/
def decodeVcmp (w : Nat) : Option Instr :=
  match fld w 0 6 with
  | 0 => if fld w 6 1 = 0 ∧ fld w 24 2 = 0 then
      some (.vcmpeq (bits w 21 3) (bits w 16 5) (bits w 11 5) (bits w 8 3) (flag w 7))
    else none
  | 1 => if fld w 6 1 = 0 ∧ fld w 24 2 = 0 then
      some (.vcmpne (bits w 21 3) (bits w 16 5) (bits w 11 5) (bits w 8 3) (flag w 7))
    else none
  | 2 => if fld w 6 1 = 0 ∧ fld w 24 2 = 0 then
      some (.vcmplt (bits w 21 3) (bits w 16 5) (bits w 11 5) (bits w 8 3) (flag w 7))
    else none
  | 3 => if fld w 6 1 = 0 ∧ fld w 24 2 = 0 then
      some (.vcmple (bits w 21 3) (bits w 16 5) (bits w 11 5) (bits w 8 3) (flag w 7))
    else none
  | 4 => if fld w 6 1 = 0 ∧ fld w 24 2 = 0 then
      some (.vcmpgt (bits w 21 3) (bits w 16 5) (bits w 11 5) (bits w 8 3) (flag w 7))
    else none
  | 5 => if fld w 6 1 = 0 ∧ fld w 24 2 = 0 then
      some (.vcmpge (bits w 21 3) (bits w 16 5) (bits w 11 5) (bits w 8 3) (flag w 7))
    else none
  | 6 => if fld w 6 1 = 0 ∧ fld w 24 2 = 0 then
      some (.vcmpuo (bits w 21 3) (bits w 16 5) (bits w 11 5) (bits w 8 3) (flag w 7))
    else none
  | 7 => if fld w 6 1 = 0 ∧ fld w 24 2 = 0 then
      some (.vcmpcls (bits w 21 3) (bits w 16 5) (bits w 11 5) (bits w 8 3) (flag w 7))
    else none
  | 8 => if fld w 24 2 = 0 then
      some (.vcmpeqVx (bits w 21 3) (bits w 16 5) (bits w 10 6) (bits w 7 3) (flag w 6))
    else none
  | 9 => if fld w 24 2 = 0 then
      some (.vcmpneVx (bits w 21 3) (bits w 16 5) (bits w 10 6) (bits w 7 3) (flag w 6))
    else none
  | 10 => if fld w 24 2 = 0 then
      some (.vcmpltVx (bits w 21 3) (bits w 16 5) (bits w 10 6) (bits w 7 3) (flag w 6))
    else none
  | 11 => if fld w 24 2 = 0 then
      some (.vcmpleVx (bits w 21 3) (bits w 16 5) (bits w 10 6) (bits w 7 3) (flag w 6))
    else none
  | 12 => if fld w 24 2 = 0 then
      some (.vcmpgtVx (bits w 21 3) (bits w 16 5) (bits w 10 6) (bits w 7 3) (flag w 6))
    else none
  | 13 => if fld w 24 2 = 0 then
      some (.vcmpgeVx (bits w 21 3) (bits w 16 5) (bits w 10 6) (bits w 7 3) (flag w 6))
    else none
  | 14 => if fld w 24 2 = 0 then
      some (.vcmpuoVx (bits w 21 3) (bits w 16 5) (bits w 10 6) (bits w 7 3) (flag w 6))
    else none
  | 15 => if fld w 24 2 = 0 then
      some (.vcmpclsVx (bits w 21 3) (bits w 16 5) (bits w 10 6) (bits w 7 3) (flag w 6))
    else none
  | _ => none

/-- Major 0x14, VRED (Tables 4.2 and 4.3): the instruction, or none where R76 or R82 makes the word illegal. -/
def decodeVred (w : Nat) : Option Instr :=
  match fld w 0 7 with
  | 0 => if fld w 7 1 = 0 ∧ fld w 11 5 = 0 then some (.vredsum (bits w 21 5) (bits w 16 5) (bits w 8 3)) else none
  | 1 => if fld w 7 1 = 0 ∧ fld w 11 5 = 0 then some (.vredosum (bits w 21 5) (bits w 16 5) (bits w 8 3)) else none
  | 2 => if fld w 7 1 = 0 ∧ fld w 11 5 = 0 then some (.vredmin (bits w 21 5) (bits w 16 5) (bits w 8 3)) else none
  | 3 => if fld w 7 1 = 0 ∧ fld w 11 5 = 0 then some (.vredmax (bits w 21 5) (bits w 16 5) (bits w 8 3)) else none
  | 4 => if fld w 7 1 = 0 ∧ fld w 11 5 = 0 then some (.vredand (bits w 21 5) (bits w 16 5) (bits w 8 3)) else none
  | 5 => if fld w 7 1 = 0 ∧ fld w 11 5 = 0 then some (.vredor (bits w 21 5) (bits w 16 5) (bits w 8 3)) else none
  | 6 => if fld w 7 1 = 0 ∧ fld w 11 5 = 0 then some (.vredxor (bits w 21 5) (bits w 16 5) (bits w 8 3)) else none
  | 7 => if fld w 7 1 = 0 ∧ fld w 11 5 = 0 then some (.vredsumW (bits w 21 5) (bits w 16 5) (bits w 8 3)) else none
  | _ => none

/-- Major 0x15, VPERM (Tables 4.2 and 4.3): the instruction, or none where R76 or R82 makes the word illegal. -/
def decodeVperm (w : Nat) : Option Instr :=
  match fld w 0 6 with
  | 0 => some (.vslideup (bits w 21 5) (bits w 16 5) (bits w 10 6) (bits w 7 3) (flag w 6))
  | 1 => some (.vslidedn (bits w 21 5) (bits w 16 5) (bits w 10 6) (bits w 7 3) (flag w 6))
  | 2 => if fld w 6 1 = 0 then
      some (.vrgather (bits w 21 5) (bits w 16 5) (bits w 11 5) (bits w 8 3) (flag w 7))
    else none
  | 3 => if fld w 6 2 = 0 ∧ fld w 11 5 = 0 then some (.vcompress (bits w 21 5) (bits w 16 5) (bits w 8 3)) else none
  | 4 => if fld w 6 1 = 0 ∧ fld w 11 5 = 0 then
      some (.vexpand (bits w 21 5) (bits w 16 5) (bits w 8 3) (flag w 7))
    else none
  | 5 => if fld w 6 1 = 0 ∧ fld w 11 10 = 0 then some (.viota (bits w 21 5) (bits w 8 3) (flag w 7)) else none
  | 6 => if fld w 6 1 = 0 then
      some (.vzip (bits w 21 5) (bits w 16 5) (bits w 11 5) (bits w 8 3) (flag w 7))
    else none
  | 7 => if fld w 6 1 = 0 then
      some (.vunzip (bits w 21 5) (bits w 16 5) (bits w 11 5) (bits w 8 3) (flag w 7))
    else none
  | 8 => if fld w 6 1 = 0 ∧ fld w 11 5 = 0 then
      some (.vrev (bits w 21 5) (bits w 16 5) (bits w 8 3) (flag w 7))
    else none
  | _ => none

/-- Major 0x16, VCVT (Tables 4.2 and 4.3): the instruction, or none where R76 or R82 makes the word illegal. -/
def decodeVcvt (w : Nat) : Option Instr :=
  match fld w 5 2 with
  | 0 => if fld w 15 1 = 0 then
      some (.vcvt (bits w 21 5) (bits w 16 5) (Fmt.ofCode (bits w 11 4)) (bits w 8 3) (flag w 7) (bits w 3 2) (flag w 2) (bits w 0 2))
    else none
  | 1 => if fld w 0 5 = 0 ∧ fld w 15 1 = 0 then
      some (.vcvtBits (bits w 21 5) (bits w 16 5) (Fmt.ofCode (bits w 11 4)) (bits w 8 3) (flag w 7))
    else none
  | _ => none

/-- Major 0x17, VSET (Tables 4.2 and 4.3): the instruction, or none where R76 or R82 makes the word illegal. -/
def decodeVset (w : Nat) : Option Instr :=
  match fld w 11 3 with
  | 0 => if fld w 2 9 = 0 then some (.setvl (bits w 20 6) (bits w 14 6) (bits w 0 2)) else none
  | 1 => if fld w 4 7 = 0 ∧ fld w 14 6 = 0 ∧ fld w 25 1 = 0 then
      some (.vcfg (bits w 20 5) (Fmt.ofCode (bits w 0 4)))
    else none
  | 2 => if fld w 5 6 = 0 then some (.vmvg (bits w 20 6) (bits w 14 6) (bits w 0 5)) else none
  | 3 => if fld w 6 5 = 0 ∧ fld w 25 1 = 0 then some (.vins (bits w 20 5) (bits w 14 6) (bits w 0 6)) else none
  | 4 => if fld w 0 11 = 0 ∧ fld w 14 12 = 0 then some .vfree else none
  | _ => none

/-- Major 0x18, VLD (Tables 4.2 and 4.3): the instruction, or none where R76 or R82 makes the word illegal. -/
def decodeVld (w : Nat) : Option Instr :=
  match fld w 7 2 with
  | 0 => some (.vld (bits w 21 5) (bits w 15 6) (bits w 9 6) (bits w 4 3) (Fmt.ofCode (bits w 0 4)))
  | 1 => some (.vlds (bits w 21 5) (bits w 15 6) (bits w 9 6) (bits w 4 3) (Fmt.ofCode (bits w 0 4)))
  | 2 => if fld w 14 1 = 0 then
      some (.vldx (bits w 21 5) (bits w 15 6) (bits w 9 5) (bits w 4 3) (Fmt.ofCode (bits w 0 4)))
    else none
  | 3 => some (.vldff (bits w 21 5) (bits w 15 6) (bits w 9 6) (bits w 4 3) (Fmt.ofCode (bits w 0 4)))
  | _ => none

/-- Major 0x19, VST (Tables 4.2 and 4.3): the instruction, or none where R76 or R82 makes the word illegal. -/
def decodeVst (w : Nat) : Option Instr :=
  match fld w 7 2 with
  | 0 => if fld w 0 3 = 0 then some (.vst (bits w 21 5) (bits w 15 6) (bits w 9 6) (bits w 4 3) (flag w 3)) else none
  | 1 => if fld w 0 3 = 0 then some (.vsts (bits w 21 5) (bits w 15 6) (bits w 9 6) (bits w 4 3) (flag w 3)) else none
  | 2 => if fld w 0 3 = 0 ∧ fld w 14 1 = 0 then
      some (.vstx (bits w 21 5) (bits w 15 6) (bits w 9 5) (bits w 4 3) (flag w 3))
    else none
  | _ => none

/-- Major 0x1A, VMX (Tables 4.2 and 4.3): the instruction, or none where R76 or R82 makes the word illegal. -/
def decodeVmx (w : Nat) : Option Instr :=
  match fld w 6 3 with
  | 0 => if fld w 0 6 = 0 ∧ fld w 23 3 = 0 then some (.vldT (bits w 21 2) (bits w 15 6) (bits w 9 6)) else none
  | 1 => if fld w 0 6 = 0 ∧ fld w 23 3 = 0 then some (.vstT (bits w 21 2) (bits w 15 6) (bits w 9 6)) else none
  | 2 => if fld w 0 2 = 0 ∧ fld w 3 3 = 0 then
      some (.vldR (bits w 21 5) (bits w 15 6) (bits w 9 6) (flag w 2))
    else none
  | 3 => if fld w 0 2 = 0 ∧ fld w 3 3 = 0 then
      some (.vstR (bits w 21 5) (bits w 15 6) (bits w 9 6) (flag w 2))
    else none
  | 4 => if fld w 0 2 = 0 then
      some (.vldAv (bits w 21 5) (bits w 15 6) (bits w 9 6) (Fmt.ofCode (bits w 2 4)))
    else none
  | 5 => if fld w 0 2 = 0 then
      some (.vldAm (bits w 21 5) (bits w 15 6) (bits w 9 6) (Fmt.ofCode (bits w 2 4)))
    else none
  | _ => none

/-- Major 0x1B, VAMO (Tables 4.2 and 4.3): the instruction, or none where R76 or R82 makes the word illegal. -/
def decodeVamo (w : Nat) : Option Instr :=
  match fld w 6 4 with
  | 0 => if fld w 0 1 = 0 then
      some (.vamoAdd (bits w 21 5) (bits w 15 6) (bits w 10 5) (bits w 3 3) (Scope.ofCode (bits w 1 2)))
    else none
  | 1 => if fld w 0 1 = 0 then
      some (.vamoMin (bits w 21 5) (bits w 15 6) (bits w 10 5) (bits w 3 3) (Scope.ofCode (bits w 1 2)))
    else none
  | 2 => if fld w 0 1 = 0 then
      some (.vamoMax (bits w 21 5) (bits w 15 6) (bits w 10 5) (bits w 3 3) (Scope.ofCode (bits w 1 2)))
    else none
  | 3 => if fld w 0 1 = 0 then
      some (.vamoAnd (bits w 21 5) (bits w 15 6) (bits w 10 5) (bits w 3 3) (Scope.ofCode (bits w 1 2)))
    else none
  | 4 => if fld w 0 1 = 0 then
      some (.vamoOr (bits w 21 5) (bits w 15 6) (bits w 10 5) (bits w 3 3) (Scope.ofCode (bits w 1 2)))
    else none
  | 5 => if fld w 0 1 = 0 then
      some (.vamoXor (bits w 21 5) (bits w 15 6) (bits w 10 5) (bits w 3 3) (Scope.ofCode (bits w 1 2)))
    else none
  | 6 => if fld w 0 1 = 0 then
      some (.vamoSwap (bits w 21 5) (bits w 15 6) (bits w 10 5) (bits w 3 3) (Scope.ofCode (bits w 1 2)))
    else none
  | 7 => if fld w 0 1 = 0 then
      some (.vamoFmin (bits w 21 5) (bits w 15 6) (bits w 10 5) (bits w 3 3) (Scope.ofCode (bits w 1 2)))
    else none
  | 8 => if fld w 0 1 = 0 then
      some (.vamoFadd (bits w 21 5) (bits w 15 6) (bits w 10 5) (bits w 3 3) (Scope.ofCode (bits w 1 2)))
    else none
  | _ => none

/-- Major 0x1C, VPRED (Tables 4.2 and 4.3): the instruction, or none where R76 or R82 makes the word illegal. -/
def decodeVpred (w : Nat) : Option Instr :=
  match fld w 3 8 with
  | 0 => if fld w 0 3 = 0 ∧ fld w 20 6 = 0 then some (.pand (bits w 17 3) (bits w 14 3) (bits w 11 3)) else none
  | 1 => if fld w 0 3 = 0 ∧ fld w 20 6 = 0 then some (.por (bits w 17 3) (bits w 14 3) (bits w 11 3)) else none
  | 2 => if fld w 0 3 = 0 ∧ fld w 20 6 = 0 then some (.pxor (bits w 17 3) (bits w 14 3) (bits w 11 3)) else none
  | 3 => if fld w 0 3 = 0 ∧ fld w 20 6 = 0 then some (.pandn (bits w 17 3) (bits w 14 3) (bits w 11 3)) else none
  | 4 => if fld w 0 3 = 0 ∧ fld w 11 3 = 0 ∧ fld w 20 6 = 0 then some (.pnot (bits w 17 3) (bits w 14 3)) else none
  | 5 => if fld w 0 3 = 0 ∧ fld w 11 6 = 0 then some (.pset (bits w 20 6) (bits w 17 3)) else none
  | 6 => if fld w 0 3 = 0 ∧ fld w 17 3 = 0 then some (.pcnt (bits w 20 6) (bits w 14 3) (bits w 11 3)) else none
  | 7 => if fld w 0 3 = 0 ∧ fld w 17 3 = 0 then some (.pffs (bits w 20 6) (bits w 14 3) (bits w 11 3)) else none
  | 8 => if fld w 0 3 = 0 ∧ fld w 20 6 = 0 then some (.pbrk (bits w 17 3) (bits w 14 3) (bits w 11 3)) else none
  | 9 => if fld w 0 3 = 0 ∧ fld w 11 3 = 0 ∧ fld w 20 6 = 0 then some (.pmov (bits w 17 3) (bits w 14 3)) else none
  | _ => none

/-- Major 0x20, MX (Tables 4.2 and 4.3): the instruction, or none where R76 or R82 makes the word illegal. -/
def decodeMx (w : Nat) : Option Instr :=
  match fld w 6 5 with
  | 0 => if fld w 0 6 = 0 then some (.oacc (bits w 24 2) (bits w 19 5) (bits w 14 5) (bits w 11 3)) else none
  | 1 => if fld w 0 6 = 0 then some (.osub (bits w 24 2) (bits w 19 5) (bits w 14 5) (bits w 11 3)) else none
  | 2 => if fld w 0 6 = 0 ∧ fld w 11 8 = 0 ∧ fld w 23 1 = 0 then
      some (.mzero (bits w 24 2) (Fmt.ofCode (bits w 19 4)))
    else none
  | 3 => if fld w 11 8 = 0 then some (.mrd (bits w 24 2) (bits w 19 5) (bits w 0 6)) else none
  | 4 => if fld w 11 8 = 0 then some (.mrdc (bits w 24 2) (bits w 19 5) (bits w 0 6)) else none
  | 5 => if fld w 11 8 = 0 then some (.mwr (bits w 24 2) (bits w 19 5) (bits w 0 6)) else none
  | 6 => if fld w 0 6 = 0 then some (.oaccN (bits w 24 2) (bits w 19 5) (bits w 14 5) (bits w 11 3)) else none
  | _ => none

/-- Major 0x21, CP (Tables 4.2 and 4.3): the instruction, or none where R76 or R82 makes the word illegal. -/
def decodeCp (w : Nat) : Option Instr :=
  match fld w 0 2 with
  | 0 => some (.cpg (bits w 20 6) (bits w 14 6) (bits w 9 5) (bits w 5 4) (bits w 2 3))
  | 1 => if fld w 2 3 = 0 ∧ fld w 9 5 = 0 then some (.cpt (bits w 20 6) (bits w 14 6) (bits w 5 4)) else none
  | 2 => if fld w 2 3 = 0 ∧ fld w 9 5 = 0 then some (.cpl (bits w 20 6) (bits w 14 6) (bits w 5 4)) else none
  | _ => none

/-- `cpmask`, the one instruction of major 0x22 that R144 pushes into the vector queue. -/
def decodeCpmask (w : Nat) : Option Instr :=
  if fld w 11 3 = 1 ∧ fld w 4 7 = 0 ∧ fld w 14 6 = 0 ∧ fld w 23 3 = 0 then some (.cpmask (bits w 20 3) (bits w 0 4)) else none

/-- Major 0x22, CPC (Tables 4.2 and 4.3): the instruction, or none where R76 or R82 makes the word illegal. -/
noncomputable def decodeCpc (w : Nat) : Option Instr :=
  match fld w 11 3 with
  | 0 => if fld w 4 7 = 0 ∧ fld w 14 6 = 0 then some (.cpavail (bits w 20 6) (bits w 0 4)) else none
  | 1 => decodeCpmask w
  | 2 => if fld w 4 7 = 0 then some (.cpwait (bits w 20 6) (bits w 14 6) (bits w 0 4)) else none
  | 3 => if fld w 5 6 = 0 ∧ fld w 20 6 = 0 then some (.bxInit (bits w 14 6) (flag w 4) (bits w 0 4)) else none
  | 4 => if fld w 0 11 = 0 then some (.bxExp (bits w 20 6) (bits w 14 6)) else none
  | 5 => if fld w 0 11 = 0 then some (.bxWait (bits w 20 6) (bits w 14 6)) else none
  | 6 => if fld w 4 7 = 0 ∧ fld w 14 12 = 0 then some (.cpsel (bits w 0 4)) else none
  | _ => none

/-- A word of an instruction that R144 pushes into the vector queue: majors 0x10 to 0x1C, 0x20, 0x21, and `cpmask`. -/
def decodeQueued (w : Nat) : Option Instr :=
  match fld w 26 6 with
  | 0x10 => decodeVop w
  | 0x11 => decodeVopx w
  | 0x12 => decodeVopi w
  | 0x13 => decodeVcmp w
  | 0x14 => decodeVred w
  | 0x15 => decodeVperm w
  | 0x16 => decodeVcvt w
  | 0x17 => decodeVset w
  | 0x18 => decodeVld w
  | 0x19 => decodeVst w
  | 0x1A => decodeVmx w
  | 0x1B => decodeVamo w
  | 0x1C => decodeVpred w
  | 0x20 => decodeMx w
  | 0x21 => decodeCp w
  | 0x22 => decodeCpmask w
  | _ => none

/-- A word whose major is not 0x3E or 0x3F: the instruction its fields spell, before the operand checks of
`Instr.wellFormed` (Table 4.2). -/
noncomputable def decodeFields (w : Nat) : Option Instr :=
  match fld w 26 6 with
  | 0x01 => decodeOp w
  | 0x02 => decodeOpi w
  | 0x03 => decodeLhi w
  | 0x04 => decodeBrc w
  | 0x05 => decodeBrz w
  | 0x06 => decodeJal w
  | 0x07 => decodeJalr w
  | 0x08 => decodeLd w
  | 0x09 => decodeSt w
  | 0x0A => decodeLdstO w
  | 0x0B => decodeAmo w
  | 0x0C => decodeFop w
  | 0x0D => decodeSys w
  | 0x0E => decodeSync w
  | 0x10 => decodeVop w
  | 0x11 => decodeVopx w
  | 0x12 => decodeVopi w
  | 0x13 => decodeVcmp w
  | 0x14 => decodeVred w
  | 0x15 => decodeVperm w
  | 0x16 => decodeVcvt w
  | 0x17 => decodeVset w
  | 0x18 => decodeVld w
  | 0x19 => decodeVst w
  | 0x1A => decodeVmx w
  | 0x1B => decodeVamo w
  | 0x1C => decodeVpred w
  | 0x20 => decodeMx w
  | 0x21 => decodeCp w
  | 0x22 => decodeCpc w
  | _ => none

/-- A long form (Table 4.6): the two words, the second of which has 0x3F in bits [31:26] (R71). -/
def decodePair (w1 w2 : Nat) : Option Instr :=
  if fld w2 26 6 = 0x3F then
    match fld w1 22 4 with
    | 0 => some (.liL (bits w1 16 6) (bits w1 0 16 ++ bits w2 0 26))
    | 1 => some (.jalL (bits w1 16 6) (bits w1 0 16 ++ bits w2 0 26))
    | 2 => some (.addiL (bits w1 16 6) (bits w1 10 6) (bits w1 0 10 ++ bits w2 0 26))
    | _ => none
  else none

/-- Whether a first word begins a long form (major 0x3E, R71). -/
def isLong (w : Nat) : Bool := fld w 26 6 == 0x3E

/-- A legal instruction, its operands checked (R82). -/
def checked (i : Option Instr) : Option Instr := i.filter Instr.wellFormed

/-- Decode one word that does not begin a long form (R72, R75, R76, R82). -/
noncomputable def decodeWord (w : BitVec 32) : Except DecodeErr Instr :=
  if fld w.toNat 26 6 = 0x3F then .error (.continuation w)
  else match checked (decodeFields w.toNat) with
    | some i => .ok i
    | none => .error (.illegal w)

/-- Decode a long form (R71). -/
def decodeLong (w1 w2 : BitVec 32) : Except DecodeErr Instr :=
  match checked (decodePair w1.toNat w2.toNat) with
  | some i => .ok i
  | none => .error (.illegalPair w1 w2)

/-- The 32-bit word at the head of a byte list, little-endian (R3, R68), and the rest. -/
def takeWord : List Byte → Option (BitVec 32 × List Byte)
  | b0 :: b1 :: b2 :: b3 :: rest => some (b3 ++ b2 ++ b1 ++ b0, rest)
  | _ => none

/-- Decode the instruction at the head of a byte list: the instruction and the bytes after it. -/
noncomputable def decodeBytes (l : List Byte) : Except DecodeErr (Instr × List Byte) :=
  match takeWord l with
  | none => .error .truncated
  | some (w1, r1) =>
    if isLong w1.toNat then
      match takeWord r1 with
      | none => .error .truncated
      | some (w2, r2) => (decodeLong w1 w2).map (fun i => (i, r2))
    else (decodeWord w1).map (fun i => (i, r1))

/-- How many bytes an instruction occupies (R68): 8 for a long form, 4 otherwise. -/
def Instr.size : Instr → Nat
  | .liL _ _ | .jalL _ _ | .addiL _ _ _ => 8
  | _ => 4

/-- The low `n` bytes of `w`, lowest first (R3). -/
def bytesLE : Nat → Nat → List Byte
  | 0, _ => []
  | n + 1, w => BitVec.ofNat 8 w :: bytesLE n (w / 256)

/-- A word: its fixed bits and 1 field, each with its lowest bit. -/
def w1 (m x1 l1 : Nat) : Nat := m + x1 * 2 ^ l1

/-- A word: its fixed bits and 2 fields, each with its lowest bit. -/
def w2 (m x1 l1 x2 l2 : Nat) : Nat := m + x1 * 2 ^ l1 + x2 * 2 ^ l2

/-- A word: its fixed bits and 3 fields, each with its lowest bit. -/
def w3 (m x1 l1 x2 l2 x3 l3 : Nat) : Nat := m + x1 * 2 ^ l1 + x2 * 2 ^ l2 + x3 * 2 ^ l3

/-- A word: its fixed bits and 4 fields, each with its lowest bit. -/
def w4 (m x1 l1 x2 l2 x3 l3 x4 l4 : Nat) : Nat := m + x1 * 2 ^ l1 + x2 * 2 ^ l2 + x3 * 2 ^ l3 + x4 * 2 ^ l4

/-- A word: its fixed bits and 5 fields, each with its lowest bit. -/
def w5 (m x1 l1 x2 l2 x3 l3 x4 l4 x5 l5 : Nat) : Nat := m + x1 * 2 ^ l1 + x2 * 2 ^ l2 + x3 * 2 ^ l3 + x4 * 2 ^ l4 + x5 * 2 ^ l5

/-- A word: its fixed bits and 6 fields, each with its lowest bit. -/
def w6 (m x1 l1 x2 l2 x3 l3 x4 l4 x5 l5 x6 l6 : Nat) : Nat := m + x1 * 2 ^ l1 + x2 * 2 ^ l2 + x3 * 2 ^ l3 + x4 * 2 ^ l4 + x5 * 2 ^ l5 + x6 * 2 ^ l6

/-- A word: its fixed bits and 7 fields, each with its lowest bit. -/
def w7 (m x1 l1 x2 l2 x3 l3 x4 l4 x5 l5 x6 l6 x7 l7 : Nat) : Nat := m + x1 * 2 ^ l1 + x2 * 2 ^ l2 + x3 * 2 ^ l3 + x4 * 2 ^ l4 + x5 * 2 ^ l5 + x6 * 2 ^ l6 + x7 * 2 ^ l7

/-- A word: its fixed bits and 8 fields, each with its lowest bit. -/
def w8 (m x1 l1 x2 l2 x3 l3 x4 l4 x5 l5 x6 l6 x7 l7 x8 l8 : Nat) : Nat := m + x1 * 2 ^ l1 + x2 * 2 ^ l2 + x3 * 2 ^ l3 + x4 * 2 ^ l4 + x5 * 2 ^ l5 + x6 * 2 ^ l6 + x7 * 2 ^ l7 + x8 * 2 ^ l8

/-- The word of a one-word instruction (Tables 4.1 to 4.5); 0 where the instruction has no single word. -/
def encodeWord : Instr → Nat
  | .add d a b => w3 0x04000000 d.toNat 20 a.toNat 14 b.toNat 8
  | .sub d a b => w3 0x04000001 d.toNat 20 a.toNat 14 b.toNat 8
  | .and d a b => w3 0x04000002 d.toNat 20 a.toNat 14 b.toNat 8
  | .or d a b => w3 0x04000003 d.toNat 20 a.toNat 14 b.toNat 8
  | .xor d a b => w3 0x04000004 d.toNat 20 a.toNat 14 b.toNat 8
  | .andn d a b => w3 0x04000005 d.toNat 20 a.toNat 14 b.toNat 8
  | .sll d a b => w3 0x04000006 d.toNat 20 a.toNat 14 b.toNat 8
  | .srl d a b => w3 0x04000007 d.toNat 20 a.toNat 14 b.toNat 8
  | .sra d a b => w3 0x04000008 d.toNat 20 a.toNat 14 b.toNat 8
  | .rotr d a b => w3 0x04000009 d.toNat 20 a.toNat 14 b.toNat 8
  | .slt d a b => w3 0x0400000A d.toNat 20 a.toNat 14 b.toNat 8
  | .sltu d a b => w3 0x0400000B d.toNat 20 a.toNat 14 b.toNat 8
  | .min d a b => w3 0x0400000C d.toNat 20 a.toNat 14 b.toNat 8
  | .max d a b => w3 0x0400000D d.toNat 20 a.toNat 14 b.toNat 8
  | .minu d a b => w3 0x0400000E d.toNat 20 a.toNat 14 b.toNat 8
  | .maxu d a b => w3 0x0400000F d.toNat 20 a.toNat 14 b.toNat 8
  | .mul d a b => w3 0x04000010 d.toNat 20 a.toNat 14 b.toNat 8
  | .mulh d a b => w3 0x04000011 d.toNat 20 a.toNat 14 b.toNat 8
  | .mulhu d a b => w3 0x04000012 d.toNat 20 a.toNat 14 b.toNat 8
  | .div d a b => w3 0x04000013 d.toNat 20 a.toNat 14 b.toNat 8
  | .divu d a b => w3 0x04000014 d.toNat 20 a.toNat 14 b.toNat 8
  | .rem d a b => w3 0x04000015 d.toNat 20 a.toNat 14 b.toNat 8
  | .remu d a b => w3 0x04000016 d.toNat 20 a.toNat 14 b.toNat 8
  | .addw d a b => w3 0x04000017 d.toNat 20 a.toNat 14 b.toNat 8
  | .subw d a b => w3 0x04000018 d.toNat 20 a.toNat 14 b.toNat 8
  | .mulw d a b => w3 0x04000019 d.toNat 20 a.toNat 14 b.toNat 8
  | .clz d a => w2 0x0400001A d.toNat 20 a.toNat 14
  | .ctz d a => w2 0x0400001B d.toNat 20 a.toNat 14
  | .popc d a => w2 0x0400001C d.toNat 20 a.toNat 14
  | .bswap d a => w2 0x0400001D d.toNat 20 a.toNat 14
  | .sxb d a => w2 0x0400001E d.toNat 20 a.toNat 14
  | .sxh d a => w2 0x0400001F d.toNat 20 a.toNat 14
  | .sxw d a => w2 0x04000020 d.toNat 20 a.toNat 14
  | .zxw d a => w2 0x04000021 d.toNat 20 a.toNat 14
  | .addi d a i => w3 0x08000000 d.toNat 20 a.toNat 14 i.toNat 0
  | .andi d a i => w3 0x08000800 d.toNat 20 a.toNat 14 i.toNat 0
  | .ori d a i => w3 0x08001000 d.toNat 20 a.toNat 14 i.toNat 0
  | .xori d a i => w3 0x08001800 d.toNat 20 a.toNat 14 i.toNat 0
  | .slli d a i => w3 0x08002000 d.toNat 20 a.toNat 14 i.toNat 0
  | .srli d a i => w3 0x08002800 d.toNat 20 a.toNat 14 i.toNat 0
  | .srai d a i => w3 0x08003000 d.toNat 20 a.toNat 14 i.toNat 0
  | .slti d a i => w3 0x08003800 d.toNat 20 a.toNat 14 i.toNat 0
  | .lhi d i => w2 0x0C000000 d.toNat 20 i.toNat 0
  | .beq a b o => w3 0x10000000 a.toNat 16 b.toNat 10 o.toNat 0
  | .bne a b o => w3 0x10400000 a.toNat 16 b.toNat 10 o.toNat 0
  | .blt a b o => w3 0x10800000 a.toNat 16 b.toNat 10 o.toNat 0
  | .bge a b o => w3 0x10C00000 a.toNat 16 b.toNat 10 o.toNat 0
  | .bltu a b o => w3 0x11000000 a.toNat 16 b.toNat 10 o.toNat 0
  | .bgeu a b o => w3 0x11400000 a.toNat 16 b.toNat 10 o.toNat 0
  | .beqz a o => w2 0x14000000 a.toNat 17 o.toNat 0
  | .bnez a o => w2 0x14800000 a.toNat 17 o.toNat 0
  | .bltz a o => w2 0x15000000 a.toNat 17 o.toNat 0
  | .bgez a o => w2 0x15800000 a.toNat 17 o.toNat 0
  | .bgtz a o => w2 0x16000000 a.toNat 17 o.toNat 0
  | .blez a o => w2 0x16800000 a.toNat 17 o.toNat 0
  | .jal d o => w2 0x18000000 d.toNat 20 o.toNat 0
  | .jalr d a i => w3 0x1C000000 d.toNat 20 a.toNat 14 i.toNat 0
  | .ldB g b i => w3 0x20000000 g.toNat 20 b.toNat 14 i.toNat 0
  | .ldH g b i => w3 0x20000800 g.toNat 20 b.toNat 14 i.toNat 0
  | .ldW g b i => w3 0x20001000 g.toNat 20 b.toNat 14 i.toNat 0
  | .ldD g b i => w3 0x20001800 g.toNat 20 b.toNat 14 i.toNat 0
  | .ldBu g b i => w3 0x20002000 g.toNat 20 b.toNat 14 i.toNat 0
  | .ldHu g b i => w3 0x20002800 g.toNat 20 b.toNat 14 i.toNat 0
  | .ldWu g b i => w3 0x20003000 g.toNat 20 b.toNat 14 i.toNat 0
  | .stB g b i => w3 0x24000000 g.toNat 20 b.toNat 14 i.toNat 0
  | .stH g b i => w3 0x24000800 g.toNat 20 b.toNat 14 i.toNat 0
  | .stW g b i => w3 0x24001000 g.toNat 20 b.toNat 14 i.toNat 0
  | .stD g b i => w3 0x24001800 g.toNat 20 b.toNat 14 i.toNat 0
  | .ldAcqW g b s => w3 0x28000000 g.toNat 20 b.toNat 14 s.code.toNat 12
  | .ldAcqD g b s => w3 0x28000400 g.toNat 20 b.toNat 14 s.code.toNat 12
  | .stRelW g b s => w3 0x28000800 g.toNat 20 b.toNat 14 s.code.toNat 12
  | .stRelD g b s => w3 0x28000C00 g.toNat 20 b.toNat 14 s.code.toNat 12
  | .amoAdd d a b o s => w5 0x2C000000 d.toNat 20 a.toNat 14 b.toNat 8 o.code.toNat 6 s.code.toNat 4
  | .amoAnd d a b o s => w5 0x2C000001 d.toNat 20 a.toNat 14 b.toNat 8 o.code.toNat 6 s.code.toNat 4
  | .amoOr d a b o s => w5 0x2C000002 d.toNat 20 a.toNat 14 b.toNat 8 o.code.toNat 6 s.code.toNat 4
  | .amoXor d a b o s => w5 0x2C000003 d.toNat 20 a.toNat 14 b.toNat 8 o.code.toNat 6 s.code.toNat 4
  | .amoMin d a b o s => w5 0x2C000004 d.toNat 20 a.toNat 14 b.toNat 8 o.code.toNat 6 s.code.toNat 4
  | .amoMax d a b o s => w5 0x2C000005 d.toNat 20 a.toNat 14 b.toNat 8 o.code.toNat 6 s.code.toNat 4
  | .amoMinu d a b o s => w5 0x2C000006 d.toNat 20 a.toNat 14 b.toNat 8 o.code.toNat 6 s.code.toNat 4
  | .amoMaxu d a b o s => w5 0x2C000007 d.toNat 20 a.toNat 14 b.toNat 8 o.code.toNat 6 s.code.toNat 4
  | .amoSwap d a b o s => w5 0x2C000008 d.toNat 20 a.toNat 14 b.toNat 8 o.code.toNat 6 s.code.toNat 4
  | .amoCas d a b o s => w5 0x2C000009 d.toNat 20 a.toNat 14 b.toNat 8 o.code.toNat 6 s.code.toNat 4
  | .amoIncb d a b o s => w5 0x2C00000A d.toNat 20 a.toNat 14 b.toNat 8 o.code.toNat 6 s.code.toNat 4
  | .amoFmin d a b o s => w5 0x2C00000B d.toNat 20 a.toNat 14 b.toNat 8 o.code.toNat 6 s.code.toNat 4
  | .amoFadd d a b o s => w5 0x2C00000C d.toNat 20 a.toNat 14 b.toNat 8 o.code.toNat 6 s.code.toNat 4
  | .faddS d a b => w3 0x30000000 d.toNat 20 a.toNat 14 b.toNat 8
  | .faddD d a b => w3 0x30000001 d.toNat 20 a.toNat 14 b.toNat 8
  | .fsubS d a b => w3 0x30000002 d.toNat 20 a.toNat 14 b.toNat 8
  | .fsubD d a b => w3 0x30000003 d.toNat 20 a.toNat 14 b.toNat 8
  | .fmulS d a b => w3 0x30000004 d.toNat 20 a.toNat 14 b.toNat 8
  | .fmulD d a b => w3 0x30000005 d.toNat 20 a.toNat 14 b.toNat 8
  | .fdivS d a b => w3 0x30000006 d.toNat 20 a.toNat 14 b.toNat 8
  | .fdivD d a b => w3 0x30000007 d.toNat 20 a.toNat 14 b.toNat 8
  | .fsqrtS d a => w2 0x30000008 d.toNat 20 a.toNat 14
  | .fsqrtD d a => w2 0x30000009 d.toNat 20 a.toNat 14
  | .fminS d a b => w3 0x3000000A d.toNat 20 a.toNat 14 b.toNat 8
  | .fminD d a b => w3 0x3000000B d.toNat 20 a.toNat 14 b.toNat 8
  | .fmaxS d a b => w3 0x3000000C d.toNat 20 a.toNat 14 b.toNat 8
  | .fmaxD d a b => w3 0x3000000D d.toNat 20 a.toNat 14 b.toNat 8
  | .fmacS d a b => w3 0x3000000E d.toNat 20 a.toNat 14 b.toNat 8
  | .fmacD d a b => w3 0x3000000F d.toNat 20 a.toNat 14 b.toNat 8
  | .fnegS d a => w2 0x30000010 d.toNat 20 a.toNat 14
  | .fnegD d a => w2 0x30000011 d.toNat 20 a.toNat 14
  | .fabsS d a => w2 0x30000012 d.toNat 20 a.toNat 14
  | .fabsD d a => w2 0x30000013 d.toNat 20 a.toNat 14
  | .feqS d a b => w3 0x30000014 d.toNat 20 a.toNat 14 b.toNat 8
  | .feqD d a b => w3 0x30000015 d.toNat 20 a.toNat 14 b.toNat 8
  | .fltS d a b => w3 0x30000016 d.toNat 20 a.toNat 14 b.toNat 8
  | .fltD d a b => w3 0x30000017 d.toNat 20 a.toNat 14 b.toNat 8
  | .fleS d a b => w3 0x30000018 d.toNat 20 a.toNat 14 b.toNat 8
  | .fleD d a b => w3 0x30000019 d.toNat 20 a.toNat 14 b.toNat 8
  | .fclassS d a => w2 0x3000001A d.toNat 20 a.toNat 14
  | .fclassD d a => w2 0x3000001B d.toNat 20 a.toNat 14
  | .fcvtSD d a => w2 0x3000001C d.toNat 20 a.toNat 14
  | .fcvtDS d a => w2 0x3000001D d.toNat 20 a.toNat 14
  | .fcvtLS d a => w2 0x3000001E d.toNat 20 a.toNat 14
  | .fcvtLD d a => w2 0x3000001F d.toNat 20 a.toNat 14
  | .fcvtSL d a => w2 0x30000020 d.toNat 20 a.toNat 14
  | .fcvtDL d a => w2 0x30000021 d.toNat 20 a.toNat 14
  | .sysrd d i => w2 0x34000000 d.toNat 20 i.toNat 0
  | .syswr a i => w2 0x34000800 a.toNat 14 i.toNat 0
  | .trap i => w1 0x34001000 i.toNat 0
  | .done => 0x34001800
  | .yield => 0x34002000
  | .eret => 0x34002800
  | .launch d a i => w3 0x34003000 d.toNat 20 a.toNat 14 i.toNat 0
  | .replay d a => w2 0x34003800 d.toNat 20 a.toNat 14
  | .fence o s => w2 0x38000000 o.toNat 2 s.code.toNat 0
  | .barArv d n s => w3 0x38000800 d.toNat 20 n.toNat 2 s.code.toNat 0
  | .barWt d a n s => w4 0x38001000 d.toNat 20 a.toNat 14 n.toNat 2 s.code.toNat 0
  | .barSy d n s => w3 0x38001800 d.toNat 20 n.toNat 2 s.code.toNat 0
  | .stripTake d n => w2 0x38002000 d.toNat 20 n.toNat 0
  | .stripDeclare d a n => w3 0x38002008 d.toNat 20 a.toNat 14 n.toNat 0
  | .vsync k => w1 0x38002800 k.toNat 0
  | .inval n a i => w3 0x38003000 n.toNat 20 a.toNat 14 i.toNat 0
  | .ptsync a k => w2 0x38003800 a.toNat 14 k.toNat 0
  | .vadd d a b p z => w5 0x40000000 d.toNat 21 a.toNat 16 b.toNat 11 p.toNat 8 z.toNat 7
  | .vsub d a b p z => w5 0x40000001 d.toNat 21 a.toNat 16 b.toNat 11 p.toNat 8 z.toNat 7
  | .vmul d a b p z => w5 0x40000002 d.toNat 21 a.toNat 16 b.toNat 11 p.toNat 8 z.toNat 7
  | .vdiv d a b p z => w5 0x40000003 d.toNat 21 a.toNat 16 b.toNat 11 p.toNat 8 z.toNat 7
  | .vmin d a b p z => w5 0x40000004 d.toNat 21 a.toNat 16 b.toNat 11 p.toNat 8 z.toNat 7
  | .vmax d a b p z => w5 0x40000005 d.toNat 21 a.toNat 16 b.toNat 11 p.toNat 8 z.toNat 7
  | .vfma d a b p z => w5 0x40000006 d.toNat 21 a.toNat 16 b.toNat 11 p.toNat 8 z.toNat 7
  | .vfms d a b p z => w5 0x40000007 d.toNat 21 a.toNat 16 b.toNat 11 p.toNat 8 z.toNat 7
  | .vnfma d a b p z => w5 0x40000008 d.toNat 21 a.toNat 16 b.toNat 11 p.toNat 8 z.toNat 7
  | .vabs d a p z => w4 0x40000009 d.toNat 21 a.toNat 16 p.toNat 8 z.toNat 7
  | .vneg d a p z => w4 0x4000000A d.toNat 21 a.toNat 16 p.toNat 8 z.toNat 7
  | .vsqrt d a p z => w4 0x4000000B d.toNat 21 a.toNat 16 p.toNat 8 z.toNat 7
  | .vand d a b p z => w5 0x4000000C d.toNat 21 a.toNat 16 b.toNat 11 p.toNat 8 z.toNat 7
  | .vor d a b p z => w5 0x4000000D d.toNat 21 a.toNat 16 b.toNat 11 p.toNat 8 z.toNat 7
  | .vxor d a b p z => w5 0x4000000E d.toNat 21 a.toNat 16 b.toNat 11 p.toNat 8 z.toNat 7
  | .vsll d a b p z => w5 0x4000000F d.toNat 21 a.toNat 16 b.toNat 11 p.toNat 8 z.toNat 7
  | .vsrl d a b p z => w5 0x40000010 d.toNat 21 a.toNat 16 b.toNat 11 p.toNat 8 z.toNat 7
  | .vsra d a b p z => w5 0x40000011 d.toNat 21 a.toNat 16 b.toNat 11 p.toNat 8 z.toNat 7
  | .vmulh d a b p z => w5 0x40000012 d.toNat 21 a.toNat 16 b.toNat 11 p.toNat 8 z.toNat 7
  | .vsadd d a b p z => w5 0x40000013 d.toNat 21 a.toNat 16 b.toNat 11 p.toNat 8 z.toNat 7
  | .vssub d a b p z => w5 0x40000014 d.toNat 21 a.toNat 16 b.toNat 11 p.toNat 8 z.toNat 7
  | .vmov d a p z => w4 0x40000015 d.toNat 21 a.toNat 16 p.toNat 8 z.toNat 7
  | .vsel d a b p => w4 0x40000016 d.toNat 21 a.toNat 16 b.toNat 11 p.toNat 8
  | .vexp2 d a p z => w4 0x40000017 d.toNat 21 a.toNat 16 p.toNat 8 z.toNat 7
  | .vlog2 d a p z => w4 0x40000018 d.toNat 21 a.toNat 16 p.toNat 8 z.toNat 7
  | .vrcp d a p z => w4 0x40000019 d.toNat 21 a.toNat 16 p.toNat 8 z.toNat 7
  | .vrsqrt d a p z => w4 0x4000001A d.toNat 21 a.toNat 16 p.toNat 8 z.toNat 7
  | .vclz d a p z => w4 0x4000001B d.toNat 21 a.toNat 16 p.toNat 8 z.toNat 7
  | .vpopc d a p z => w4 0x4000001C d.toNat 21 a.toNat 16 p.toNat 8 z.toNat 7
  | .vaddVx d a g p z => w5 0x44000000 d.toNat 21 a.toNat 16 g.toNat 10 p.toNat 7 z.toNat 6
  | .vsubVx d a g p z => w5 0x44000001 d.toNat 21 a.toNat 16 g.toNat 10 p.toNat 7 z.toNat 6
  | .vmulVx d a g p z => w5 0x44000002 d.toNat 21 a.toNat 16 g.toNat 10 p.toNat 7 z.toNat 6
  | .vdivVx d a g p z => w5 0x44000003 d.toNat 21 a.toNat 16 g.toNat 10 p.toNat 7 z.toNat 6
  | .vminVx d a g p z => w5 0x44000004 d.toNat 21 a.toNat 16 g.toNat 10 p.toNat 7 z.toNat 6
  | .vmaxVx d a g p z => w5 0x44000005 d.toNat 21 a.toNat 16 g.toNat 10 p.toNat 7 z.toNat 6
  | .vfmaVx d a g p z => w5 0x44000006 d.toNat 21 a.toNat 16 g.toNat 10 p.toNat 7 z.toNat 6
  | .vfmsVx d a g p z => w5 0x44000007 d.toNat 21 a.toNat 16 g.toNat 10 p.toNat 7 z.toNat 6
  | .vnfmaVx d a g p z => w5 0x44000008 d.toNat 21 a.toNat 16 g.toNat 10 p.toNat 7 z.toNat 6
  | .vandVx d a g p z => w5 0x4400000C d.toNat 21 a.toNat 16 g.toNat 10 p.toNat 7 z.toNat 6
  | .vorVx d a g p z => w5 0x4400000D d.toNat 21 a.toNat 16 g.toNat 10 p.toNat 7 z.toNat 6
  | .vxorVx d a g p z => w5 0x4400000E d.toNat 21 a.toNat 16 g.toNat 10 p.toNat 7 z.toNat 6
  | .vsllVx d a g p z => w5 0x4400000F d.toNat 21 a.toNat 16 g.toNat 10 p.toNat 7 z.toNat 6
  | .vsrlVx d a g p z => w5 0x44000010 d.toNat 21 a.toNat 16 g.toNat 10 p.toNat 7 z.toNat 6
  | .vsraVx d a g p z => w5 0x44000011 d.toNat 21 a.toNat 16 g.toNat 10 p.toNat 7 z.toNat 6
  | .vmulhVx d a g p z => w5 0x44000012 d.toNat 21 a.toNat 16 g.toNat 10 p.toNat 7 z.toNat 6
  | .vsaddVx d a g p z => w5 0x44000013 d.toNat 21 a.toNat 16 g.toNat 10 p.toNat 7 z.toNat 6
  | .vssubVx d a g p z => w5 0x44000014 d.toNat 21 a.toNat 16 g.toNat 10 p.toNat 7 z.toNat 6
  | .vselVx d a g p => w4 0x44000016 d.toNat 21 a.toNat 16 g.toNat 10 p.toNat 7
  | .vbcast d g p z => w4 0x4400001D d.toNat 21 g.toNat 10 p.toNat 7 z.toNat 6
  | .vaddi d a i p z => w5 0x48000000 d.toNat 21 a.toNat 16 i.toNat 8 p.toNat 5 z.toNat 4
  | .vslli d a i p z => w5 0x48000001 d.toNat 21 a.toNat 16 i.toNat 8 p.toNat 5 z.toNat 4
  | .vsrli d a i p z => w5 0x48000002 d.toNat 21 a.toNat 16 i.toNat 8 p.toNat 5 z.toNat 4
  | .vsrai d a i p z => w5 0x48000003 d.toNat 21 a.toNat 16 i.toNat 8 p.toNat 5 z.toNat 4
  | .vandi d a i p z => w5 0x48000004 d.toNat 21 a.toNat 16 i.toNat 8 p.toNat 5 z.toNat 4
  | .vori d a i p z => w5 0x48000005 d.toNat 21 a.toNat 16 i.toNat 8 p.toNat 5 z.toNat 4
  | .vxori d a i p z => w5 0x48000006 d.toNat 21 a.toNat 16 i.toNat 8 p.toNat 5 z.toNat 4
  | .vcmpeq d a b p z => w5 0x4C000000 d.toNat 21 a.toNat 16 b.toNat 11 p.toNat 8 z.toNat 7
  | .vcmpne d a b p z => w5 0x4C000001 d.toNat 21 a.toNat 16 b.toNat 11 p.toNat 8 z.toNat 7
  | .vcmplt d a b p z => w5 0x4C000002 d.toNat 21 a.toNat 16 b.toNat 11 p.toNat 8 z.toNat 7
  | .vcmple d a b p z => w5 0x4C000003 d.toNat 21 a.toNat 16 b.toNat 11 p.toNat 8 z.toNat 7
  | .vcmpgt d a b p z => w5 0x4C000004 d.toNat 21 a.toNat 16 b.toNat 11 p.toNat 8 z.toNat 7
  | .vcmpge d a b p z => w5 0x4C000005 d.toNat 21 a.toNat 16 b.toNat 11 p.toNat 8 z.toNat 7
  | .vcmpuo d a b p z => w5 0x4C000006 d.toNat 21 a.toNat 16 b.toNat 11 p.toNat 8 z.toNat 7
  | .vcmpcls d a b p z => w5 0x4C000007 d.toNat 21 a.toNat 16 b.toNat 11 p.toNat 8 z.toNat 7
  | .vcmpeqVx d a g p z => w5 0x4C000008 d.toNat 21 a.toNat 16 g.toNat 10 p.toNat 7 z.toNat 6
  | .vcmpneVx d a g p z => w5 0x4C000009 d.toNat 21 a.toNat 16 g.toNat 10 p.toNat 7 z.toNat 6
  | .vcmpltVx d a g p z => w5 0x4C00000A d.toNat 21 a.toNat 16 g.toNat 10 p.toNat 7 z.toNat 6
  | .vcmpleVx d a g p z => w5 0x4C00000B d.toNat 21 a.toNat 16 g.toNat 10 p.toNat 7 z.toNat 6
  | .vcmpgtVx d a g p z => w5 0x4C00000C d.toNat 21 a.toNat 16 g.toNat 10 p.toNat 7 z.toNat 6
  | .vcmpgeVx d a g p z => w5 0x4C00000D d.toNat 21 a.toNat 16 g.toNat 10 p.toNat 7 z.toNat 6
  | .vcmpuoVx d a g p z => w5 0x4C00000E d.toNat 21 a.toNat 16 g.toNat 10 p.toNat 7 z.toNat 6
  | .vcmpclsVx d a g p z => w5 0x4C00000F d.toNat 21 a.toNat 16 g.toNat 10 p.toNat 7 z.toNat 6
  | .vredsum d a p => w3 0x50000000 d.toNat 21 a.toNat 16 p.toNat 8
  | .vredosum d a p => w3 0x50000001 d.toNat 21 a.toNat 16 p.toNat 8
  | .vredmin d a p => w3 0x50000002 d.toNat 21 a.toNat 16 p.toNat 8
  | .vredmax d a p => w3 0x50000003 d.toNat 21 a.toNat 16 p.toNat 8
  | .vredand d a p => w3 0x50000004 d.toNat 21 a.toNat 16 p.toNat 8
  | .vredor d a p => w3 0x50000005 d.toNat 21 a.toNat 16 p.toNat 8
  | .vredxor d a p => w3 0x50000006 d.toNat 21 a.toNat 16 p.toNat 8
  | .vredsumW d a p => w3 0x50000007 d.toNat 21 a.toNat 16 p.toNat 8
  | .vslideup d a g p z => w5 0x54000000 d.toNat 21 a.toNat 16 g.toNat 10 p.toNat 7 z.toNat 6
  | .vslidedn d a g p z => w5 0x54000001 d.toNat 21 a.toNat 16 g.toNat 10 p.toNat 7 z.toNat 6
  | .vrgather d a b p z => w5 0x54000002 d.toNat 21 a.toNat 16 b.toNat 11 p.toNat 8 z.toNat 7
  | .vcompress d a p => w3 0x54000003 d.toNat 21 a.toNat 16 p.toNat 8
  | .vexpand d a p z => w4 0x54000004 d.toNat 21 a.toNat 16 p.toNat 8 z.toNat 7
  | .viota d p z => w3 0x54000005 d.toNat 21 p.toNat 8 z.toNat 7
  | .vzip d a b p z => w5 0x54000006 d.toNat 21 a.toNat 16 b.toNat 11 p.toNat 8 z.toNat 7
  | .vunzip d a b p z => w5 0x54000007 d.toNat 21 a.toNat 16 b.toNat 11 p.toNat 8 z.toNat 7
  | .vrev d a p z => w4 0x54000008 d.toNat 21 a.toNat 16 p.toNat 8 z.toNat 7
  | .vcvt d a t p z k s r => w8 0x58000000 d.toNat 21 a.toNat 16 t.code.toNat 11 p.toNat 8 z.toNat 7 k.toNat 3 s.toNat 2 r.toNat 0
  | .vcvtBits d a t p z => w5 0x58000020 d.toNat 21 a.toNat 16 t.code.toNat 11 p.toNat 8 z.toNat 7
  | .setvl d a k => w3 0x5C000000 d.toNat 20 a.toNat 14 k.toNat 0
  | .vcfg d f => w2 0x5C000800 d.toNat 20 f.code.toNat 0
  | .vmvg d i v => w3 0x5C001000 d.toNat 20 i.toNat 14 v.toNat 0
  | .vins d a i => w3 0x5C001800 d.toNat 20 a.toNat 14 i.toNat 0
  | .vfree => 0x5C002000
  | .vld d b x p f => w5 0x60000000 d.toNat 21 b.toNat 15 x.toNat 9 p.toNat 4 f.code.toNat 0
  | .vlds d b x p f => w5 0x60000080 d.toNat 21 b.toNat 15 x.toNat 9 p.toNat 4 f.code.toNat 0
  | .vldx d b x p f => w5 0x60000100 d.toNat 21 b.toNat 15 x.toNat 9 p.toNat 4 f.code.toNat 0
  | .vldff d b x p f => w5 0x60000180 d.toNat 21 b.toNat 15 x.toNat 9 p.toNat 4 f.code.toNat 0
  | .vst s b x p n => w5 0x64000000 s.toNat 21 b.toNat 15 x.toNat 9 p.toNat 4 n.toNat 3
  | .vsts s b x p n => w5 0x64000080 s.toNat 21 b.toNat 15 x.toNat 9 p.toNat 4 n.toNat 3
  | .vstx s b x p n => w5 0x64000100 s.toNat 21 b.toNat 15 x.toNat 9 p.toNat 4 n.toNat 3
  | .vldT t b x => w3 0x68000000 t.toNat 21 b.toNat 15 x.toNat 9
  | .vstT t b x => w3 0x68000040 t.toNat 21 b.toNat 15 x.toNat 9
  | .vldR v b x k => w4 0x68000080 v.toNat 21 b.toNat 15 x.toNat 9 k.toNat 2
  | .vstR v b x k => w4 0x680000C0 v.toNat 21 b.toNat 15 x.toNat 9 k.toNat 2
  | .vldAv d b x f => w4 0x68000100 d.toNat 21 b.toNat 15 x.toNat 9 f.code.toNat 2
  | .vldAm d b x f => w4 0x68000140 d.toNat 21 b.toNat 15 x.toNat 9 f.code.toNat 2
  | .vamoAdd d b i p s => w5 0x6C000000 d.toNat 21 b.toNat 15 i.toNat 10 p.toNat 3 s.code.toNat 1
  | .vamoMin d b i p s => w5 0x6C000040 d.toNat 21 b.toNat 15 i.toNat 10 p.toNat 3 s.code.toNat 1
  | .vamoMax d b i p s => w5 0x6C000080 d.toNat 21 b.toNat 15 i.toNat 10 p.toNat 3 s.code.toNat 1
  | .vamoAnd d b i p s => w5 0x6C0000C0 d.toNat 21 b.toNat 15 i.toNat 10 p.toNat 3 s.code.toNat 1
  | .vamoOr d b i p s => w5 0x6C000100 d.toNat 21 b.toNat 15 i.toNat 10 p.toNat 3 s.code.toNat 1
  | .vamoXor d b i p s => w5 0x6C000140 d.toNat 21 b.toNat 15 i.toNat 10 p.toNat 3 s.code.toNat 1
  | .vamoSwap d b i p s => w5 0x6C000180 d.toNat 21 b.toNat 15 i.toNat 10 p.toNat 3 s.code.toNat 1
  | .vamoFmin d b i p s => w5 0x6C0001C0 d.toNat 21 b.toNat 15 i.toNat 10 p.toNat 3 s.code.toNat 1
  | .vamoFadd d b i p s => w5 0x6C000200 d.toNat 21 b.toNat 15 i.toNat 10 p.toNat 3 s.code.toNat 1
  | .pand d a b => w3 0x70000000 d.toNat 17 a.toNat 14 b.toNat 11
  | .por d a b => w3 0x70000008 d.toNat 17 a.toNat 14 b.toNat 11
  | .pxor d a b => w3 0x70000010 d.toNat 17 a.toNat 14 b.toNat 11
  | .pandn d a b => w3 0x70000018 d.toNat 17 a.toNat 14 b.toNat 11
  | .pnot d a => w2 0x70000020 d.toNat 17 a.toNat 14
  | .pset g d => w2 0x70000028 g.toNat 20 d.toNat 17
  | .pcnt g a b => w3 0x70000030 g.toNat 20 a.toNat 14 b.toNat 11
  | .pffs g a b => w3 0x70000038 g.toNat 20 a.toNat 14 b.toNat 11
  | .pbrk d a b => w3 0x70000040 d.toNat 17 a.toNat 14 b.toNat 11
  | .pmov d a => w2 0x70000048 d.toNat 17 a.toNat 14
  | .oacc t a b p => w4 0x80000000 t.toNat 24 a.toNat 19 b.toNat 14 p.toNat 11
  | .osub t a b p => w4 0x80000040 t.toNat 24 a.toNat 19 b.toNat 14 p.toNat 11
  | .mzero t f => w2 0x80000080 t.toNat 24 f.code.toNat 19
  | .mrd t d g => w3 0x800000C0 t.toNat 24 d.toNat 19 g.toNat 0
  | .mrdc t d g => w3 0x80000100 t.toNat 24 d.toNat 19 g.toNat 0
  | .mwr t a g => w3 0x80000140 t.toNat 24 a.toNat 19 g.toNat 0
  | .oaccN t a b p => w4 0x80000180 t.toNat 24 a.toNat 19 b.toNat 14 p.toNat 11
  | .cpg d a v n p => w5 0x84000000 d.toNat 20 a.toNat 14 v.toNat 9 n.toNat 5 p.toNat 2
  | .cpt d a n => w3 0x84000001 d.toNat 20 a.toNat 14 n.toNat 5
  | .cpl d a n => w3 0x84000002 d.toNat 20 a.toNat 14 n.toNat 5
  | .cpavail d n => w2 0x88000000 d.toNat 20 n.toNat 0
  | .cpmask p n => w2 0x88000800 p.toNat 20 n.toNat 0
  | .cpwait d a n => w3 0x88001000 d.toNat 20 a.toNat 14 n.toNat 0
  | .bxInit a k n => w3 0x88001800 a.toNat 14 k.toNat 4 n.toNat 0
  | .bxExp n a => w2 0x88002000 n.toNat 20 a.toNat 14
  | .bxWait d a => w2 0x88002800 d.toNat 20 a.toNat 14
  | .cpsel n => w1 0x88003000 n.toNat 0
  | _ => 0

/-- The words of an instruction, first word first (Tables 4.1 and 4.6); none for an event. -/
def encode (i : Instr) : List (BitVec 32) :=
  match i with
  | .liL d i => [0x3E#6 ++ 0#4 ++ d ++ i.extractLsb' 26 16, 0x3F#6 ++ i.extractLsb' 0 26]
  | .jalL d o => [0x3E#6 ++ 1#4 ++ d ++ o.extractLsb' 26 16, 0x3F#6 ++ o.extractLsb' 0 26]
  | .addiL d a i => [0x3E#6 ++ 2#4 ++ d ++ a ++ i.extractLsb' 26 10, 0x3F#6 ++ i.extractLsb' 0 26]
  | i => if encodeWord i = 0 then [] else [BitVec.ofNat 32 (encodeWord i)]

/-- The bytes of an instruction as memory holds them (R3, R68). -/
def encodeBytes (i : Instr) : List Byte := (encode i).flatMap (fun w => bytesLE 4 w.toNat)

/-- The instruction the decoder reads from a table row's bits `w`, of which the row gives `nbits`: the first word lies
at the lowest address, and every byte above `nbits` is zero. -/
noncomputable def decodeTableWord (nbits w : Nat) : Option Instr :=
  match decodeBytes (bytesLE 8 (w % 2 ^ nbits)) with
  | .ok (i, _) => some i
  | .error _ => none

end Sys2Proof
end

