-- ==== Sys2Proof/Machine/Fp.lean ====
section
/-! DEFINITION. Floating-point values and their single rounding (R163 to R169, R172, R173, R177 to R182). A value is
computed exactly, or to a lower bound with a sticky mark, and rounded once. -/

namespace Sys2Proof.Machine

/-! ## Formats -/

/-- Fraction bits of a floating-point format (Table 7.2). -/
def fracBits (f : Fmt) : Nat :=
  match f with
  | .e2m1 => 1 | .e4m3 => 3 | .e5m2 => 2 | .fp16 => 10 | .bf16 => 7 | .fp32 => 23 | .fp64 => 52 | _ => 0

/-- Exponent bits of a floating-point format (Table 7.2). -/
def expBits (f : Fmt) : Nat :=
  match f with
  | .e2m1 => 2 | .e4m3 => 4 | .e5m2 => 5 | .fp16 => 5 | .bf16 => 8 | .fp32 => 8 | .fp64 => 11 | _ => 0

/-- Exponent bias (Table 7.2). -/
def bias (f : Fmt) : Int :=
  match f with
  | .e2m1 => 1 | .e4m3 => 7 | .e5m2 => 15 | .fp16 => 15 | .bf16 => 127 | .fp32 => 127 | .fp64 => 1023 | _ => 0

/-- Element width in bits (Table 6.1); 0 for NONE. -/
def width (f : Fmt) : Nat :=
  match f with
  | .none => 0
  | .e2m1 => 4
  | .i8 | .n8 | .e4m3 | .e5m2 => 8
  | .i16 | .n16 | .fp16 | .bf16 => 16
  | .i32 | .n32 | .fp32 => 32
  | .i64 | .n64 | .fp64 => 64

/-- A floating-point format. -/
def isFloat (f : Fmt) : Bool :=
  match f with
  | .e2m1 | .e4m3 | .e5m2 | .fp16 | .bf16 | .fp32 | .fp64 => true
  | _ => false

/-- A signed integer format (I). -/
def isSigned (f : Fmt) : Bool :=
  match f with
  | .i8 | .i16 | .i32 | .i64 => true
  | _ => false

/-- An unsigned integer format (N). -/
def isUnsigned (f : Fmt) : Bool :=
  match f with
  | .n8 | .n16 | .n32 | .n64 => true
  | _ => false

/-- An I or N format. -/
def isInt (f : Fmt) : Bool := isSigned f || isUnsigned f

/-- The sign bit of a pattern. -/
def signBit (f : Fmt) (x : Nat) : Bool := natBit x (expBits f + fracBits f)

/-- A sign as a pattern bit. -/
def signed (f : Fmt) (neg : Bool) (x : Nat) : Nat := (if neg then 2 ^ (expBits f + fracBits f) else 0) + x

/-- The largest finite magnitude, as a pattern (Table 7.2). -/
def maxFinite (f : Fmt) : Nat :=
  match f with
  | .e2m1 => 0x7
  | .e4m3 => 0x7E
  | _ => 2 ^ (expBits f + fracBits f) - 2 ^ fracBits f - 1

/-- The canonical NaN, as a pattern; for E2M1, which has none, +0 stands in (Table 7.3, R168). -/
def canonNan (f : Fmt) : Nat :=
  match f with
  | .e2m1 => 0
  | .e4m3 => 0x7F
  | _ => 2 ^ (expBits f + fracBits f) - 2 ^ (fracBits f - 1)

/-- An infinity, or what stands in for one (R168). -/
def infinity (f : Fmt) (neg : Bool) : Nat :=
  match f with
  | .e2m1 => signed f neg 0x7
  | .e4m3 => 0x7F
  | _ => signed f neg (2 ^ (expBits f + fracBits f) - 2 ^ fracBits f)

/-- What a pattern stands for: a finite value (−1)^neg × m × 2^e has its last place at 2^e (R163, R164). -/
inductive FpVal where
  | nan (signalling : Bool)
  | inf (neg : Bool)
  | num (neg : Bool) (m : Nat) (e : Int)
  deriving DecidableEq, Repr

/-- The value of a pattern (R163, R164). -/
def unpack (f : Fmt) (x : Nat) : FpVal :=
  let neg := signBit f x
  let ex := natBits x (fracBits f) (expBits f)
  let fr := natBits x 0 (fracBits f)
  let special := ex = 2 ^ expBits f - 1 && f != .e2m1 && f != .e4m3
  if f == .e4m3 && ex == 15 && fr == 7 then .nan false
  else if special then (if fr = 0 then .inf neg else .nan (!natBit fr (fracBits f - 1)))
  else if ex = 0 then .num neg fr (1 - bias f - fracBits f)
  else .num neg (2 ^ fracBits f + fr) (ex - bias f - fracBits f)

/-! ## Flags (Table 7.8) -/

/-- NX. -/
def flagNX : BitVec 5 := 1
/-- UF. -/
def flagUF : BitVec 5 := 2
/-- OF. -/
def flagOF : BitVec 5 := 4
/-- DZ. -/
def flagDZ : BitVec 5 := 8
/-- NV. -/
def flagNV : BitVec 5 := 16

/-- A result pattern and its flags. -/
abbrev FpRes := Nat × BitVec 5

/-- A NaN result; in E2M1 it is +0 with NV (R165, R168). `nv`: the rule itself raises NV. -/
def nanRes (f : Fmt) (nv : Bool) : FpRes := (canonNan f, if nv || f == .e2m1 then flagNV else 0)

/-! ## Rounding -/

/-- A magnitude that lies at m × 2^e, or strictly between it and (m + 1) × 2^e when sticky. -/
structure Exact where
  neg : Bool
  m : Nat
  e : Int
  sticky : Bool := false

/-- How many places stochastic rounding counts (R173): 32, or those of the source below the result's last place. -/
inductive Places where
  | fixed
  | source (last : Int)

/-- A rounding mode with the stochastic draw of the element (R167, R172). -/
structure Rounding where
  mode : Rnd
  draw : Word := 0
  places : Places := .fixed

/-- Whether rounding takes n + 1 (R167, R173): the remainder is `rem / 2^sh`, with a sticky tail; q is the last place. The places of a
float source below 2^q are counted from 2^q down to its last one, places above its leading bit included where its whole significand
lies below (DESIGN CHOICE, log 51). -/
def roundsUp (rd : Rounding) (neg : Bool) (n rem sh : Nat) (sticky : Bool) (q : Int) : Bool :=
  if rem = 0 && !sticky then false
  else
    match rd.mode with
    | .rtz => false
    | .rdn => neg
    | .rup => !neg
    | .rne =>
      let half := 2 ^ sh
      (half < 2 * rem) || (half == 2 * rem && (sticky || n % 2 == 1))
    | .sr =>
      let d : Int := match rd.places with
        | .fixed => 32
        | .source last => q - last
      let k := min d.toNat 32
      let fk := rem * 2 ^ k / 2 ^ sh
      2 ^ k ≤ fk + rd.draw.toNat % 2 ^ k

/-- A magnitude rounded at place q: the multiple of 2^q taken, and whether it is inexact (R167). -/
def roundAt (rd : Rounding) (x : Exact) (q : Int) : Nat × Bool :=
  let sh := (q - x.e).toNat
  let m := x.m * 2 ^ (x.e - q).toNat
  let n := m / 2 ^ sh
  let rem := m % 2 ^ sh
  (if roundsUp rd x.neg n rem sh x.sticky q then n + 1 else n, rem != 0 || x.sticky)

/-- n × 2^q is at most 2^b. -/
def belowPow (n : Nat) (q b : Int) : Bool :=
  if q ≤ b then n < 2 ^ (b - q).toNat else n == 0

/-- The overflow result of Table 7.5; SAT replaces it by the largest finite value (R168, R177). -/
def overflowRes (f : Fmt) (mode : Rnd) (sat neg : Bool) : FpRes :=
  let toMax := match mode with
    | .rne | .sr => false
    | .rtz => true
    | .rdn => !neg
    | .rup => neg
  (if sat || toMax then signed f neg (maxFinite f) else infinity f neg, flagOF ||| flagNX)

/-- Round a non-zero magnitude to a format, with the flags of R168 and R169. -/
def roundNonzero (f : Fmt) (rd : Rounding) (sat : Bool) (x : Exact) : FpRes :=
  let p : Int := fracBits f
  let qMin : Int := 1 - bias f - p
  let qn : Int := (Nat.log2 x.m : Int) + x.e - p
  let q := max qn qMin
  let (n, inexact) := roundAt rd x q
  let top := n ≥ 2 ^ (fracBits f + 1)
  let ex : Int := if top then q + p + bias f + 1 else q + p + bias f
  let pat : Nat := if n < 2 ^ fracBits f then n
    else ex.toNat * 2 ^ fracBits f + (if top then 0 else n - 2 ^ fracBits f)
  if maxFinite f < pat then overflowRes f rd.mode sat x.neg
  else
    let tiny := if qn < qMin then belowPow (roundAt rd x qn).1 qn (1 - bias f) else false
    (signed f x.neg pat, (if inexact then flagNX else 0) ||| (if tiny && inexact then flagUF else 0))

/-- Round an exact value to a format; an exact zero keeps its sign. -/
def roundTo (f : Fmt) (rd : Rounding) (sat : Bool) (x : Exact) : FpRes :=
  if x.m = 0 && !x.sticky then (signed f x.neg 0, 0) else roundNonzero f rd sat x

/-! ## Arithmetic (R116, R165) -/

/-- A signalling NaN. -/
def isSnan (v : FpVal) : Bool := match v with | .nan s => s | _ => false

/-- A NaN. -/
def isNan (v : FpVal) : Bool := match v with | .nan _ => true | _ => false

/-- Sign of a value. -/
def negative (v : FpVal) : Bool := match v with | .nan _ => false | .inf n => n | .num n _ _ => n

/-- The sum of two finite values, exactly; the sign of an exact zero follows IEEE 754-2019 clause 6.3. -/
def exactSum (mode : Rnd) (n1 : Bool) (m1 : Nat) (e1 : Int) (n2 : Bool) (m2 : Nat) (e2 : Int) : Exact :=
  let e := min e1 e2
  let a : Int := (m1 * 2 ^ (e1 - e).toNat : Nat)
  let b : Int := (m2 * 2 ^ (e2 - e).toNat : Nat)
  let t := (if n1 then -a else a) + (if n2 then -b else b)
  let zneg := if n1 == n2 then n1 else mode == .rdn
  { neg := if t = 0 then zneg else decide (t < 0), m := t.natAbs, e := e }

/-- a × b + c with one rounding (R116, R165). -/
def fpFmaV (f : Fmt) (rd : Rounding) (a b c : FpVal) : FpRes :=
  let s := isSnan a || isSnan b || isSnan c
  match a, b with
  | .inf n1, .num n2 m _ | .num n2 m _, .inf n1 =>
    if m = 0 then nanRes f true
    else
      match c with
      | .nan _ => nanRes f s
      | .inf n3 => if (n1 != n2) == n3 then (infinity f n3, 0) else nanRes f true
      | .num _ _ _ => (infinity f (n1 != n2), 0)
  | .inf n1, .inf n2 =>
    match c with
    | .nan _ => nanRes f s
    | .inf n3 => if (n1 != n2) == n3 then (infinity f n3, 0) else nanRes f true
    | .num _ _ _ => (infinity f (n1 != n2), 0)
  | .num n1 m1 e1, .num n2 m2 e2 =>
    match c with
    | .nan _ => nanRes f s
    | .inf n3 => (infinity f n3, 0)
    | .num n3 m3 e3 => roundTo f rd false (exactSum rd.mode (n1 != n2) (m1 * m2) (e1 + e2) n3 m3 e3)
  | _, _ => nanRes f s

/-- a + b (R116). -/
def fpAddV (f : Fmt) (rd : Rounding) (a b : FpVal) : FpRes :=
  match a, b with
  | .inf n1, .inf n2 => if n1 == n2 then (infinity f n1, 0) else nanRes f true
  | .inf n, .num _ _ _ => (infinity f n, 0)
  | .num _ _ _, .inf n => (infinity f n, 0)
  | .num n1 m1 e1, .num n2 m2 e2 => roundTo f rd false (exactSum rd.mode n1 m1 e1 n2 m2 e2)
  | _, _ => nanRes f (isSnan a || isSnan b)

/-- The value with its sign changed. -/
def FpVal.negate (v : FpVal) : FpVal := match v with
  | .nan s => .nan s
  | .inf n => .inf (!n)
  | .num n m e => .num (!n) m e

/-- a × b (R116). -/
def fpMulV (f : Fmt) (rd : Rounding) (a b : FpVal) : FpRes :=
  match a, b with
  | .inf n1, .num n2 m _ | .num n2 m _, .inf n1 => if m = 0 then nanRes f true else (infinity f (n1 != n2), 0)
  | .inf n1, .inf n2 => (infinity f (n1 != n2), 0)
  | .num n1 m1 e1, .num n2 m2 e2 => roundTo f rd false { neg := n1 != n2, m := m1 * m2, e := e1 + e2 }
  | _, _ => nanRes f (isSnan a || isSnan b)

/-- How many extra bits quotients and roots carry before their sticky mark. -/
def guardBits : Nat := 192

/-- a / b (R116). -/
def fpDivV (f : Fmt) (rd : Rounding) (a b : FpVal) : FpRes :=
  match a, b with
  | .inf _, .inf _ => nanRes f true
  | .inf n1, .num n2 _ _ => (infinity f (n1 != n2), 0)
  | .num n1 _ _, .inf n2 => (signed f (n1 != n2) 0, 0)
  | .num n1 m1 e1, .num n2 m2 e2 =>
    if m2 = 0 then (if m1 = 0 then nanRes f true else (infinity f (n1 != n2), flagDZ))
    else
      let m := m1 * 2 ^ guardBits
      roundTo f rd false { neg := n1 != n2, m := m / m2, e := e1 - e2 - guardBits, sticky := m % m2 != 0 }
  | _, _ => nanRes f (isSnan a || isSnan b)

/-- Newton's iteration for the integer square root, from above. -/
def isqrtFrom : Nat → Nat → Nat → Nat
  | 0, _, x => x
  | k + 1, n, x =>
    let y := (x + n / x) / 2
    if y < x then isqrtFrom k n y else x

/-- The integer square root, rounded down. -/
def isqrt (n : Nat) : Nat := if n = 0 then 0 else isqrtFrom (Nat.log2 n + 2) n (2 ^ (Nat.log2 n / 2 + 1))

/-- A finite value with an even last place. -/
def evenPlace (m : Nat) (e : Int) : Nat × Int := if e % 2 = 0 then (m, e) else (2 * m, e - 1)

/-- √a (R116). -/
def fpSqrtV (f : Fmt) (rd : Rounding) (a : FpVal) : FpRes :=
  match a with
  | .nan s => nanRes f s
  | .inf n => if n then nanRes f true else (infinity f false, 0)
  | .num n m e =>
    if m = 0 then (signed f n 0, 0)
    else if n then nanRes f true
    else
      let (m', e') := evenPlace m e
      let x := m' * 2 ^ (2 * guardBits)
      let r := isqrt x
      roundTo f rd false { neg := false, m := r, e := e' / 2 - guardBits, sticky := r * r != x }

/-! ## Correctly rounded functions (R181, R182) -/

/-- 1 / a (Table 7.10). -/
def fpRcpV (f : Fmt) (a : FpVal) : FpRes :=
  match a with
  | .nan s => nanRes f s
  | .inf n => (signed f n 0, 0)
  | .num n m e => if m = 0 then (infinity f n, flagDZ) else fpDivV f { mode := .rne } (.num false 1 0) (.num n m e)

/-- 1 / √a (Table 7.10). -/
def fpRsqrtV (f : Fmt) (a : FpVal) : FpRes :=
  match a with
  | .nan s => nanRes f s
  | .inf n => if n then nanRes f true else (0, 0)
  | .num n m e =>
    if m = 0 then (infinity f n, flagDZ)
    else if n then nanRes f true
    else
      let (m', e') := evenPlace m e
      let big := 2 ^ (2 * guardBits)
      let r := isqrt (big / m')
      roundTo f { mode := .rne } false { neg := false, m := r, e := -(e' / 2) - guardBits, sticky := r * r * m' != big }

/-- Fraction bits of the fixed-point arithmetic of 2^x and log₂ x (log 21). -/
def fixBits : Nat := 512

/-- The product over the one bits of `fr`, from the top of `n` bits down, of 2^(1/2), 2^(1/4), …, in fixed point. -/
def exp2Frac : Nat → Nat → Nat → Nat → Nat
  | 0, _, _, acc => acc
  | n + 1, fr, root, acc =>
    let r := isqrt (root * 2 ^ fixBits)
    exp2Frac n fr r (if natBit fr n then acc * r / 2 ^ fixBits else acc)

/-- 2^a (Table 7.10). -/
def fpExp2V (f : Fmt) (a : FpVal) : FpRes :=
  match a with
  | .nan s => nanRes f s
  | .inf n => if n then (0, 0) else (infinity f false, 0)
  | .num n m e =>
    let rd : Rounding := { mode := .rne }
    if m = 0 then roundTo f rd false { neg := false, m := 1, e := 0 }
    else if (Nat.log2 m : Int) + e ≥ 12 then
      roundTo f rd false { neg := false, m := 2 ^ 64, e := if n then -8192 else 8192, sticky := true }
    else
      let k := (-e).toNat
      let v : Int := (m * 2 ^ e.toNat : Nat)
      let x : Int := if n then -v else v
      let whole := x / (2 ^ k : Nat)
      let fr := (x % (2 ^ k : Nat)).toNat
      if fr = 0 then roundTo f rd false { neg := false, m := 1, e := whole }
      else
        roundTo f rd false
          { neg := false, m := exp2Frac k fr (2 * 2 ^ fixBits) (2 ^ fixBits), e := whole - fixBits, sticky := true }

/-- The first `n` fraction bits of log₂ of a fixed-point number in [1, 2), by repeated squaring. -/
def log2Frac : Nat → Nat → Nat → Nat
  | 0, _, acc => acc
  | n + 1, z, acc =>
    let sq := z * z / 2 ^ fixBits
    if 2 ^ (fixBits + 1) ≤ sq then log2Frac n (sq / 2) (2 * acc + 1) else log2Frac n sq (2 * acc)

/-- log₂ a (Table 7.10). -/
def fpLog2V (f : Fmt) (a : FpVal) : FpRes :=
  match a with
  | .nan s => nanRes f s
  | .inf n => if n then nanRes f true else (infinity f false, 0)
  | .num n m e =>
    if m = 0 then (infinity f true, flagDZ)
    else if n then nanRes f true
    else
      let top := Nat.log2 m
      let whole : Int := (top : Int) + e
      let rd : Rounding := { mode := .rne }
      if m = 2 ^ top then roundTo f rd false { neg := decide (whole < 0), m := whole.natAbs, e := 0 }
      else
        let v : Int := whole * (2 ^ guardBits : Nat) + (log2Frac guardBits (m * 2 ^ fixBits / 2 ^ top) 0 : Nat)
        if 0 ≤ v then roundTo f rd false { neg := false, m := v.toNat, e := -guardBits, sticky := true }
        else roundTo f rd false { neg := true, m := (-v - 1).toNat, e := -guardBits, sticky := true }

/-! ## Comparisons (R117 to R119) -/

/-- Order of two finite values or infinities, −0 and +0 equal: the sign of a − b. -/
def fpCompare (a b : FpVal) : Int :=
  match a, b with
  | .inf n1, .inf n2 => if n1 == n2 then 0 else if n1 then -1 else 1
  | .inf n, _ => if n then -1 else 1
  | _, .inf n => if n then 1 else -1
  | .num n1 m1 e1, .num n2 m2 e2 =>
    let e := min e1 e2
    let x : Int := (m1 * 2 ^ (e1 - e).toNat : Nat)
    let y : Int := (m2 * 2 ^ (e2 - e).toNat : Nat)
    ((if n1 then -x else x) - (if n2 then -y else y)).sign
  | _, _ => 0

/-- Minimum or maximum under R117: an operand is returned bit for bit. -/
def fpMinMax (f : Fmt) (wantMax : Bool) (a b : Nat) : FpRes :=
  let va := unpack f a
  let vb := unpack f b
  let flags := if isSnan va || isSnan vb then flagNV else 0
  let pick :=
    if isNan va && isNan vb then canonNan f
    else if isNan va then b
    else if isNan vb then a
    else
      let c := fpCompare va vb
      let aSmaller := c < 0 || (c == 0 && negative va)
      if aSmaller != wantMax then a else b
  (pick, flags)

/-- The class mask of R119. -/
def fpClass (f : Fmt) (x : Nat) : Nat :=
  match unpack f x with
  | .nan s => if s then 1 else 2
  | .inf n => if n then 4 else 512
  | .num n m _ =>
    if m = 0 then (if n then 32 else 64)
    else if m < 2 ^ fracBits f then (if n then 16 else 128)
    else (if n then 8 else 256)

/-! ## Conversions (R177 to R180) -/

/-- Float to float (R177). -/
def cvtFloat (src dst : Fmt) (rd : Rounding) (sat : Bool) (x : Nat) : FpRes :=
  match unpack src x with
  | .nan s => nanRes dst s
  | .inf n =>
    if dst == .e2m1 then (signed dst n (maxFinite dst), flagNV)
    else if dst == .e4m3 then (if sat then signed dst n (maxFinite dst) else canonNan dst, flagNV)
    else (infinity dst n, 0)
  | .num n m e => roundTo dst { rd with places := .source e } sat { neg := n, m := m, e := e }

/-- The range of an integer format (Table 7.1). -/
def intMin (f : Fmt) : Int := if isSigned f then -(2 ^ (width f - 1) : Nat) else 0

/-- The largest value of an integer format (Table 7.1). -/
def intMax (f : Fmt) : Int := if isSigned f then (2 ^ (width f - 1) : Nat) - 1 else (2 ^ width f : Nat) - 1

/-- The value of an integer element (R161). -/
def intVal (f : Fmt) (x : Nat) : Int :=
  if isSigned f && 2 ^ (width f - 1) ≤ x then (x : Int) - (2 ^ width f : Nat) else x

/-- An integer modulo 2^w, as a pattern. -/
def intPat (w : Nat) (x : Int) : Nat := (x % (2 ^ w : Nat)).toNat

/-- Float to integer (R120, R178). -/
def cvtToInt (src dst : Fmt) (rd : Rounding) (x : Nat) : FpRes :=
  let sat := fun (neg : Bool) => (intPat (width dst) (if neg then intMin dst else intMax dst), flagNV)
  match unpack src x with
  | .nan _ => (0, flagNV)
  | .inf n => sat n
  | .num n m e =>
    let (k, inexact) := roundAt { rd with places := .source e } { neg := n, m := m, e := e } 0
    let v : Int := if n then -(k : Int) else k
    if intMax dst < v then sat false
    else if v < intMin dst then sat true
    else (intPat (width dst) v, if inexact then flagNX else 0)

/-- Integer to float (R120, R179). -/
def cvtFromInt (dst : Fmt) (rd : Rounding) (sat : Bool) (v : Int) : FpRes :=
  roundTo dst { rd with places := .source 0 } sat { neg := decide (v < 0), m := v.natAbs, e := 0 }

/-- Integer to integer (R180). -/
def cvtInt (src dst : Fmt) (sat : Bool) (x : Nat) : Nat :=
  let v := intVal src x
  intPat (width dst) (if sat then clampInt (intMin dst) (intMax dst) v else v)

/-! ## Stochastic draws (R172) -/

/-- H(seed, counter, i). -/
def srDraw (seed ctr : Word) (i : Nat) : Word :=
  let x := seed ^^^ (ctr * 0x9E3779B97F4A7C15) ^^^ (BitVec.ofNat 64 i * 0xC2B2AE3D27D4EB4F)
  let x := (x ^^^ (x >>> 31)) * 0xBF58476D1CE4E5B9
  let x := (x ^^^ (x >>> 29)) * 0x94D049BB133111EB
  x ^^^ (x >>> 32)

end Sys2Proof.Machine
end

