-- ==== Sys2Proof/Machine/Flags.lean ====
section
/-! DEFINITION. The sticky flags FFLAGS (R115, R118, R121, R122, R175) and the rounding mode that FRM selects (R114,
R166). -/

namespace Sys2Proof.Machine

/-- The mode that an FRM value names (Table 7.4). FRM never holds 5, 6 or 7 (R166). -/
def Rnd.ofFrm (m : BitVec 3) : Rnd :=
  match m.toNat with
  | 1 => .rtz | 2 => .sr | 3 => .rdn | 4 => .rup | _ => .rne

/-- The rounding of a scalar instruction: FRM, with stochastic rounding replaced by RNE (R114). -/
def scalarRounding (s : State) : Rounding :=
  match Rnd.ofFrm s.hart.sc.frm with
  | .sr => { mode := .rne }
  | m => { mode := m }

/-- Whether a relation of two values holds, and NV: any NaN raises it for an ordering, a signalling NaN for equality
(R118). -/
def fpRelation (ordering : Bool) (test : Int → Bool) (a b : FpVal) : Bool × BitVec 5 :=
  if isNan a || isNan b then (false, if ordering || isSnan a || isSnan b then flagNV else 0)
  else (test (fpCompare a b), 0)

/-- Write a result with its flags ORed into FFLAGS and go on (R121). -/
def writeFlagged (s : State) (d : GReg) (r : FpRes) : Out :=
  .next (((s.raiseFlags r.2).setG d (BitVec.ofNat 64 r.1)).advance 4)

end Sys2Proof.Machine
end

