-- ==== Sys2Proof/Machine/Operands.lean ====
section
/-! DEFINITION. Operand forms: scalar addresses (R74, R258), vector elements, predicates, the active count and the merge
rule (R127, R130, R162, R189 to R192), and what an entry at the head of the vector queue answers (R84, R145). -/

namespace Sys2Proof.Machine

/-- Base plus a sign-extended offset, modulo 2^64 (R254, R258). -/
def State.ea {n : Nat} (s : State) (b : GReg) (i : BitVec n) : Word := s.g b + sext64 i

/-! ## Vector registers and predicates -/

/-- A vector register (R127). -/
def Hart.reg (h : Hart) (v : VReg) : VecReg := vget h.vec.v v.toNat VecReg.zero

/-- The tag of a vector register (R128). -/
def Hart.tag (h : Hart) (v : VReg) : Fmt := (h.reg v).tag

/-- Bit `i` of a predicate; p0 reads all ones (R127). -/
def Hart.pbit (h : Hart) (p : PReg) (i : Nat) : Bool := p = 0 || (vget h.vec.p p.toNat 0).getLsbD i

/-- Write a predicate; a write to p0 is discarded (R127). -/
def Hart.setPred (h : Hart) (p : PReg) (x : BitVec 16384) : Hart :=
  if p = 0 then h else { h with vec := { h.vec with p := vset h.vec.p p.toNat x } }

/-- Write a vector register. -/
def Hart.setReg (h : Hart) (v : VReg) (r : VecReg) : Hart := { h with vec := { h.vec with v := vset h.vec.v v.toNat r } }

/-- A tile (R211). -/
def Hart.tile (h : Hart) (t : TReg) : TileReg := vget h.vec.t t.toNat TileReg.zero

/-- Write a tile. -/
def Hart.setTile (h : Hart) (t : TReg) (r : TileReg) : Hart := { h with vec := { h.vec with t := vset h.vec.t t.toNat r } }

/-- Elements of width w in a register: VL.LEN / w. -/
def Hart.elems (h : Hart) (w : Nat) : Nat := h.ln.len / w

/-- The active count cnt(w) (R130). -/
def Hart.cnt (h : Hart) (w : Nat) : Nat := if h.ln.tv then min (h.ln.len / w) h.ln.trim.toNat else h.ln.len / w

/-- Element j lies in the body and its predicate bit is set (R189). -/
def Hart.active (h : Hart) (p : PReg) (w j : Nat) : Bool := decide (j < h.cnt w) && h.pbit p j

/-- Element j of a register of width w (R127, R162: an E2M1 element is a nibble). -/
def VecReg.elem (r : VecReg) (w j : Nat) : Nat := natBits r.bits.toNat (j * w) w

/-- A register's bits from its elements of width w. -/
def packElems (w : Nat) (xs : List Nat) : Nat := xs.foldr (fun x acc => x % 2 ^ w + acc * 2 ^ w) 0

/-- A register whose element j is `f j`. -/
def vecOf (h : Hart) (t : Fmt) (f : Nat → Nat) : VecReg :=
  { bits := BitVec.ofNat 65536 (packElems (width t) ((List.range (h.elems (width t))).map f)), tag := t }

/-- A predicate whose bit i is `f i`, for the VL.LEN / 4 bits it has. -/
def predOf (h : Hart) (f : Nat → Bool) : BitVec 16384 :=
  BitVec.ofNat 16384 (packElems 1 ((List.range (h.elems 4)).map (fun i => if f i then 1 else 0)))

/-- The general-register operand of a VX form: the low w bits as captured (R192). -/
def lowBits (x : Word) (w : Nat) : Nat := x.toNat % 2 ^ w

/-! ## The head of the queue -/

/-- What an entry at the head answers: commits; traps at an element, having done what the state holds; waits; or
reaches a hub offset that has no register (log 6). -/
inductive HeadRes where
  | commit (s : State)
  | trap (s : State) (code : BitVec 8) (val : Word) (elem : Nat)
  | wait (s : State)
  | stop (off : Nat)

/-- TRAPVAL of a Format trap (R191, R432): the word and three tags. -/
def formatVal (word : BitVec 32) (d a b : Fmt) : Word :=
  BitVec.ofNat 64 (word.toNat + d.code.toNat * 2 ^ 32 + a.code.toNat * 2 ^ 36 + b.code.toNat * 2 ^ 40)

/-- A Format trap. -/
def formatTrap (s : State) (e : VqEntry) (d a b : Fmt) : HeadRes := .trap s 0x03 (formatVal e.word d a b) 0

/-- No-grant comes before every other check of the head (R84, R193); VSTART stays as it was, for a load too (DESIGN CHOICE, log 55). -/
def granting (s : State) (e : VqEntry) (k : HeadRes) : HeadRes :=
  if s.hart.ln.len = 0 then .trap s 0x04 (zext64 e.word) 0 else k

/-- The head commits with the hart changed. -/
def commitHart (s : State) (h : Hart) : HeadRes := .commit (s.withHart h)

/-- OR flags into FFLAGS at a commit (R122, R176). -/
def Hart.raise (h : Hart) (f : BitVec 5) : Hart := { h with sc := { h.sc with fflags := h.sc.fflags ||| f } }

/-- SRCTR after an instruction that rounds stochastically (R174). -/
def Hart.drew (h : Hart) (stochastic : Bool) : Hart :=
  if stochastic then { h with sc := { h.sc with srctr := h.sc.srctr + 1 } } else h

/-- The rounding of element j of a vector instruction in a mode (R170, R172). -/
def vecRounding (h : Hart) (m : Rnd) (j : Nat) : Rounding :=
  { mode := m, draw := if m == .sr then srDraw h.sc.srseed h.sc.srctr j else 0 }

/-- What an instruction of chapter 8 that writes a vector register under R190 does. -/
structure VecOp where
  ok : Bool                    -- its Format conditions besides the merge rule
  fmt : Fmt                    -- the result format
  zero : Bool
  pred : PReg
  result : Nat → FpRes
  stochastic : Bool := false

/-- Execute an instruction that writes a vector register: No-grant, Format, then R190 with the flags of R176. `a` and `b`
are the tags of R191's TRAPVAL. -/
def runVec (s : State) (e : VqEntry) (d : VReg) (a b : Fmt) (op : VecOp) : HeadRes :=
  let h := s.hart
  let old := h.reg d
  granting s e <|
    if op.ok && (op.zero || old.tag == op.fmt || old.tag == .none) then
      let w := width op.fmt
      let act := (List.range (h.elems w)).filter (fun j => h.active op.pred w j)
      let flags := act.foldl (fun f j => f ||| (op.result j).2) (0 : BitVec 5)
      let r := vecOf h op.fmt (fun j =>
        if h.active op.pred w j then (op.result j).1 else if op.zero then 0 else old.elem w j)
      commitHart s (((h.setReg d r).raise flags).drew (op.stochastic && !act.isEmpty))
    else formatTrap s e old.tag a b

end Sys2Proof.Machine
end

