-- ==== Sys2Proof/Machine/Queue.lean ====
section
/-! DEFINITION. The vector queue: the push at issue (R144, R371), entries that hold the hart (R146), and the memory that
an uncommitted entry may access (R147). -/

namespace Sys2Proof.Machine

/-- The word of a one-word instruction. -/
def wordOf (i : Instr) : BitVec 32 := BitVec.ofNat 32 (encodeWord i)

/-- The entry that a vector instruction at the PC would push (Table 15.5). -/
def entryOf (s : State) (i : Instr) (opa opb d0 d1 d2 : Word) : VqEntry :=
  { word := wordOf i, addr := s.hart.sc.pc.setWidth 56, seq := s.hart.sc.iseq, opa := opa, opb := opb, dim0 := d0
    dim1 := d1, dim2 := d2, cls := s.hart.sc.prio }

/-- Put an entry at the tail of the queue. -/
def Hart.push (h : Hart) (e : VqEntry) : Hart := { h with vq := h.vq ++ [e] }

/-- Vector issue: Lazy-vector (R371), a wait while 64 entries are held (R144), or the push. -/
def issueDims (i : Instr) (opa opb d0 d1 d2 : Word) (s : State) : Out :=
  if s.hart.tr.voff && !s.hart.tr.hm then trapAt s 0x0E (zext64 (wordOf i))
  else if 64 ≤ s.hart.vq.length then waiting s .queue
  else .next ((s.withHart (s.hart.push (entryOf s i opa opb d0 d1 d2))).advance 4)

/-- Vector issue of an instruction that captures no DIM register. -/
def issue (i : Instr) (opa opb : Word) (s : State) : Out := issueDims i opa opb 0 0 0 s

/-- The instruction of an entry; none for a word that is not a legal instruction of R144 (R359). -/
def VqEntry.instr (e : VqEntry) : Option Instr := checked (decodeQueued e.word.toNat)

/-- The general register that an entry writes: it holds the hart until it commits (R146). -/
def VqEntry.writes (e : VqEntry) : Bool :=
  match e.instr with
  | some (.setvl _ _ _) | some (.vmvg _ _ _) | some (.pcnt _ _ _) | some (.pffs _ _ _) => true
  | _ => false

/-- The hart is held by an entry that writes a general register (R146). -/
def Hart.heldByQueue (h : Hart) : Bool := h.vq.any VqEntry.writes

/-- What memory an uncommitted entry may access: none, at most `len` bytes from an address, or any (log 10). -/
inductive Extent where
  | none
  | span (a : Word) (len : Nat)
  | any
  deriving DecidableEq, Repr

/-- The extent of an entry (log 10): a register is at most 8,192 bytes, a tile at most 2^20. An arrival acquire precedes every
later access of its hart (R319). -/
def VqEntry.extent (e : VqEntry) : Extent :=
  match e.instr with
  | some (.vld _ _ _ _ _) | some (.vldff _ _ _ _ _) | some (.vst _ _ _ _ _) => .span (e.opa + e.opb) 8192
  | some (.vldR _ _ _ _) | some (.vstR _ _ _ _) => .span (e.opa + e.opb) 8320
  | some (.vldT _ _ _) | some (.vstT _ _ _) => .span (e.opa + e.opb) (128 + 2 ^ 20)
  | some (.vlds _ _ _ _ _) | some (.vldx _ _ _ _ _) | some (.vsts _ _ _ _ _) | some (.vstx _ _ _ _ _)
  | some (.vamoAdd _ _ _ _ _) | some (.vamoMin _ _ _ _ _) | some (.vamoMax _ _ _ _ _) | some (.vamoAnd _ _ _ _ _)
  | some (.vamoOr _ _ _ _ _) | some (.vamoXor _ _ _ _ _) | some (.vamoSwap _ _ _ _ _) | some (.vamoFmin _ _ _ _ _)
  | some (.vamoFadd _ _ _ _ _) | some (.vldAv _ _ _ _) | some (.vldAm _ _ _ _) | some (.cpmask _ _) => .any
  | _ => .none

/-- An extent may touch `size` bytes at an address. -/
def Extent.meets (x : Extent) (a : Word) (size : Nat) : Bool :=
  match x with
  | .none => false
  | .any => true
  | .span b len => decide ((a - b).toNat < len) || decide ((b - a).toNat < size)

/-- An uncommitted entry may access one of `size` bytes at an address (R147, log 10). -/
def Hart.queueMeets (h : Hart) (a : Word) (size : Nat) : Bool := h.vq.any (fun e => e.extent.meets a size)

/-- Some uncommitted entry accesses memory. -/
def Hart.queueTouches (h : Hart) : Bool := h.vq.any (fun e => e.extent != .none)

end Sys2Proof.Machine
end

