-- ==== Sys2Proof/Machine/Release.lean ====
section
/-! DEFINITION. What a release waits for and when it traps (R260, R318, Table 13.4). -/

namespace Sys2Proof.Machine

/-- The hart holds a line in its deferred-store buffer. -/
def Hart.holds (h : Hart) : Bool := h.stores.any (fun l => l.stage == .held)

/-- A store line has reached the point that Table 13.4 gives for a scope. A line not yet translated has reached none; one for the
hub window waits until the hub has taken it, which completes it (log 11). -/
def StoreLine.reached (l : StoreLine) (sc : Scope) : Bool :=
  let near := sc == .team || sc == .facet
  match l.stage with
  | .retired | .migrating => false
  | .held => true
  | .combining | .device => near || (isHost (l.pa * 128) && sc != .system)
  | .window => sc != .system

/-- What a release at a scope still waits for (Table 13.4). -/
def Hart.releaseWaits (h : Hart) (sc : Scope) : Option Wait :=
  if !h.vq.isEmpty || h.stores.any (fun l => !l.reached sc) then some .release
  else none

/-- A release: it waits for Table 13.4, then traps if a line is held, and performs nothing; otherwise `k` (R260,
R318). -/
def withRelease (s : State) (sc : Scope) (val : Word) (k : Out) : Out :=
  match s.hart.releaseWaits sc with
  | some w => waiting s w
  | none => if s.hart.holds then trapAt s 0x09 val else k

/-- Wait until every earlier vector-queue entry has committed. -/
def afterQueue (s : State) (k : Out) : Out := if s.hart.vq.isEmpty then k else waiting s .queue

end Sys2Proof.Machine
end

