-- ==== Sys2Proof/Machine/Barrier.lean ====
section
/-! DEFINITION. Barriers (R332 to R345) and the strip dispenser (R62, R346, R347). -/

namespace Sys2Proof.Machine

/-- A farm by its name in the model. -/
def State.farm? (s : State) (uid : Nat) : Option Farm := s.farms.find? (fun f => f.uid == uid)

/-- Change a farm. -/
def State.updFarm (s : State) (uid : Nat) (f : Farm → Farm) : State :=
  { s with farms := upd s.farms (fun x => x.uid == uid) f }

/-- The barrier kind a scope names (R335). -/
def BarKind.ofScope (sc : Scope) : BarKind :=
  match sc with
  | .team => .team
  | .facet => .facet
  | _ => .package

/-- Which of a hart's 24 barriers (R334). -/
def barSlot (k : BarKind) (b : Nat) : Nat :=
  match k with
  | .team => b
  | .facet => 8 + b
  | .package => 16 + b

/-- A barrier's state when its farm or team starts (R332). -/
def Barrier.fresh (members : List HartRef) : Barrier := { cur := 0, members := members, arrived := [], left := [], windows := [] }

/-- An empty barrier. -/
def Barrier.none : Barrier := Barrier.fresh []

/-- Barrier `b` of a kind: of a team, or of a farm and one of its facets. -/
def barrierOf (s : State) (k : BarKind) (owner facet b : Nat) : Option Barrier :=
  match k with
  | .team => (s.team? owner).map (fun t => vget t.bars b Barrier.none)
  | .facet => (s.farm? owner).map (fun f => vget (vget f.fac facet (Vector.replicate 8 Barrier.none)) b Barrier.none)
  | .package => (s.farm? owner).map (fun f => vget f.pkg b Barrier.none)

/-- Change a barrier. -/
def updBarrier (s : State) (k : BarKind) (owner facet b : Nat) (f : Barrier → Barrier) : State :=
  match k with
  | .team => s.updTeam owner (fun t => { t with bars := vset t.bars b (f (vget t.bars b Barrier.none)) })
  | .facet => s.updFarm owner (fun x =>
      let row := vget x.fac facet (Vector.replicate 8 Barrier.none)
      { x with fac := vset x.fac facet (vset row b (f (vget row b Barrier.none))) })
  | .package => s.updFarm owner (fun x => { x with pkg := vset x.pkg b (f (vget x.pkg b Barrier.none)) })

/-! ## Release times (R341, R342) -/

/-- The lane clock of a facet in MHz (Table 16.1). -/
def laneMHz (s : State) (facet : Nat) : Nat :=
  match ((s.power.gov[facet]?.map (fun g => g.thr.toNat)).getD 0) with
  | 0 => 1050 | 1 => 900 | 2 => 750 | _ => 525

/-- A facet's lane clock, in thousandths of a lane cycle (R4). -/
def laneClock (s : State) (facet : Nat) : Nat := vget s.clock.lane facet 0

/-- The phase of a cluster in a facet's plan in force: a phase above NPH is taken as NPH (R341). -/
def phaseOf (p : PhasePlan) (cluster : Nat) : Nat :=
  let x := if cluster < 16 then natBits p.livePhlo.toNat (4 * cluster) 4 else natBits p.livePhhi.toNat (4 * (cluster - 16)) 4
  min x p.liveNph.toNat

/-- A waiter's delay after the completion instant under the plans in force there, in lane cycles (R342). -/
def releaseDelay (plans : Vector PhasePlan 8) (k : BarKind) (id : HartId) : Nat :=
  match k with
  | .team => id.slot / 2 / 64 * 8
  | _ =>
    match plans[id.facet]? with
    | some p => phaseOf p id.cluster * p.effsp.toNat
    | none => 0

/-- A waiter's phase in its facet's plan (R341, R345). -/
def phaseIn (plans : Vector PhasePlan 8) (id : HartId) : Nat := ((plans[id.facet]?).map (fun p => phaseOf p id.cluster)).getD 0

/-- A waiter's release time: so many cycles of the lane clock of the facet it runs on after the completion instant, whatever
that clock's rate meanwhile (R4, R342). -/
def releaseAt (lanes : Vector Nat 8) (plans : Vector PhasePlan 8) (k : BarKind) (id : HartId) : ReleaseAt :=
  { facet := id.facet, lane := vget lanes id.facet 0 + 1000 * releaseDelay plans k id, phase := phaseIn plans id }

/-- A release time has come. -/
def ReleaseAt.come (s : State) (a : ReleaseAt) : Bool := decide (a.lane ≤ laneClock s a.facet)

/-- A team's harts execute. -/
def Team.runs (t : Team) : Bool := t.status == .resident

/-- A hart's team executes, so the hart is neither stopped nor moving (R60, R61). -/
def isOut (s : State) (r : HartRef) : Bool := !((s.team? r.team).map Team.runs).getD false

/-- The release times of a completed generation: none for a hart that is stopped at that instant, whose time is fixed where it
resumes (R342, log 37). Every participant has one, also one that arrived by `bar.arv` and does not wait (DESIGN CHOICE, log 37). -/
def releaseList (s : State) (k : BarKind) (members : List HartRef) : List (HartRef × Option ReleaseAt) :=
  members.map (fun r =>
    match s.hart? r with
    | none => (r, none)
    | some h => (r, if isOut s r then none else some (releaseAt s.clock.lane s.power.plan k h.id)))

/-- A release window holds a participant of a facet whose release time has not come. -/
def Window.openOn (s : State) (w : Window) (facet : Nat) : Bool :=
  w.release.any (fun x => (x.2.map (fun a => a.facet == facet && !a.come s)).getD false)

/-- A facet has an open release window (R341). -/
def windowOpen (s : State) (facet : Nat) : Bool :=
  let test := fun (b : Barrier) => b.windows.any (fun w => w.openOn s facet)
  s.farms.any (fun f => f.pkg.toList.any test || f.fac.toList.any (fun row => row.toList.any test))

/-- A pending plan write and a pending minimum take effect at a completion on a facet with no window open (R341,
R383). -/
def PhasePlan.activate (p : PhasePlan) (minsp : BitVec 9) : PhasePlan :=
  { p with liveNph := p.nph, livePhlo := p.phlo, livePhhi := p.phhi
           effsp := if p.spacing.toNat < minsp.toNat then minsp else p.spacing }

/-- Apply the pending plan of one facet, if none of its windows is open. -/
def activatePlan (s : State) (facet : Nat) : State :=
  if windowOpen s facet then s
  else
    match s.power.plan[facet]?, s.power.gov[facet]? with
    | some p, some g => { s with power := { s.power with plan := vset s.power.plan facet (p.activate g.minsp) } }
    | _, _ => s

/-! ## Completion (R334, R343, R344) -/

/-- A hart waits for a generation of a barrier. -/
def waitsFor (h : Hart) (slot : Nat) (gen : BitVec 32) : Bool := h.wait == .barrier slot gen

/-- A release window is over for a participant: its release time has come, or it is still out (R344). -/
def passedFor (s : State) (x : HartRef × Option ReleaseAt) : Bool :=
  match x.2 with
  | some a => a.come s
  | none => (s.hart? x.1).isNone || isOut s x.1

/-- The windows of the earlier generations are closed: every release time has passed, and no waiter that has not been stopped since
is still held (R344). One whose wait an asynchronous cause has ended (R340) is held no longer (DESIGN CHOICE, log 37). -/
def windowsClosed (s : State) (k : BarKind) (b : Nat) (x : Barrier) : Bool :=
  x.windows.all (fun w => w.release.all (fun r => passedFor s r &&
    ((s.hart? r.1).map (fun h => !waitsFor h (barSlot k b) w.gen || w.out.contains r.1)).getD true))

/-- The current generation may complete: every participant has arrived, one that left among them, and R344 allows it. -/
def canComplete (s : State) (k : BarKind) (b : Nat) (x : Barrier) : Bool :=
  !(x.members.isEmpty && x.left.isEmpty) && x.members.all (fun m => x.arrived.contains m) && windowsClosed s k b x

/-- The facets on which a completion occurs: the barrier facet, or those that hold a participant of a package barrier; the completion of
a team barrier is none of the facet's, and puts no plan and no minimum in force (R341, log 15). -/
def completionFacets (s : State) (k : BarKind) (facet : Nat) (x : Barrier) : List Nat :=
  match k with
  | .team => []
  | .facet => [facet]
  | .package => (List.range 8).filter (fun f =>
      x.left.contains f || x.members.any (fun r => ((s.hart? r).map (fun h => h.id.facet == f)).getD false))

/-- Complete the current generation if it may: the completion instant is now (R334, R342). A window is kept while a release
time of it has not come. -/
def tryComplete (s : State) (k : BarKind) (owner facet b : Nat) : State :=
  match barrierOf s k owner facet b with
  | none => s
  | some x =>
    if canComplete s k b x then
      let s1 := (completionFacets s k facet x).foldl activatePlan s
      let w : Window := { gen := x.cur, lanes := s1.clock.lane, plans := s1.power.plan, release := releaseList s1 k x.members
                          out := x.members.filter (isOut s1) }
      let kept := x.windows.filter (fun v => !v.release.all (fun r => (r.2.map (fun a => a.come s)).getD false))
      updBarrier s1 k owner facet b (fun y => { y with cur := y.cur + 1, arrived := [], left := [], windows := w :: kept })
    else s

/-- Every barrier that exists: its kind, its owner, its facet, its number. -/
def allBarriers (s : State) : List (BarKind × Nat × Nat × Nat) :=
  let each := fun (k : BarKind) (owner facet : Nat) => (List.range 8).map (fun b => (k, owner, facet, b))
  s.teams.flatMap (fun t => each .team t.uid t.barFacet)
    ++ s.farms.flatMap (fun f => each .package f.uid 0 ++ (List.range 8).flatMap (fun c => each .facet f.uid c))

/-- Complete every generation that may complete by now: at the first moment (R334). -/
def settleBarriers (s : State) : State := (allBarriers s).foldl (fun t x => tryComplete t x.1 x.2.1 x.2.2.1 x.2.2.2) s

/-! ## The current hart's barriers -/

/-- The owner of a barrier of the current hart, its barrier facet, and whether its farm has such a barrier (R59). -/
def myBarrier (s : State) (k : BarKind) : Option (Nat × Nat) :=
  match s.team? s.hart.id.ref.team with
  | none => none
  | some t =>
    match k with
    | .team => some (t.uid, t.barFacet)
    | _ =>
      match s.farm? t.farm with
      | none => none
      | some f => if f.gang then some (f.uid, t.barFacet) else none

/-- The scope of an arrival's release (R333): a facet barrier's is package scope off the barrier facet. -/
def arrivalScope (s : State) (k : BarKind) (facet : Nat) : Scope :=
  match k with
  | .team => .team
  | .facet => if s.hart.id.facet = facet then .facet else .package
  | .package => .package

/-- The word of a barrier instruction (R335). -/
def barWord (f3 : Nat) (d a : GReg) (n : BitVec 3) (sc : Scope) : Nat :=
  0x38000000 + d.toNat * 2 ^ 20 + a.toNat * 2 ^ 14 + f3 * 2 ^ 11 + n.toNat * 4 + sc.code.toNat

/-- Barrier misuse (R339). -/
def misuse (s : State) (word reason : Nat) : Out := trapAt s 0x12 (BitVec.ofNat 64 (word + reason * 2 ^ 32))

/-- A hart's side of a barrier. -/
def Hart.bar (h : Hart) (slot : Nat) : BarSlot := vget h.bars slot { arv := none, owed := false }

/-- Change a hart's side of a barrier. -/
def Hart.setBar (h : Hart) (slot : Nat) (x : BarSlot) : Hart := { h with bars := vset h.bars slot x }

/-- Record the current hart's arrival at the current generation, and complete it if it was the last (R334, R336). -/
def arrive (s : State) (k : BarKind) (owner facet b : Nat) (cur : BitVec 32) : State :=
  let s1 := s.withHart (s.hart.setBar (barSlot k b) { arv := some cur, owed := true })
  let s2 := updBarrier s1 k owner facet b (fun x => { x with arrived := s.hart.id.ref :: x.arrived })
  tryComplete s2 k owner facet b

/-- The effect of `bar.arv` up to its result: its checks, its waits, its release, the arrival; `k` goes on from the
generation arrived at (R336). -/
def arriving (s : State) (word : Nat) (k : BarKind) (b : Nat) (next : State → Nat → Nat → BitVec 32 → Out) : Out :=
  match myBarrier s k with
  | none => misuse s word 1
  | some (owner, facet) =>
    match barrierOf s k owner facet b with
    | none => misuse s word 1
    | some x =>
      if (s.hart.bar (barSlot k b)).arv = some x.cur then misuse s word 2
      else withRelease s (arrivalScope s k facet) 0 (next (arrive s k owner facet b x.cur) owner facet x.cur)

/-- The release time of the current hart for a completed generation, if it is still to come or has come in a window that is kept
(R337, R342). -/
def myRelease (s : State) (x : Barrier) (t : BitVec 32) : Option ReleaseAt :=
  (x.windows.find? (fun w => w.gen == t)).bind (fun w =>
    (w.release.find? (fun r => r.1 == s.hart.id.ref)).bind (fun r => r.2))

/-- The release time of the current hart for a completed generation has come. -/
def released (s : State) (x : Barrier) (t : BitVec 32) : Bool := ((myRelease s x t).map (fun a => a.come s)).getD true

/-- The barrier unit may resume a waiter now: the phase it resumed last on the facet is the waiter's own, or lies EFFSP lane
cycles back (R345). -/
def phaseSpaced (s : State) (k : BarKind) (a : Option ReleaseAt) : Bool :=
  match k, a with
  | .team, _ | _, none => true
  | _, some x =>
    match (s.power.gov[x.facet]?).bind (fun g => g.phase), s.power.plan[x.facet]? with
    | some (l, t), some p => l == x || decide (t + 1000 * p.effsp.toNat ≤ laneClock s x.facet)
    | _, _ => true

/-- The barrier unit resumes a waiter of a phase now (R345). -/
def markPhase (s : State) (k : BarKind) (a : Option ReleaseAt) : State :=
  match k, a with
  | .team, _ | _, none => s
  | _, some x =>
    match s.power.gov[x.facet]? with
    | none => s
    | some g =>
      { s with power := { s.power with gov := vset s.power.gov x.facet { g with phase := some (x, laneClock s x.facet) } } }

/-- The effect of `bar.wt` on a token: its checks and its wait; `next` receives CUR at the moment of return (R337). A waiter is resumed
by the barrier unit, phase by phase (R345): one that has waited, or, `fresh`, has just arrived. -/
def waitingGen (s : State) (word : Nat) (k : BarKind) (owner facet b : Nat) (t : BitVec 32) (fresh : Bool)
    (next : State → BitVec 32 → Out) : Out :=
  match barrierOf s k owner facet b with
  | none => misuse s word 1
  | some x =>
    let slot := barSlot k b
    let d := x.cur - t
    if d = 0 && (s.hart.bar slot).arv != some t then misuse s word 3
    else if 2 ^ 31 ≤ d.toNat then misuse s word 4
    else
      let held := fresh || s.hart.wait == .barrier slot t
      let at_ := myRelease s x t
      if d = 0 || !released s x t || (held && !phaseSpaced s k at_) then waiting s (.barrier slot t)
      else
        let mine := s.hart.bar slot
        let h := if mine.arv = some t then s.hart.setBar slot { mine with owed := false } else s.hart
        let s1 := (if held then markPhase s k at_ else s).withHart { h with wait := .none }
        next (tryComplete s1 k owner facet b) x.cur

/-- `bar.arv` (R336). -/
def execBarArv (d : GReg) (n : BitVec 3) (sc : Scope) (s : State) : Out :=
  arriving s (barWord 1 d 0 n sc) (BarKind.ofScope sc) n.toNat (fun s' _ _ cur => writeNext s' d (zext64 cur))

/-- `bar.wt` (R337). A scope without a barrier of this hart raises reason 1 before reason 4 is tested, which R337 and R339 leave open
(DESIGN CHOICE, log 15). -/
def execBarWt (d a : GReg) (n : BitVec 3) (sc : Scope) (s : State) : Out :=
  let word := barWord 2 d a n sc
  let k := BarKind.ofScope sc
  match myBarrier s k with
  | none => misuse s word 1
  | some (owner, facet) =>
    if (s.g a).toNat / 2 ^ 32 ≠ 0 then misuse s word 4
    else waitingGen s word k owner facet n.toNat ((s.g a).setWidth 32) false (fun s' cur => writeNext s' d (zext64 cur))

/-- `bar.sy` (R338). -/
def execBarSy (d : GReg) (n : BitVec 3) (sc : Scope) (s : State) : Out :=
  let word := barWord 3 d 0 n sc
  let k := BarKind.ofScope sc
  let wait := fun (fresh : Bool) (s' : State) (owner facet : Nat) (t : BitVec 32) =>
    waitingGen s' word k owner facet n.toNat t fresh (fun s'' _ => writeNext s'' d (zext64 t))
  match myBarrier s k with
  | none => misuse s word 1
  | some (owner, facet) =>
    match s.hart.bar (barSlot k n.toNat) with
    | { arv := some t, owed := true } => wait false s owner facet t
    | _ => arriving s word k n.toNat (wait true)

/-! ## Leaving at the end of a handler (R334) -/

/-- Leave one barrier: the hart arrives at the current generation, which may complete, and later ones do not count it. -/
def leaveOne (s : State) (k : BarKind) (owner facet b : Nat) : State :=
  let gone := fun (l : List HartRef) => l.filter (fun r => r != s.hart.id.ref)
  let s1 := updBarrier s k owner facet b (fun x =>
    { x with members := gone x.members, arrived := gone x.arrived, left := s.hart.id.facet :: x.left })
  tryComplete s1 k owner facet b

/-- Leave every barrier of the current hart's team and farm (R334). -/
def leaveBarriers (s : State) : State :=
  let leave := fun (s : State) (k : BarKind) =>
    match myBarrier s k with
    | none => s
    | some (owner, facet) => (List.range 8).foldl (fun s b => leaveOne s k owner facet b) s
  [BarKind.team, .facet, .package].foldl leave s

/-! ## Stops (R344) -/

/-- The harts of a team are stopped or moved: they hold none of the barrier's windows open by their waits. -/
def Barrier.noteOut (b : Barrier) (uid : Nat) : Barrier :=
  { b with windows := b.windows.map (fun w => { w with out := (w.release.map (fun r => r.1)).filter (fun r => r.team == uid) ++ w.out }) }

/-- The same for every barrier of the team and of its farm. -/
def noteOut (s : State) (uid : Nat) : State :=
  match s.team? uid with
  | none => s
  | some t =>
    let note := fun (b : Barrier) => b.noteOut uid
    (s.updTeam uid (fun x => { x with bars := x.bars.map note })).updFarm t.farm (fun f =>
      { f with pkg := f.pkg.map note, fac := f.fac.map (fun row => row.map note) })

/-! ## Events -/

/-- BARRIER_COMPLETE: a generation completes at the first moment R344 allows (R334, R344). -/
def execBarrierComplete (kind : BarKind) (owner facet : Nat) (b : BitVec 3) (s : State) : Out :=
  .next (tryComplete s kind owner facet b.toNat)

/-- The kind of a hart's barrier by its number among the 24. -/
def slotKind (slot : Nat) : BarKind := if slot < 8 then .team else if slot < 16 then .facet else .package

/-- The current hart waits for a generation that has completed: the barrier's kind, its owner, its facet, its number, and the hart's
release time (R342). -/
def phaseWait (s : State) : Option (BarKind × Nat × Nat × Nat × Option ReleaseAt) :=
  match s.hart.wait with
  | .barrier slot gen =>
    (myBarrier s (slotKind slot)).bind (fun o =>
      (barrierOf s (slotKind slot) o.1 o.2 (slot % 8)).bind (fun x =>
        if x.cur != gen && released s x gen then some (slotKind slot, o.1, o.2, slot % 8, myRelease s x gen) else none))
  | _ => none

/-- BARRIER_PHASE_RELEASE: a waiter's release time arrives and it resumes, its phase apart from the one resumed before; its wait
returns when it next issues (R342, R345). -/
def execBarrierPhaseRelease (r : HartRef) (s : State) : Out :=
  match s.activate r with
  | none => .next s
  | some s1 =>
    match phaseWait s1 with
    | some (k, owner, facet, b, at_) =>
      if !isOut s1 r && phaseSpaced s1 k at_ then .next (tryComplete ((markPhase s1 k at_).waitFor .none) k owner facet b)
      else .next s
    | none => .next s

/-- The phase plan with one doubleword written; a write with SPACING outside 8 .. 256 is ignored whole (R341). -/
def PhasePlan.write (p : PhasePlan) (dw : Nat) (v : Word) : PhasePlan :=
  match dw with
  | 0 =>
    let sp : BitVec 9 := v.extractLsb' 8 9
    if 8 ≤ sp.toNat && sp.toNat ≤ 256 then { p with nph := v.setWidth 4, spacing := sp } else p
  | 1 => { p with phlo := v }
  | 2 => { p with phhi := v }
  | _ => p

/-- PHASE_PLAN_WRITE: the plan is written; it takes effect at the next completion with no window open (R341). -/
def phasePlanWrite (s : State) (facet dw : Nat) (v : Word) : State :=
  match s.power.plan[facet]? with
  | none => s
  | some p => { s with power := { s.power with plan := vset s.power.plan facet (p.write dw v) } }

/-- PHASE_PLAN_WRITE (R341). -/
def execPhasePlanWrite (facet dw : Nat) (value : Word) (s : State) : Out := ifTaken s (phasePlanWrite s facet dw value)

/-! ## The strip dispenser -/

/-- The farm of the current hart. -/
def State.myFarm? (s : State) : Option Farm := (s.team? s.hart.id.ref.team).bind (fun t => s.farm? t.farm)

/-- A dispenser of a farm. -/
def Farm.dispenser (f : Farm) (n : Nat) : Dispenser := vget f.disp n { next := 0, limit := 0 }

/-- Change a dispenser. -/
def State.setDispenser (s : State) (uid n : Nat) (d : Dispenser) : State :=
  s.updFarm uid (fun f => { f with disp := vset f.disp n d })

/-- The dispenser of the current hart's farm; an unset one where the hart has no farm. -/
def State.myDispenser (s : State) (n : Nat) : Dispenser := (s.myFarm?.map (fun f => f.dispenser n)).getD { next := 0, limit := 0 }

/-- Write a dispenser of the current hart's farm. -/
def State.setMyDispenser (s : State) (n : Nat) (d : Dispenser) : State :=
  match s.myFarm? with
  | none => s
  | some f => s.setDispenser f.uid n d

/-- `strip gd, d` (R62, R346): take. -/
def execStripTake (d : GReg) (n : BitVec 3) (s : State) : Out :=
  let x := s.myDispenser n.toNat
  if x.next.toNat < x.limit.toNat then writeNext (s.setMyDispenser n.toNat { x with next := x.next + 1 }) d x.next
  else writeNext s d (BitVec.allOnes 64)

/-- `strip gd, gs, d` (R62, R346): declare. -/
def execStripDeclare (d a : GReg) (n : BitVec 3) (s : State) : Out :=
  let x := s.myDispenser n.toNat
  let left := x.limit.toNat - min x.next.toNat x.limit.toNat
  writeNext (s.setMyDispenser n.toNat { next := 0, limit := s.g a }) d (BitVec.ofNat 64 left)

end Sys2Proof.Machine
end

