-- ==== Sys2Proof/Machine/Integer.lean ====
section
/-! DEFINITION. Integer instructions: OP (R101 to R104), OPI (R105), LHI (R106), the long constants (R107). -/

namespace Sys2Proof.Machine

/-- A register-to-register operation (R101): both sources read, then gd written. -/
def opRR (f : Word → Word → Word) (d a b : GReg) (s : State) : Out := writeNext s d (f (s.g a) (s.g b))

/-- A one-source operation (R101). -/
def opR (f : Word → Word) (d a : GReg) (s : State) : Out := writeNext s d (f (s.g a))

/-- A register-immediate operation (R105), the immediate sign-extended. -/
def opRI (f : Word → Word → Word) (d a : GReg) (i : BitVec 11) (s : State) : Out := writeNext s d (f (s.g a) (sext64 i))

/-- A shift by a 6-bit immediate (R105). -/
def opShift (f : Word → Nat → Word) (d a : GReg) (i : BitVec 6) (s : State) : Out := writeNext s d (f (s.g a) i.toNat)

/-- Left shift; 64 or more shifts everything out (R103). -/
def shl (a : Word) (n : Nat) : Word := if n < 64 then a <<< n else 0

/-- Logical right shift; 64 or more shifts everything out (R103). -/
def shr (a : Word) (n : Nat) : Word := if n < 64 then a >>> n else 0

/-- Arithmetic right shift; 64 or more leaves the sign (R103). -/
def sar (a : Word) (n : Nat) : Word := if n < 64 then a.sshiftRight n else if a.msb then BitVec.allOnes 64 else 0

/-- Rotate right by the amount modulo 64 (R103). -/
def rotr (a : Word) (n : Nat) : Word :=
  let k := n % 64
  BitVec.ofNat 64 (a.toNat / 2 ^ k + a.toNat * 2 ^ (64 - k))

/-- Bits [127:64] of the signed product (R102). -/
def mulHigh (a b : Word) : Word := BitVec.ofInt 64 (a.toInt * b.toInt / 2 ^ 64)

/-- Bits [127:64] of the unsigned product (R102). -/
def mulHighU (a b : Word) : Word := BitVec.ofNat 64 (a.toNat * b.toNat / 2 ^ 64)

/-- Signed division towards zero with the edge results of R104. -/
def divS (a b : Word) : Word := if b = 0 then BitVec.allOnes 64 else BitVec.ofInt 64 (a.toInt.tdiv b.toInt)

/-- Unsigned division with the edge result of R104. -/
def divU (a b : Word) : Word := if b = 0 then BitVec.allOnes 64 else BitVec.ofNat 64 (a.toNat / b.toNat)

/-- Signed remainder with the dividend's sign (R104). -/
def remS (a b : Word) : Word := if b = 0 then a else BitVec.ofInt 64 (a.toInt - a.toInt.tdiv b.toInt * b.toInt)

/-- Unsigned remainder (R104). -/
def remU (a b : Word) : Word := if b = 0 then a else BitVec.ofNat 64 (a.toNat % b.toNat)

/-- The low 32 bits, sign-extended (R102). -/
def low32 (x : Word) : Word := sext64 (x.setWidth 32)

/-- Zero bits from the top bit of `w` down (R102). -/
def leadingZeros : Nat → Nat → Nat
  | 0, _ => 0
  | n + 1, x => if natBit x n then 0 else 1 + leadingZeros n x

/-- Zero bits from bit 0 up, `w` when there is no one (R102). -/
def trailingZeros : Nat → Nat → Nat
  | 0, _ => 0
  | n + 1, x => if x % 2 = 1 then 0 else 1 + trailingZeros n (x / 2)

/-- One bits among the low `n` (R102). -/
def popCount : Nat → Nat → Nat
  | 0, _ => 0
  | n + 1, x => x % 2 + popCount n (x / 2)

/-- Byte k of the result is byte `n - 1 - k` (R102). -/
def byteSwap : Nat → Nat → Nat
  | 0, _ => 0
  | n + 1, x => x % 256 * 256 ^ n + byteSwap n (x / 256)

/-- `add` (R102). -/
def execAdd (d a b : GReg) (s : State) : Out := opRR (fun a b => a + b) d a b s

/-- `sub` (R102). -/
def execSub (d a b : GReg) (s : State) : Out := opRR (fun a b => a - b) d a b s

/-- `and` (R102). -/
def execAnd (d a b : GReg) (s : State) : Out := opRR (fun a b => a &&& b) d a b s

/-- `or` (R102). -/
def execOr (d a b : GReg) (s : State) : Out := opRR (fun a b => a ||| b) d a b s

/-- `xor` (R102). -/
def execXor (d a b : GReg) (s : State) : Out := opRR (fun a b => a ^^^ b) d a b s

/-- `andn` (R102). -/
def execAndn (d a b : GReg) (s : State) : Out := opRR (fun a b => a &&& ~~~b) d a b s

/-- `sll` (R103). -/
def execSll (d a b : GReg) (s : State) : Out := opRR (fun a b => shl a b.toNat) d a b s

/-- `srl` (R103). -/
def execSrl (d a b : GReg) (s : State) : Out := opRR (fun a b => shr a b.toNat) d a b s

/-- `sra` (R103). -/
def execSra (d a b : GReg) (s : State) : Out := opRR (fun a b => sar a b.toNat) d a b s

/-- `rotr` (R103). -/
def execRotr (d a b : GReg) (s : State) : Out := opRR (fun a b => rotr a b.toNat) d a b s

/-- `slt` (R102). -/
def execSlt (d a b : GReg) (s : State) : Out := opRR (fun a b => boolWord (decide (a.toInt < b.toInt))) d a b s

/-- `sltu` (R102). -/
def execSltu (d a b : GReg) (s : State) : Out := opRR (fun a b => boolWord (decide (a.toNat < b.toNat))) d a b s

/-- `min` (R102). -/
def execMin (d a b : GReg) (s : State) : Out := opRR (fun a b => if a.toInt ≤ b.toInt then a else b) d a b s

/-- `max` (R102). -/
def execMax (d a b : GReg) (s : State) : Out := opRR (fun a b => if b.toInt ≤ a.toInt then a else b) d a b s

/-- `minu` (R102). -/
def execMinu (d a b : GReg) (s : State) : Out := opRR (fun a b => if a.toNat ≤ b.toNat then a else b) d a b s

/-- `maxu` (R102). -/
def execMaxu (d a b : GReg) (s : State) : Out := opRR (fun a b => if b.toNat ≤ a.toNat then a else b) d a b s

/-- `mul` (R102). -/
def execMul (d a b : GReg) (s : State) : Out := opRR (fun a b => a * b) d a b s

/-- `mulh` (R102). -/
def execMulh (d a b : GReg) (s : State) : Out := opRR (fun a b => mulHigh a b) d a b s

/-- `mulhu` (R102). -/
def execMulhu (d a b : GReg) (s : State) : Out := opRR (fun a b => mulHighU a b) d a b s

/-- `div` (R104). -/
def execDiv (d a b : GReg) (s : State) : Out := opRR (fun a b => divS a b) d a b s

/-- `divu` (R104). -/
def execDivu (d a b : GReg) (s : State) : Out := opRR (fun a b => divU a b) d a b s

/-- `rem` (R104). -/
def execRem (d a b : GReg) (s : State) : Out := opRR (fun a b => remS a b) d a b s

/-- `remu` (R104). -/
def execRemu (d a b : GReg) (s : State) : Out := opRR (fun a b => remU a b) d a b s

/-- `addw` (R102). -/
def execAddw (d a b : GReg) (s : State) : Out := opRR (fun a b => low32 (a + b)) d a b s

/-- `subw` (R102). -/
def execSubw (d a b : GReg) (s : State) : Out := opRR (fun a b => low32 (a - b)) d a b s

/-- `mulw` (R102). -/
def execMulw (d a b : GReg) (s : State) : Out := opRR (fun a b => low32 (a * b)) d a b s

/-- `clz` (R102). -/
def execClz (d a : GReg) (s : State) : Out := opR (fun a => BitVec.ofNat 64 (leadingZeros 64 a.toNat)) d a s

/-- `ctz` (R102). -/
def execCtz (d a : GReg) (s : State) : Out := opR (fun a => BitVec.ofNat 64 (trailingZeros 64 a.toNat)) d a s

/-- `popc` (R102). -/
def execPopc (d a : GReg) (s : State) : Out := opR (fun a => BitVec.ofNat 64 (popCount 64 a.toNat)) d a s

/-- `bswap` (R102). -/
def execBswap (d a : GReg) (s : State) : Out := opR (fun a => BitVec.ofNat 64 (byteSwap 8 a.toNat)) d a s

/-- `sxb` (R102). -/
def execSxb (d a : GReg) (s : State) : Out := opR (fun a => sext64 (a.setWidth 8)) d a s

/-- `sxh` (R102). -/
def execSxh (d a : GReg) (s : State) : Out := opR (fun a => sext64 (a.setWidth 16)) d a s

/-- `sxw` (R102). -/
def execSxw (d a : GReg) (s : State) : Out := opR (fun a => sext64 (a.setWidth 32)) d a s

/-- `zxw` (R102). -/
def execZxw (d a : GReg) (s : State) : Out := opR (fun a => zext64 (a.setWidth 32)) d a s

/-- `addi` (R105). -/
def execAddi (d a : GReg) (i : BitVec 11) (s : State) : Out := opRI (fun a i => a + i) d a i s

/-- `andi` (R105). -/
def execAndi (d a : GReg) (i : BitVec 11) (s : State) : Out := opRI (fun a i => a &&& i) d a i s

/-- `ori` (R105). -/
def execOri (d a : GReg) (i : BitVec 11) (s : State) : Out := opRI (fun a i => a ||| i) d a i s

/-- `xori` (R105). -/
def execXori (d a : GReg) (i : BitVec 11) (s : State) : Out := opRI (fun a i => a ^^^ i) d a i s

/-- `slti` (R105). -/
def execSlti (d a : GReg) (i : BitVec 11) (s : State) : Out := opRI (fun a i => boolWord (decide (a.toInt < i.toInt))) d a i s

/-- `slli` (R105). -/
def execSlli (d a : GReg) (i : BitVec 6) (s : State) : Out := opShift shl d a i s

/-- `srli` (R105). -/
def execSrli (d a : GReg) (i : BitVec 6) (s : State) : Out := opShift shr d a i s

/-- `srai` (R105). -/
def execSrai (d a : GReg) (i : BitVec 6) (s : State) : Out := opShift sar d a i s

/-- `lhi` (R106): the immediate shifted left by 11. -/
def execLhi (d : GReg) (i : BitVec 20) (s : State) : Out := writeNext s d (sext64 i <<< 11)

/-- `li.l` (R107). -/
def execLiL (d : GReg) (i : BitVec 42) (s : State) : Out := .next ((s.setG d (sext64 i)).advance 8)

/-- `addi.l` (R107). -/
def execAddiL (d a : GReg) (i : BitVec 36) (s : State) : Out := .next ((s.setG d (s.g a + sext64 i)).advance 8)

end Sys2Proof.Machine
end

