-- ==== Sys2Proof/Machine/ScalarFp.lean ====
section
/-! DEFINITION. Scalar floating point: FOP (R112 to R121). -/

namespace Sys2Proof.Machine

/-- A scalar operand: FP32 from bits [31:0], FP64 from all 64 (R112). -/
def fpPattern (f : Fmt) (x : Word) : Nat := x.toNat % 2 ^ width f

/-- The value of a scalar operand. -/
def fpOperand (f : Fmt) (s : State) (r : GReg) : FpVal := unpack f (fpPattern f (s.g r))

/-- A two-operand arithmetic instruction (R116). -/
def fopBinary (f : Fmt) (op : Fmt → Rounding → FpVal → FpVal → FpRes) (d a b : GReg) (s : State) : Out :=
  writeFlagged s d (op f (scalarRounding s) (fpOperand f s a) (fpOperand f s b))

/-- a − b: a + (−b) (R116). -/
def fpSubV (f : Fmt) (rd : Rounding) (a b : FpVal) : FpRes := fpAddV f rd a b.negate

/-- Square root (R116). -/
def fopSqrt (f : Fmt) (d a : GReg) (s : State) : Out :=
  writeFlagged s d (fpSqrtV f (scalarRounding s) (fpOperand f s a))

/-- Minimum or maximum (R117). -/
def fopMinMax (f : Fmt) (wantMax : Bool) (d a b : GReg) (s : State) : Out :=
  writeFlagged s d (fpMinMax f wantMax (fpPattern f (s.g a)) (fpPattern f (s.g b)))

/-- Fused multiply-add into gd (R113, R116). -/
def fopMac (f : Fmt) (d a b : GReg) (s : State) : Out :=
  writeFlagged s d (fpFmaV f (scalarRounding s) (fpOperand f s a) (fpOperand f s b) (fpOperand f s d))

/-- Replace the sign bit and copy the rest; no flag (R115). -/
def fopSign (f : Fmt) (flip : Bool) (d a : GReg) (s : State) : Out :=
  let x := fpPattern f (s.g a)
  let top := 2 ^ (width f - 1)
  writeNext s d (BitVec.ofNat 64 (if flip then (x + top) % 2 ^ width f else x % top))

/-- A compare (R118). -/
def fopCompare (f : Fmt) (ordering : Bool) (test : Int → Bool) (d a b : GReg) (s : State) : Out :=
  let r := fpRelation ordering test (fpOperand f s a) (fpOperand f s b)
  writeFlagged s d ((boolWord r.1).toNat, r.2)

/-- The class mask (R119). -/
def fopClass (f : Fmt) (d a : GReg) (s : State) : Out := writeNext s d (BitVec.ofNat 64 (fpClass f (fpPattern f (s.g a))))

/-- Float to float (R120). -/
def fopConvert (src dst : Fmt) (d a : GReg) (s : State) : Out :=
  writeFlagged s d (cvtFloat src dst (scalarRounding s) false (fpPattern src (s.g a)))

/-- Float to a signed 64-bit integer (R120). -/
def fopToInt (src : Fmt) (d a : GReg) (s : State) : Out :=
  writeFlagged s d (cvtToInt src .i64 (scalarRounding s) (fpPattern src (s.g a)))

/-- A signed 64-bit integer to float (R120). -/
def fopFromInt (dst : Fmt) (d a : GReg) (s : State) : Out :=
  writeFlagged s d (cvtFromInt dst (scalarRounding s) false (s.g a).toInt)

/-- `fadd.s` (R116). -/
def execFaddS (d a b : GReg) (s : State) : Out := fopBinary .fp32 fpAddV d a b s

/-- `fadd.d` (R116). -/
def execFaddD (d a b : GReg) (s : State) : Out := fopBinary .fp64 fpAddV d a b s

/-- `fsub.s` (R116). -/
def execFsubS (d a b : GReg) (s : State) : Out := fopBinary .fp32 fpSubV d a b s

/-- `fsub.d` (R116). -/
def execFsubD (d a b : GReg) (s : State) : Out := fopBinary .fp64 fpSubV d a b s

/-- `fmul.s` (R116). -/
def execFmulS (d a b : GReg) (s : State) : Out := fopBinary .fp32 fpMulV d a b s

/-- `fmul.d` (R116). -/
def execFmulD (d a b : GReg) (s : State) : Out := fopBinary .fp64 fpMulV d a b s

/-- `fdiv.s` (R116). -/
def execFdivS (d a b : GReg) (s : State) : Out := fopBinary .fp32 fpDivV d a b s

/-- `fdiv.d` (R116). -/
def execFdivD (d a b : GReg) (s : State) : Out := fopBinary .fp64 fpDivV d a b s

/-- `fsqrt.s` (R116). -/
def execFsqrtS (d a : GReg) (s : State) : Out := fopSqrt .fp32 d a s

/-- `fsqrt.d` (R116). -/
def execFsqrtD (d a : GReg) (s : State) : Out := fopSqrt .fp64 d a s

/-- `fmin.s` (R117). -/
def execFminS (d a b : GReg) (s : State) : Out := fopMinMax .fp32 false d a b s

/-- `fmin.d` (R117). -/
def execFminD (d a b : GReg) (s : State) : Out := fopMinMax .fp64 false d a b s

/-- `fmax.s` (R117). -/
def execFmaxS (d a b : GReg) (s : State) : Out := fopMinMax .fp32 true d a b s

/-- `fmax.d` (R117). -/
def execFmaxD (d a b : GReg) (s : State) : Out := fopMinMax .fp64 true d a b s

/-- `fmac.s` (R116). -/
def execFmacS (d a b : GReg) (s : State) : Out := fopMac .fp32 d a b s

/-- `fmac.d` (R116). -/
def execFmacD (d a b : GReg) (s : State) : Out := fopMac .fp64 d a b s

/-- `fneg.s` (R115). -/
def execFnegS (d a : GReg) (s : State) : Out := fopSign .fp32 true d a s

/-- `fneg.d` (R115). -/
def execFnegD (d a : GReg) (s : State) : Out := fopSign .fp64 true d a s

/-- `fabs.s` (R115). -/
def execFabsS (d a : GReg) (s : State) : Out := fopSign .fp32 false d a s

/-- `fabs.d` (R115). -/
def execFabsD (d a : GReg) (s : State) : Out := fopSign .fp64 false d a s

/-- `feq.s` (R118). -/
def execFeqS (d a b : GReg) (s : State) : Out := fopCompare .fp32 false (fun c => c == 0) d a b s

/-- `feq.d` (R118). -/
def execFeqD (d a b : GReg) (s : State) : Out := fopCompare .fp64 false (fun c => c == 0) d a b s

/-- `flt.s` (R118). -/
def execFltS (d a b : GReg) (s : State) : Out := fopCompare .fp32 true (fun c => decide (c < 0)) d a b s

/-- `flt.d` (R118). -/
def execFltD (d a b : GReg) (s : State) : Out := fopCompare .fp64 true (fun c => decide (c < 0)) d a b s

/-- `fle.s` (R118). -/
def execFleS (d a b : GReg) (s : State) : Out := fopCompare .fp32 true (fun c => decide (c ≤ 0)) d a b s

/-- `fle.d` (R118). -/
def execFleD (d a b : GReg) (s : State) : Out := fopCompare .fp64 true (fun c => decide (c ≤ 0)) d a b s

/-- `fclass.s` (R119). -/
def execFclassS (d a : GReg) (s : State) : Out := fopClass .fp32 d a s

/-- `fclass.d` (R119). -/
def execFclassD (d a : GReg) (s : State) : Out := fopClass .fp64 d a s

/-- `fcvt.s.d` (R120). -/
def execFcvtSD (d a : GReg) (s : State) : Out := fopConvert .fp64 .fp32 d a s

/-- `fcvt.d.s` (R120). -/
def execFcvtDS (d a : GReg) (s : State) : Out := fopConvert .fp32 .fp64 d a s

/-- `fcvt.l.s` (R120). -/
def execFcvtLS (d a : GReg) (s : State) : Out := fopToInt .fp32 d a s

/-- `fcvt.l.d` (R120). -/
def execFcvtLD (d a : GReg) (s : State) : Out := fopToInt .fp64 d a s

/-- `fcvt.s.l` (R120). -/
def execFcvtSL (d a : GReg) (s : State) : Out := fopFromInt .fp32 d a s

/-- `fcvt.d.l` (R120). -/
def execFcvtDL (d a : GReg) (s : State) : Out := fopFromInt .fp64 d a s

end Sys2Proof.Machine
end

