-- ==== Sys2Proof/Machine/VecArith.lean ====
section
/-! DEFINITION. Element arithmetic: VOP, VOPX and VOPI (R195 to R200). -/

namespace Sys2Proof.Machine

/-! ## Tag sets (R196) -/

/-- A: every format except NONE. -/
def tagA (f : Fmt) : Bool := f != .none

/-- S: the I formats and the floating-point formats. -/
def tagS (f : Fmt) : Bool := isSigned f || isFloat f

/-- H: FP16, BF16 and FP32. -/
def tagH (f : Fmt) : Bool := f == .fp16 || f == .bf16 || f == .fp32

/-! ## Element functions (R197, R198) -/

/-- An integer result modulo 2^w; no flag (R197). -/
def intRes (f : Fmt) (x : Int) : FpRes := (intPat (width f) x, 0)

/-- An operation of two elements: on integers, or on floating-point values. -/
def elemOp (gi : Int → Int → Int) (gf : Fmt → Rounding → FpVal → FpVal → FpRes) (f : Fmt) (rd : Rounding) (a b : Nat) :
    FpRes :=
  if isFloat f then gf f rd (unpack f a) (unpack f b) else intRes f (gi (intVal f a) (intVal f b))

/-- a + b. -/
def elemAdd : Fmt → Rounding → Nat → Nat → FpRes := elemOp (fun a b => a + b) fpAddV

/-- a − b. -/
def elemSub : Fmt → Rounding → Nat → Nat → FpRes := elemOp (fun a b => a - b) fpSubV

/-- a × b. -/
def elemMul : Fmt → Rounding → Nat → Nat → FpRes := elemOp (fun a b => a * b) fpMulV

/-- a / b; an integer division by zero gives all ones, and the quotient truncates (R197). -/
def elemDiv : Fmt → Rounding → Nat → Nat → FpRes := elemOp (fun a b => if b = 0 then -1 else a.tdiv b) fpDivV

/-- The smaller or larger of two elements (R117, R197). -/
def elemMinMax (wantMax : Bool) (f : Fmt) (_ : Rounding) (a b : Nat) : FpRes :=
  if isFloat f then fpMinMax f wantMax a b
  else if (decide (intVal f a < intVal f b)) != wantMax then (a, 0) else (b, 0)

/-- The fused forms: `na` negates the product, `nc` the addend (R197, R198). -/
def elemFused (na nc : Bool) (f : Fmt) (rd : Rounding) (a b c : Nat) : FpRes :=
  if isFloat f then
    let x := unpack f a
    let y := unpack f c
    fpFmaV f rd (if na then x.negate else x) (unpack f b) (if nc then y.negate else y)
  else
    let m := intVal f a * intVal f b
    intRes f ((if na then -m else m) + (if nc then -intVal f c else intVal f c))

/-- abs(a): the sign bit cleared in a floating-point format (R197, R198). -/
def elemAbs (f : Fmt) (_ : Rounding) (a : Nat) : FpRes :=
  if isFloat f then (a % 2 ^ (width f - 1), 0) else intRes f (intVal f a).natAbs

/-- −a: the sign bit flipped in a floating-point format (R197, R198). -/
def elemNeg (f : Fmt) (_ : Rounding) (a : Nat) : FpRes :=
  if isFloat f then ((a + 2 ^ (width f - 1)) % 2 ^ width f, 0) else intRes f (-intVal f a)

/-- √a (R198). -/
def elemSqrt (f : Fmt) (rd : Rounding) (a : Nat) : FpRes := fpSqrtV f rd (unpack f a)

/-- A bitwise operation. -/
def elemBits (g : Nat → Nat → Nat) (_ : Fmt) (_ : Rounding) (a b : Nat) : FpRes := (g a b, 0)

/-- a shifted left by n (R197). -/
def elemSll (f : Fmt) (_ : Rounding) (a n : Nat) : FpRes := (if n < width f then a * 2 ^ n % 2 ^ width f else 0, 0)

/-- a shifted right by n, zeros entering (R197). -/
def elemSrl (f : Fmt) (_ : Rounding) (a n : Nat) : FpRes := (if n < width f then a / 2 ^ n else 0, 0)

/-- a shifted right by n, its top bit entering whatever the tag (R197). -/
def elemSra (f : Fmt) (_ : Rounding) (a n : Nat) : FpRes :=
  let w := width f
  let neg := 2 ^ (w - 1) ≤ a
  let v : Int := if neg then (a : Int) - (2 ^ w : Nat) else a
  if n < w then (intPat w (v / (2 ^ n : Nat)), 0) else (if neg then 2 ^ w - 1 else 0, 0)

/-- The high half of the 2w-bit product (R197). -/
def elemMulh (f : Fmt) (_ : Rounding) (a b : Nat) : FpRes := intRes f (intVal f a * intVal f b / (2 ^ width f : Nat))

/-- The exact sum or difference, clamped to the range of the format (R197). -/
def elemSat (g : Int → Int → Int) (f : Fmt) (_ : Rounding) (a b : Nat) : FpRes :=
  intRes f (clampInt (intMin f) (intMax f) (g (intVal f a) (intVal f b)))

/-- A function of R181, always rounded to nearest even. -/
def elemFun (g : Fmt → FpVal → FpRes) (f : Fmt) (_ : Rounding) (a : Nat) : FpRes := g f (unpack f a)

/-! ## The shapes of VOP, VOPX and VOPI -/

/-- The dynamic mode of the vector stream (R170). -/
def Hart.mode (h : Hart) : Rnd := Rnd.ofFrm h.sc.frm

/-- Two vector sources (R196). `sr`: the code rounds stochastically under FRM = SR (R194). -/
def vopBinary (set : Fmt → Bool) (f : Fmt → Rounding → Nat → Nat → FpRes) (sr : Bool) (d a b : VReg) (p : PReg) (z : Bool)
    (e : VqEntry) (s : State) : HeadRes :=
  let h := s.hart
  let t := h.tag a
  let w := width t
  runVec s e d t (h.tag b)
    { ok := set t && h.tag b == t, fmt := t, zero := z, pred := p
      result := fun j => f t (vecRounding h h.mode j) ((h.reg a).elem w j) ((h.reg b).elem w j)
      stochastic := sr && isFloat t && h.mode == .sr }

/-- A vector and a scalar source (R192); `whole` takes all 64 bits of the register. -/
def vopScalar (set : Fmt → Bool) (whole : Bool) (f : Fmt → Rounding → Nat → Nat → FpRes) (sr : Bool) (d a : VReg)
    (p : PReg) (z : Bool) (e : VqEntry) (s : State) : HeadRes :=
  let h := s.hart
  let t := h.tag a
  let w := width t
  let x := if whole then e.opa.toNat else lowBits e.opa w
  runVec s e d t .none
    { ok := set t, fmt := t, zero := z, pred := p
      result := fun j => f t (vecRounding h h.mode j) ((h.reg a).elem w j) x
      stochastic := sr && isFloat t && h.mode == .sr }

/-- A fused form with two vector sources and vd (R196). -/
def vopFused (f : Fmt → Rounding → Nat → Nat → Nat → FpRes) (d a b : VReg) (p : PReg) (z : Bool) (e : VqEntry)
    (s : State) : HeadRes :=
  let h := s.hart
  let t := h.tag a
  let w := width t
  runVec s e d t (h.tag b)
    { ok := tagA t && h.tag b == t && h.tag d == t, fmt := t, zero := z, pred := p
      result := fun j =>
        f t (vecRounding h h.mode j) ((h.reg a).elem w j) ((h.reg b).elem w j) ((h.reg d).elem w j)
      stochastic := isFloat t && h.mode == .sr }

/-- A fused form with a vector and a scalar source and vd (R192, R196). -/
def vopFusedX (f : Fmt → Rounding → Nat → Nat → Nat → FpRes) (d a : VReg) (p : PReg) (z : Bool) (e : VqEntry)
    (s : State) : HeadRes :=
  let h := s.hart
  let t := h.tag a
  let w := width t
  runVec s e d t .none
    { ok := tagA t && h.tag d == t, fmt := t, zero := z, pred := p
      result := fun j =>
        f t (vecRounding h h.mode j) ((h.reg a).elem w j) (lowBits e.opa w) ((h.reg d).elem w j)
      stochastic := isFloat t && h.mode == .sr }

/-- One vector source (R196). -/
def vopUnary (set : Fmt → Bool) (f : Fmt → Rounding → Nat → FpRes) (sr : Bool) (d a : VReg) (p : PReg) (z : Bool)
    (e : VqEntry) (s : State) : HeadRes :=
  let h := s.hart
  let t := h.tag a
  let w := width t
  runVec s e d t .none
    { ok := set t, fmt := t, zero := z, pred := p
      result := fun j => f t (vecRounding h h.mode j) ((h.reg a).elem w j)
      stochastic := sr && isFloat t && h.mode == .sr }

/-- `vsel`: every body element from one of two sources (R199). -/
def vopSelect (d a : VReg) (tb : Fmt) (b : Nat → Nat) (p : PReg) (same : Bool) (e : VqEntry) (s : State) : HeadRes :=
  let h := s.hart
  let t := h.tag a
  let w := width t
  runVec s e d t tb
    { ok := tagA t && same, fmt := t, zero := false, pred := 0
      result := fun j => (if h.pbit p j then (h.reg a).elem w j else b j, 0) }

/-- A vector source and an 8-bit immediate (R200). -/
def vopImm (f : Fmt → Rounding → Nat → Nat → FpRes) (operand : Nat → Nat) (d a : VReg) (p : PReg) (z : Bool) (e : VqEntry)
    (s : State) : HeadRes :=
  let h := s.hart
  let t := h.tag a
  let w := width t
  runVec s e d t .none
    { ok := isInt t, fmt := t, zero := z, pred := p
      result := fun j => f t (vecRounding h h.mode j) ((h.reg a).elem w j) (operand w) }

/-- The sign-extended immediate at width w (R200). -/
def immBits (i : BitVec 8) (w : Nat) : Nat := (sext64 i).toNat % 2 ^ w

/-! ## VOP -/

/-- `vadd` at issue (R196). -/
def execVadd (d a b : VReg) (p : PReg) (z : Bool) (s : State) : Out := issue (.vadd d a b p z) 0 0 s

/-- `vadd` at the head of the queue (R196). -/
def headVadd (d a b : VReg) (p : PReg) (z : Bool) (e : VqEntry) (s : State) : HeadRes :=
  vopBinary tagA elemAdd true d a b p z e s

/-- `vsub` at issue (R196). -/
def execVsub (d a b : VReg) (p : PReg) (z : Bool) (s : State) : Out := issue (.vsub d a b p z) 0 0 s

/-- `vsub` at the head of the queue (R196). -/
def headVsub (d a b : VReg) (p : PReg) (z : Bool) (e : VqEntry) (s : State) : HeadRes :=
  vopBinary tagA elemSub true d a b p z e s

/-- `vmul` at issue (R196). -/
def execVmul (d a b : VReg) (p : PReg) (z : Bool) (s : State) : Out := issue (.vmul d a b p z) 0 0 s

/-- `vmul` at the head of the queue (R196). -/
def headVmul (d a b : VReg) (p : PReg) (z : Bool) (e : VqEntry) (s : State) : HeadRes :=
  vopBinary tagA elemMul true d a b p z e s

/-- `vdiv` at issue (R196). -/
def execVdiv (d a b : VReg) (p : PReg) (z : Bool) (s : State) : Out := issue (.vdiv d a b p z) 0 0 s

/-- `vdiv` at the head of the queue (R196). -/
def headVdiv (d a b : VReg) (p : PReg) (z : Bool) (e : VqEntry) (s : State) : HeadRes :=
  vopBinary tagA elemDiv true d a b p z e s

/-- `vmin` at issue (R196). -/
def execVmin (d a b : VReg) (p : PReg) (z : Bool) (s : State) : Out := issue (.vmin d a b p z) 0 0 s

/-- `vmin` at the head of the queue (R196). -/
def headVmin (d a b : VReg) (p : PReg) (z : Bool) (e : VqEntry) (s : State) : HeadRes :=
  vopBinary tagA (elemMinMax false) false d a b p z e s

/-- `vmax` at issue (R196). -/
def execVmax (d a b : VReg) (p : PReg) (z : Bool) (s : State) : Out := issue (.vmax d a b p z) 0 0 s

/-- `vmax` at the head of the queue (R196). -/
def headVmax (d a b : VReg) (p : PReg) (z : Bool) (e : VqEntry) (s : State) : HeadRes :=
  vopBinary tagA (elemMinMax true) false d a b p z e s

/-- `vand` at issue (R196). -/
def execVand (d a b : VReg) (p : PReg) (z : Bool) (s : State) : Out := issue (.vand d a b p z) 0 0 s

/-- `vand` at the head of the queue (R196). -/
def headVand (d a b : VReg) (p : PReg) (z : Bool) (e : VqEntry) (s : State) : HeadRes :=
  vopBinary isInt (elemBits (fun a b => a &&& b)) false d a b p z e s

/-- `vor` at issue (R196). -/
def execVor (d a b : VReg) (p : PReg) (z : Bool) (s : State) : Out := issue (.vor d a b p z) 0 0 s

/-- `vor` at the head of the queue (R196). -/
def headVor (d a b : VReg) (p : PReg) (z : Bool) (e : VqEntry) (s : State) : HeadRes :=
  vopBinary isInt (elemBits (fun a b => a ||| b)) false d a b p z e s

/-- `vxor` at issue (R196). -/
def execVxor (d a b : VReg) (p : PReg) (z : Bool) (s : State) : Out := issue (.vxor d a b p z) 0 0 s

/-- `vxor` at the head of the queue (R196). -/
def headVxor (d a b : VReg) (p : PReg) (z : Bool) (e : VqEntry) (s : State) : HeadRes :=
  vopBinary isInt (elemBits (fun a b => a ^^^ b)) false d a b p z e s

/-- `vsll` at issue (R196). -/
def execVsll (d a b : VReg) (p : PReg) (z : Bool) (s : State) : Out := issue (.vsll d a b p z) 0 0 s

/-- `vsll` at the head of the queue (R196). -/
def headVsll (d a b : VReg) (p : PReg) (z : Bool) (e : VqEntry) (s : State) : HeadRes :=
  vopBinary isInt elemSll false d a b p z e s

/-- `vsrl` at issue (R196). -/
def execVsrl (d a b : VReg) (p : PReg) (z : Bool) (s : State) : Out := issue (.vsrl d a b p z) 0 0 s

/-- `vsrl` at the head of the queue (R196). -/
def headVsrl (d a b : VReg) (p : PReg) (z : Bool) (e : VqEntry) (s : State) : HeadRes :=
  vopBinary isInt elemSrl false d a b p z e s

/-- `vsra` at issue (R196). -/
def execVsra (d a b : VReg) (p : PReg) (z : Bool) (s : State) : Out := issue (.vsra d a b p z) 0 0 s

/-- `vsra` at the head of the queue (R196). -/
def headVsra (d a b : VReg) (p : PReg) (z : Bool) (e : VqEntry) (s : State) : HeadRes :=
  vopBinary isInt elemSra false d a b p z e s

/-- `vmulh` at issue (R196). -/
def execVmulh (d a b : VReg) (p : PReg) (z : Bool) (s : State) : Out := issue (.vmulh d a b p z) 0 0 s

/-- `vmulh` at the head of the queue (R196). -/
def headVmulh (d a b : VReg) (p : PReg) (z : Bool) (e : VqEntry) (s : State) : HeadRes :=
  vopBinary isInt elemMulh false d a b p z e s

/-- `vsadd` at issue (R196). -/
def execVsadd (d a b : VReg) (p : PReg) (z : Bool) (s : State) : Out := issue (.vsadd d a b p z) 0 0 s

/-- `vsadd` at the head of the queue (R196). -/
def headVsadd (d a b : VReg) (p : PReg) (z : Bool) (e : VqEntry) (s : State) : HeadRes :=
  vopBinary isInt (elemSat (fun a b => a + b)) false d a b p z e s

/-- `vssub` at issue (R196). -/
def execVssub (d a b : VReg) (p : PReg) (z : Bool) (s : State) : Out := issue (.vssub d a b p z) 0 0 s

/-- `vssub` at the head of the queue (R196). -/
def headVssub (d a b : VReg) (p : PReg) (z : Bool) (e : VqEntry) (s : State) : HeadRes :=
  vopBinary isInt (elemSat (fun a b => a - b)) false d a b p z e s

/-- `vfma` at issue (R196). -/
def execVfma (d a b : VReg) (p : PReg) (z : Bool) (s : State) : Out := issue (.vfma d a b p z) 0 0 s

/-- `vfma` at the head of the queue (R196). -/
def headVfma (d a b : VReg) (p : PReg) (z : Bool) (e : VqEntry) (s : State) : HeadRes :=
  vopFused (elemFused false false) d a b p z e s

/-- `vfms` at issue (R196). -/
def execVfms (d a b : VReg) (p : PReg) (z : Bool) (s : State) : Out := issue (.vfms d a b p z) 0 0 s

/-- `vfms` at the head of the queue (R196). -/
def headVfms (d a b : VReg) (p : PReg) (z : Bool) (e : VqEntry) (s : State) : HeadRes :=
  vopFused (elemFused false true) d a b p z e s

/-- `vnfma` at issue (R196). -/
def execVnfma (d a b : VReg) (p : PReg) (z : Bool) (s : State) : Out := issue (.vnfma d a b p z) 0 0 s

/-- `vnfma` at the head of the queue (R196). -/
def headVnfma (d a b : VReg) (p : PReg) (z : Bool) (e : VqEntry) (s : State) : HeadRes :=
  vopFused (elemFused true false) d a b p z e s

/-- `vabs` at issue (R196). -/
def execVabs (d a : VReg) (p : PReg) (z : Bool) (s : State) : Out := issue (.vabs d a p z) 0 0 s

/-- `vabs` at the head of the queue (R196). -/
def headVabs (d a : VReg) (p : PReg) (z : Bool) (e : VqEntry) (s : State) : HeadRes :=
  vopUnary tagS elemAbs false d a p z e s

/-- `vneg` at issue (R196). -/
def execVneg (d a : VReg) (p : PReg) (z : Bool) (s : State) : Out := issue (.vneg d a p z) 0 0 s

/-- `vneg` at the head of the queue (R196). -/
def headVneg (d a : VReg) (p : PReg) (z : Bool) (e : VqEntry) (s : State) : HeadRes :=
  vopUnary tagS elemNeg false d a p z e s

/-- `vsqrt` at issue (R196). -/
def execVsqrt (d a : VReg) (p : PReg) (z : Bool) (s : State) : Out := issue (.vsqrt d a p z) 0 0 s

/-- `vsqrt` at the head of the queue (R196). -/
def headVsqrt (d a : VReg) (p : PReg) (z : Bool) (e : VqEntry) (s : State) : HeadRes :=
  vopUnary isFloat elemSqrt true d a p z e s

/-- `vmov` at issue (R196). -/
def execVmov (d a : VReg) (p : PReg) (z : Bool) (s : State) : Out := issue (.vmov d a p z) 0 0 s

/-- `vmov` at the head of the queue (R196). -/
def headVmov (d a : VReg) (p : PReg) (z : Bool) (e : VqEntry) (s : State) : HeadRes :=
  vopUnary tagA (fun _ _ a => (a, 0)) false d a p z e s

/-- `vexp2` at issue (R196). -/
def execVexp2 (d a : VReg) (p : PReg) (z : Bool) (s : State) : Out := issue (.vexp2 d a p z) 0 0 s

/-- `vexp2` at the head of the queue (R196). -/
def headVexp2 (d a : VReg) (p : PReg) (z : Bool) (e : VqEntry) (s : State) : HeadRes :=
  vopUnary tagH (elemFun fpExp2V) false d a p z e s

/-- `vlog2` at issue (R196). -/
def execVlog2 (d a : VReg) (p : PReg) (z : Bool) (s : State) : Out := issue (.vlog2 d a p z) 0 0 s

/-- `vlog2` at the head of the queue (R196). -/
def headVlog2 (d a : VReg) (p : PReg) (z : Bool) (e : VqEntry) (s : State) : HeadRes :=
  vopUnary tagH (elemFun fpLog2V) false d a p z e s

/-- `vrcp` at issue (R196). -/
def execVrcp (d a : VReg) (p : PReg) (z : Bool) (s : State) : Out := issue (.vrcp d a p z) 0 0 s

/-- `vrcp` at the head of the queue (R196). -/
def headVrcp (d a : VReg) (p : PReg) (z : Bool) (e : VqEntry) (s : State) : HeadRes :=
  vopUnary tagH (elemFun fpRcpV) false d a p z e s

/-- `vrsqrt` at issue (R196). -/
def execVrsqrt (d a : VReg) (p : PReg) (z : Bool) (s : State) : Out := issue (.vrsqrt d a p z) 0 0 s

/-- `vrsqrt` at the head of the queue (R196). -/
def headVrsqrt (d a : VReg) (p : PReg) (z : Bool) (e : VqEntry) (s : State) : HeadRes :=
  vopUnary tagH (elemFun fpRsqrtV) false d a p z e s

/-- `vclz` at issue (R196). -/
def execVclz (d a : VReg) (p : PReg) (z : Bool) (s : State) : Out := issue (.vclz d a p z) 0 0 s

/-- `vclz` at the head of the queue (R196). -/
def headVclz (d a : VReg) (p : PReg) (z : Bool) (e : VqEntry) (s : State) : HeadRes :=
  vopUnary isInt (fun f _ a => (leadingZeros (width f) a, 0)) false d a p z e s

/-- `vpopc` at issue (R196). -/
def execVpopc (d a : VReg) (p : PReg) (z : Bool) (s : State) : Out := issue (.vpopc d a p z) 0 0 s

/-- `vpopc` at the head of the queue (R196). -/
def headVpopc (d a : VReg) (p : PReg) (z : Bool) (e : VqEntry) (s : State) : HeadRes :=
  vopUnary isInt (fun f _ a => (popCount (width f) a, 0)) false d a p z e s

/-- `vsel` at issue (R199). -/
def execVsel (d a b : VReg) (p : PReg) (s : State) : Out := issue (.vsel d a b p) 0 0 s

/-- `vsel` at the head of the queue (R199). -/
def headVsel (d a b : VReg) (p : PReg) (e : VqEntry) (s : State) : HeadRes :=
  vopSelect d a (s.hart.tag b) (fun j => (s.hart.reg b).elem (width (s.hart.tag a)) j) p
    (s.hart.tag b == s.hart.tag a) e s

/-! ## VOPX -/

/-- `vadd` at issue (R192, R196). -/
def execVaddVx (d a : VReg) (g : GReg) (p : PReg) (z : Bool) (s : State) : Out := issue (.vaddVx d a g p z) (s.g g) 0 s

/-- `vadd` at the head of the queue (R192, R196). -/
def headVaddVx (d a : VReg) (_ : GReg) (p : PReg) (z : Bool) (e : VqEntry) (s : State) : HeadRes :=
  vopScalar tagA false elemAdd true d a p z e s

/-- `vsub` at issue (R192, R196). -/
def execVsubVx (d a : VReg) (g : GReg) (p : PReg) (z : Bool) (s : State) : Out := issue (.vsubVx d a g p z) (s.g g) 0 s

/-- `vsub` at the head of the queue (R192, R196). -/
def headVsubVx (d a : VReg) (_ : GReg) (p : PReg) (z : Bool) (e : VqEntry) (s : State) : HeadRes :=
  vopScalar tagA false elemSub true d a p z e s

/-- `vmul` at issue (R192, R196). -/
def execVmulVx (d a : VReg) (g : GReg) (p : PReg) (z : Bool) (s : State) : Out := issue (.vmulVx d a g p z) (s.g g) 0 s

/-- `vmul` at the head of the queue (R192, R196). -/
def headVmulVx (d a : VReg) (_ : GReg) (p : PReg) (z : Bool) (e : VqEntry) (s : State) : HeadRes :=
  vopScalar tagA false elemMul true d a p z e s

/-- `vdiv` at issue (R192, R196). -/
def execVdivVx (d a : VReg) (g : GReg) (p : PReg) (z : Bool) (s : State) : Out := issue (.vdivVx d a g p z) (s.g g) 0 s

/-- `vdiv` at the head of the queue (R192, R196). -/
def headVdivVx (d a : VReg) (_ : GReg) (p : PReg) (z : Bool) (e : VqEntry) (s : State) : HeadRes :=
  vopScalar tagA false elemDiv true d a p z e s

/-- `vmin` at issue (R192, R196). -/
def execVminVx (d a : VReg) (g : GReg) (p : PReg) (z : Bool) (s : State) : Out := issue (.vminVx d a g p z) (s.g g) 0 s

/-- `vmin` at the head of the queue (R192, R196). -/
def headVminVx (d a : VReg) (_ : GReg) (p : PReg) (z : Bool) (e : VqEntry) (s : State) : HeadRes :=
  vopScalar tagA false (elemMinMax false) false d a p z e s

/-- `vmax` at issue (R192, R196). -/
def execVmaxVx (d a : VReg) (g : GReg) (p : PReg) (z : Bool) (s : State) : Out := issue (.vmaxVx d a g p z) (s.g g) 0 s

/-- `vmax` at the head of the queue (R192, R196). -/
def headVmaxVx (d a : VReg) (_ : GReg) (p : PReg) (z : Bool) (e : VqEntry) (s : State) : HeadRes :=
  vopScalar tagA false (elemMinMax true) false d a p z e s

/-- `vand` at issue (R192, R196). -/
def execVandVx (d a : VReg) (g : GReg) (p : PReg) (z : Bool) (s : State) : Out := issue (.vandVx d a g p z) (s.g g) 0 s

/-- `vand` at the head of the queue (R192, R196). -/
def headVandVx (d a : VReg) (_ : GReg) (p : PReg) (z : Bool) (e : VqEntry) (s : State) : HeadRes :=
  vopScalar isInt false (elemBits (fun a b => a &&& b)) false d a p z e s

/-- `vor` at issue (R192, R196). -/
def execVorVx (d a : VReg) (g : GReg) (p : PReg) (z : Bool) (s : State) : Out := issue (.vorVx d a g p z) (s.g g) 0 s

/-- `vor` at the head of the queue (R192, R196). -/
def headVorVx (d a : VReg) (_ : GReg) (p : PReg) (z : Bool) (e : VqEntry) (s : State) : HeadRes :=
  vopScalar isInt false (elemBits (fun a b => a ||| b)) false d a p z e s

/-- `vxor` at issue (R192, R196). -/
def execVxorVx (d a : VReg) (g : GReg) (p : PReg) (z : Bool) (s : State) : Out := issue (.vxorVx d a g p z) (s.g g) 0 s

/-- `vxor` at the head of the queue (R192, R196). -/
def headVxorVx (d a : VReg) (_ : GReg) (p : PReg) (z : Bool) (e : VqEntry) (s : State) : HeadRes :=
  vopScalar isInt false (elemBits (fun a b => a ^^^ b)) false d a p z e s

/-- `vsll` at issue (R192, R196). -/
def execVsllVx (d a : VReg) (g : GReg) (p : PReg) (z : Bool) (s : State) : Out := issue (.vsllVx d a g p z) (s.g g) 0 s

/-- `vsll` at the head of the queue (R192, R196). -/
def headVsllVx (d a : VReg) (_ : GReg) (p : PReg) (z : Bool) (e : VqEntry) (s : State) : HeadRes :=
  vopScalar isInt true elemSll false d a p z e s

/-- `vsrl` at issue (R192, R196). -/
def execVsrlVx (d a : VReg) (g : GReg) (p : PReg) (z : Bool) (s : State) : Out := issue (.vsrlVx d a g p z) (s.g g) 0 s

/-- `vsrl` at the head of the queue (R192, R196). -/
def headVsrlVx (d a : VReg) (_ : GReg) (p : PReg) (z : Bool) (e : VqEntry) (s : State) : HeadRes :=
  vopScalar isInt true elemSrl false d a p z e s

/-- `vsra` at issue (R192, R196). -/
def execVsraVx (d a : VReg) (g : GReg) (p : PReg) (z : Bool) (s : State) : Out := issue (.vsraVx d a g p z) (s.g g) 0 s

/-- `vsra` at the head of the queue (R192, R196). -/
def headVsraVx (d a : VReg) (_ : GReg) (p : PReg) (z : Bool) (e : VqEntry) (s : State) : HeadRes :=
  vopScalar isInt true elemSra false d a p z e s

/-- `vmulh` at issue (R192, R196). -/
def execVmulhVx (d a : VReg) (g : GReg) (p : PReg) (z : Bool) (s : State) : Out := issue (.vmulhVx d a g p z) (s.g g) 0 s

/-- `vmulh` at the head of the queue (R192, R196). -/
def headVmulhVx (d a : VReg) (_ : GReg) (p : PReg) (z : Bool) (e : VqEntry) (s : State) : HeadRes :=
  vopScalar isInt false elemMulh false d a p z e s

/-- `vsadd` at issue (R192, R196). -/
def execVsaddVx (d a : VReg) (g : GReg) (p : PReg) (z : Bool) (s : State) : Out := issue (.vsaddVx d a g p z) (s.g g) 0 s

/-- `vsadd` at the head of the queue (R192, R196). -/
def headVsaddVx (d a : VReg) (_ : GReg) (p : PReg) (z : Bool) (e : VqEntry) (s : State) : HeadRes :=
  vopScalar isInt false (elemSat (fun a b => a + b)) false d a p z e s

/-- `vssub` at issue (R192, R196). -/
def execVssubVx (d a : VReg) (g : GReg) (p : PReg) (z : Bool) (s : State) : Out := issue (.vssubVx d a g p z) (s.g g) 0 s

/-- `vssub` at the head of the queue (R192, R196). -/
def headVssubVx (d a : VReg) (_ : GReg) (p : PReg) (z : Bool) (e : VqEntry) (s : State) : HeadRes :=
  vopScalar isInt false (elemSat (fun a b => a - b)) false d a p z e s

/-- `vfma` at issue (R192, R196). -/
def execVfmaVx (d a : VReg) (g : GReg) (p : PReg) (z : Bool) (s : State) : Out := issue (.vfmaVx d a g p z) (s.g g) 0 s

/-- `vfma` at the head of the queue (R192, R196). -/
def headVfmaVx (d a : VReg) (_ : GReg) (p : PReg) (z : Bool) (e : VqEntry) (s : State) : HeadRes :=
  vopFusedX (elemFused false false) d a p z e s

/-- `vfms` at issue (R192, R196). -/
def execVfmsVx (d a : VReg) (g : GReg) (p : PReg) (z : Bool) (s : State) : Out := issue (.vfmsVx d a g p z) (s.g g) 0 s

/-- `vfms` at the head of the queue (R192, R196). -/
def headVfmsVx (d a : VReg) (_ : GReg) (p : PReg) (z : Bool) (e : VqEntry) (s : State) : HeadRes :=
  vopFusedX (elemFused false true) d a p z e s

/-- `vnfma` at issue (R192, R196). -/
def execVnfmaVx (d a : VReg) (g : GReg) (p : PReg) (z : Bool) (s : State) : Out := issue (.vnfmaVx d a g p z) (s.g g) 0 s

/-- `vnfma` at the head of the queue (R192, R196). -/
def headVnfmaVx (d a : VReg) (_ : GReg) (p : PReg) (z : Bool) (e : VqEntry) (s : State) : HeadRes :=
  vopFusedX (elemFused true false) d a p z e s

/-- `vsel` at issue (R192, R199). -/
def execVselVx (d a : VReg) (g : GReg) (p : PReg) (s : State) : Out := issue (.vselVx d a g p) (s.g g) 0 s

/-- `vsel` at the head of the queue (R192, R199). -/
def headVselVx (d a : VReg) (_ : GReg) (p : PReg) (e : VqEntry) (s : State) : HeadRes :=
  vopSelect d a .none (fun _ => lowBits e.opa (width (s.hart.tag a))) p true e s

/-- `vbcast` at issue (R199). -/
def execVbcast (d : VReg) (g : GReg) (p : PReg) (z : Bool) (s : State) : Out := issue (.vbcast d g p z) (s.g g) 0 s

/-- `vbcast` at the head of the queue (R199). -/
def headVbcast (d : VReg) (_ : GReg) (p : PReg) (z : Bool) (e : VqEntry) (s : State) : HeadRes :=
  let t := s.hart.tag d
  runVec s e d .none .none
    { ok := tagA t, fmt := t, zero := z, pred := p, result := fun _ => (lowBits e.opa (width t), 0) }

/-! ## VOPI -/

/-- `vaddi` at issue (R200). -/
def execVaddi (d a : VReg) (i : BitVec 8) (p : PReg) (z : Bool) (s : State) : Out := issue (.vaddi d a i p z) 0 0 s

/-- `vaddi` at the head of the queue (R200). -/
def headVaddi (d a : VReg) (i : BitVec 8) (p : PReg) (z : Bool) (e : VqEntry) (s : State) : HeadRes :=
  vopImm elemAdd (immBits i) d a p z e s

/-- `vslli` at issue (R200). -/
def execVslli (d a : VReg) (i : BitVec 8) (p : PReg) (z : Bool) (s : State) : Out := issue (.vslli d a i p z) 0 0 s

/-- `vslli` at the head of the queue (R200). -/
def headVslli (d a : VReg) (i : BitVec 8) (p : PReg) (z : Bool) (e : VqEntry) (s : State) : HeadRes :=
  vopImm elemSll (fun _ => i.toNat) d a p z e s

/-- `vsrli` at issue (R200). -/
def execVsrli (d a : VReg) (i : BitVec 8) (p : PReg) (z : Bool) (s : State) : Out := issue (.vsrli d a i p z) 0 0 s

/-- `vsrli` at the head of the queue (R200). -/
def headVsrli (d a : VReg) (i : BitVec 8) (p : PReg) (z : Bool) (e : VqEntry) (s : State) : HeadRes :=
  vopImm elemSrl (fun _ => i.toNat) d a p z e s

/-- `vsrai` at issue (R200). -/
def execVsrai (d a : VReg) (i : BitVec 8) (p : PReg) (z : Bool) (s : State) : Out := issue (.vsrai d a i p z) 0 0 s

/-- `vsrai` at the head of the queue (R200). -/
def headVsrai (d a : VReg) (i : BitVec 8) (p : PReg) (z : Bool) (e : VqEntry) (s : State) : HeadRes :=
  vopImm elemSra (fun _ => i.toNat) d a p z e s

/-- `vandi` at issue (R200). -/
def execVandi (d a : VReg) (i : BitVec 8) (p : PReg) (z : Bool) (s : State) : Out := issue (.vandi d a i p z) 0 0 s

/-- `vandi` at the head of the queue (R200). -/
def headVandi (d a : VReg) (i : BitVec 8) (p : PReg) (z : Bool) (e : VqEntry) (s : State) : HeadRes :=
  vopImm (elemBits (fun a b => a &&& b)) (immBits i) d a p z e s

/-- `vori` at issue (R200). -/
def execVori (d a : VReg) (i : BitVec 8) (p : PReg) (z : Bool) (s : State) : Out := issue (.vori d a i p z) 0 0 s

/-- `vori` at the head of the queue (R200). -/
def headVori (d a : VReg) (i : BitVec 8) (p : PReg) (z : Bool) (e : VqEntry) (s : State) : HeadRes :=
  vopImm (elemBits (fun a b => a ||| b)) (immBits i) d a p z e s

/-- `vxori` at issue (R200). -/
def execVxori (d a : VReg) (i : BitVec 8) (p : PReg) (z : Bool) (s : State) : Out := issue (.vxori d a i p z) 0 0 s

/-- `vxori` at the head of the queue (R200). -/
def headVxori (d a : VReg) (i : BitVec 8) (p : PReg) (z : Bool) (e : VqEntry) (s : State) : HeadRes :=
  vopImm (elemBits (fun a b => a ^^^ b)) (immBits i) d a p z e s

end Sys2Proof.Machine
end

