-- ==== Sys2Proof/Machine/Pred.lean ====
section
/-! DEFINITION. Predicate instructions: VPRED (R208, R209). -/

namespace Sys2Proof.Machine

/-- Write a predicate whose bit i is `f i` (R208). -/
def runPred (d : PReg) (f : Nat → Bool) (e : VqEntry) (s : State) : HeadRes :=
  granting s e (commitHart s (s.hart.setPred d (predOf s.hart f)))

/-- Write a general register at the head (R209). -/
def runToG (d : GReg) (x : Word) (e : VqEntry) (s : State) : HeadRes := granting s e (commitHart s (s.hart.setG d x))

/-- The indices of VL.LEN / 4 bits where two predicates are both set (R208). -/
def bothSet (h : Hart) (a b : PReg) : List Nat :=
  (List.range (h.elems 4)).filter (fun i => h.pbit a i && h.pbit b i)

/-- `pand` at issue (R208). -/
def execPand (d a b : PReg) (s : State) : Out := issue (.pand d a b) 0 0 s

/-- `pand` at the head of the queue (R208). -/
def headPand (d a b : PReg) (e : VqEntry) (s : State) : HeadRes :=
  runPred d (fun i => s.hart.pbit a i && s.hart.pbit b i) e s

/-- `por` at issue (R208). -/
def execPor (d a b : PReg) (s : State) : Out := issue (.por d a b) 0 0 s

/-- `por` at the head of the queue (R208). -/
def headPor (d a b : PReg) (e : VqEntry) (s : State) : HeadRes :=
  runPred d (fun i => s.hart.pbit a i || s.hart.pbit b i) e s

/-- `pxor` at issue (R208). -/
def execPxor (d a b : PReg) (s : State) : Out := issue (.pxor d a b) 0 0 s

/-- `pxor` at the head of the queue (R208). -/
def headPxor (d a b : PReg) (e : VqEntry) (s : State) : HeadRes :=
  runPred d (fun i => s.hart.pbit a i != s.hart.pbit b i) e s

/-- `pandn` at issue (R208). -/
def execPandn (d a b : PReg) (s : State) : Out := issue (.pandn d a b) 0 0 s

/-- `pandn` at the head of the queue (R208). -/
def headPandn (d a b : PReg) (e : VqEntry) (s : State) : HeadRes :=
  runPred d (fun i => s.hart.pbit a i && !s.hart.pbit b i) e s

/-- `pnot` at issue (R208). -/
def execPnot (d a : PReg) (s : State) : Out := issue (.pnot d a) 0 0 s

/-- `pnot` at the head of the queue (R208). -/
def headPnot (d a : PReg) (e : VqEntry) (s : State) : HeadRes :=
  runPred d (fun i => !s.hart.pbit a i) e s

/-- `pset` at issue (R208). -/
def execPset (g : GReg) (d : PReg) (s : State) : Out := issue (.pset g d) (s.g g) 0 s

/-- `pset` at the head of the queue (R208). -/
def headPset (_ : GReg) (d : PReg) (e : VqEntry) (s : State) : HeadRes :=
  runPred d (fun i => decide (i < e.opa.toNat)) e s

/-- `pcnt` at issue (R208). -/
def execPcnt (g : GReg) (a b : PReg) (s : State) : Out := issue (.pcnt g a b) 0 0 s

/-- `pcnt` at the head of the queue (R208). -/
def headPcnt (g : GReg) (a b : PReg) (e : VqEntry) (s : State) : HeadRes :=
  runToG g (BitVec.ofNat 64 (bothSet s.hart a b).length) e s

/-- `pffs` at issue (R208). -/
def execPffs (g : GReg) (a b : PReg) (s : State) : Out := issue (.pffs g a b) 0 0 s

/-- `pffs` at the head of the queue (R208). -/
def headPffs (g : GReg) (a b : PReg) (e : VqEntry) (s : State) : HeadRes :=
  runToG g (((bothSet s.hart a b).head?.map (BitVec.ofNat 64)).getD (BitVec.allOnes 64)) e s

/-- `pbrk` at issue (R208). -/
def execPbrk (d a b : PReg) (s : State) : Out := issue (.pbrk d a b) 0 0 s

/-- `pbrk` at the head of the queue (R208). -/
def headPbrk (d a b : PReg) (e : VqEntry) (s : State) : HeadRes :=
  let first := (bothSet s.hart a b).head?.getD 16384
  runPred d (fun i => s.hart.pbit b i && decide (i ≤ first)) e s

/-- `pmov` at issue (R208). -/
def execPmov (d a : PReg) (s : State) : Out := issue (.pmov d a) 0 0 s

/-- `pmov` at the head of the queue (R208). -/
def headPmov (d a : PReg) (e : VqEntry) (s : State) : HeadRes :=
  runPred d (fun i => s.hart.pbit a i) e s

end Sys2Proof.Machine
end

