-- ==== Sys2Proof/Machine/Lanes.lean ====
section
/-! DEFINITION. The lane allocator and the VSET instructions (R133 to R143, R151, R155, R160, R378; log 13). -/

namespace Sys2Proof.Machine

/-! ## Scratchpad that segments hold (R57) -/

/-- A team's segment takes scratchpad of its cluster: unless the team was pre-empted and its segment has been saved (R55, R60,
R285). -/
def Team.holdsSegment (t : Team) : Bool := !(t.status == .stopped .preempt && t.segSaved)

/-- A team is being moved to a cluster. -/
def Team.movesTo (t : Team) (f c : Nat) : Bool :=
  match t.status with
  | .moving f' c' _ => f' == f && c' == c
  | _ => false

/-- A team's cluster. -/
def Team.at (t : Team) (f c : Nat) : Bool := t.facet == f && t.cluster == c

/-- Scratchpad units of a cluster that segments hold. -/
def usedUnits (s : State) (f c : Nat) : Nat :=
  ((s.teams.filter (fun t => (t.holdsSegment && t.at f c) || t.movesTo f c)).map (fun t => t.segUnits)).sum

/-! ## Device-class accesses in flight (R65, R66, R153) -/

/-- The page of a VA is device-class, as a walk for it finds now. -/
def onDevc (s : State) (va : Nat) : Bool :=
  ((walkKept s s.sp s.pt va).1.map (fun l => leafValid l.1 va && natBits l.1 4 2 == 2)).getD false

/-- An entry has retired data for a DEVC page: it completes and commits before any change of backing (R66, R153, Table 6.5). -/
def retiresDevc (s : State) (e : VqEntry) : Bool := s.hart.stores.any (fun l => l.seq == e.seq && onDevc s (l.line * 128))

/-- The head's entry waits part done: whether it has begun on a DEVC page is kept. -/
def noteDevc (s : State) (e : VqEntry) : State :=
  s.withHart { s.hart with ln := { s.hart.ln with headDevc := s.hart.ln.headDevc || retiresDevc s e } }

/-- A device-class access of a hart has started and is not over: it is neither abandoned nor repeated. -/
def deviceBusy (s : State) (h : Hart) : Bool := h.storesDevc || s.windowOps.any (fun o => o.hart == h.id.ref && o.devc)

/-- Reads of the host's WC pages that a test selects are squashed: what they have read is read again (Table 6.5). -/
def State.squashReads (s : State) (p : WindowOp → Bool) : State :=
  { s with windowOps := s.windowOps.filter (fun o => !(p o && !o.write && !o.devc)) }

/-- The entry at the head of the current hart's queue is squashed for a change of backing (Table 6.5). -/
def State.squashHead (s : State) : State :=
  s.squashReads (fun o => o.hart == s.hart.id.ref && s.hart.vq.any (fun e => e.seq == o.seq))

/-! ## Lane groups of a cluster -/

/-- FACET and CLUSTER of a hart as one number. -/
def HartId.clusterKey (i : HartId) : Nat := i.phys.toNat / 512

/-- The lane groups whose late-fault store buffers hold a line of a hart, each as cluster × 128 + group (R133, R151). -/
def Hart.buffered (h : Hart) : List Nat := (h.stores.filter (fun l => l.stage != .held)).flatMap (fun l => l.groups)

/-- The groups of a cluster among buffered ones. -/
def groupsOf (key : Nat) (gs : List Nat) : List Nat := (gs.filter (fun g => g / 128 == key)).map (fun g => g % 128)

/-- The groups of a cluster that another hart holds, or whose buffers hold another hart's lines (R151). -/
def busyGroups (s : State) (key : Nat) : List Nat :=
  s.others.flatMap (fun h => (if h.id.clusterKey == key then h.ln.groups else []) ++ groupsOf key h.buffered)

/-- The groups that a grant of the current hart may use: its own first (R136), then free ones in ascending number. -/
def usableGroups (s : State) : List Nat :=
  let busy := busyGroups s s.hart.id.clusterKey
  let own := s.hart.ln.groups
  own ++ (List.range 128).filter (fun g => !busy.contains g && !own.contains g)

/-- The groups of a square block whose first row is `row` and first column block `col` (R133). -/
def blockGroups (rows cols row col : Nat) : List Nat :=
  (List.range rows).flatMap (fun r => (List.range cols).map (fun c => (row + r) * 4 + col + c))

/-- Rows and column blocks of a square VL (Table 6.4). -/
def blockShape (vl : Nat) : Nat × Nat := if vl = 4096 then (8, 1) else if vl = 16384 then (16, 2) else (32, 4)

/-- The square blocks of a VL in the grid (Table 6.4). -/
def squareBlocks (vl : Nat) : List (List Nat) :=
  let (rows, cols) := blockShape vl
  (List.range (33 - rows)).flatMap (fun r => (List.range (5 - cols)).map (fun c => blockGroups rows cols r c))

/-- A VL that is a gang size (R210). -/
def isGang (vl : Nat) : Bool := vl == 4096 || vl == 16384 || vl == 65536

/-- A list of groups is a physically square block of a VL (R131, SQ). -/
def isSquare (vl : Nat) (gs : List Nat) : Bool :=
  isGang vl && (squareBlocks vl).any (fun b => b.length == gs.length && b.all (fun g => gs.contains g))

/-- Groups that back a VL at F = 1, square or not, if the cluster has them free (log 13). -/
def findGroups (s : State) (vl : Nat) (square : Bool) : Option (List Nat) :=
  let free := usableGroups s
  if square then (squareBlocks vl).find? (fun b => b.all (fun g => free.contains g))
  else if vl / 512 ≤ free.length then some (free.take (vl / 512)) else none

/-! ## The power budget (R135, R378) -/

/-- The price of one group in mW: 94 for a square grant, 60 for another, nothing when gated. -/
def groupPrice (square gated : Bool) : Nat := if gated then 0 else if square then 94 else 60

/-- What the other harts' groups of a cluster cost. -/
def clusterPrice (s : State) (key : Nat) : Nat :=
  ((s.others.filter (fun h => h.id.clusterKey == key)).map
    (fun h => h.ln.groups.length * groupPrice h.ln.square h.ln.clockGated)).sum

/-- The budget of the current hart's cluster allows `n` groups to back its grant. -/
def budgetAllows (s : State) (n : Nat) (square : Bool) : Bool :=
  match s.power.gov[s.hart.id.facet]? with
  | none => true
  | some g =>
    let price := clusterPrice s s.hart.id.clusterKey + n * groupPrice square false
    decide (price * g.ratio ≤ vget g.allow s.hart.id.cluster 0 * 1000)

/-! ## Order of requests (R63, R64) -/

/-- The class of a waiting request after its age (R64). -/
def GrantReq.effective (r : GrantReq) : Nat := r.cls.toNat - r.raised

/-- A request is served before another: by class, then arrival, then HARTID (R63). -/
def servedBefore (c1 t1 i1 c2 t2 i2 : Nat) : Bool :=
  decide (c1 < c2) || (c1 == c2 && (decide (t1 < t2) || (t1 == t2 && decide (i1 < i2))))

/-- Another hart of the cluster waits for a grant at an equal or higher class (R136). -/
def waiterAhead (s : State) (cls : Nat) : Bool :=
  s.others.any (fun h => h.id.clusterKey == s.hart.id.clusterKey &&
    ((h.ln.req.map (fun r => decide (r.effective ≤ cls))).getD false))

/-- Another hart's waiting request is served before the current hart's. -/
def outranked (s : State) (q : GrantReq) : Bool :=
  s.others.any (fun h => h.id.clusterKey == s.hart.id.clusterKey &&
    ((h.ln.req.map (fun r => servedBefore r.effective r.arrived h.id.phys.toNat q.effective q.arrived
      s.hart.id.phys.toNat)).getD false))

/-- A fold of the governor is in force on a facet, and what it folded stays folded (R379). -/
def governorFolds (s : State) (facet : Nat) : Bool := ((s.power.gov[facet]?).map (fun g => decide (3 ≤ g.step))).getD false

/-- The current hart could be unfolded now, but for the budget: free groups allow it, its team is resident, no device-class access
of it is in flight (R153). -/
def roomToUnfold (s : State) : Bool :=
  let l := s.hart.ln
  decide (0 < l.fold) && !l.released && !isOut s s.hart.id.ref && !deviceBusy s s.hart
    && decide (2 * l.groups.length ≤ (usableGroups s).length)

/-- The budget leaves the current hart twice its groups (R135). -/
def budgetToUnfold (s : State) : Bool :=
  !governorFolds s s.hart.id.facet && budgetAllows s (2 * s.hart.ln.groups.length) s.hart.ln.square

/-- The current hart can take twice its groups (R155). -/
def canUnfold (s : State) : Bool := roomToUnfold s && budgetToUnfold s

/-- An unfold of a higher class that the cluster can make now comes before a grant of the current hart (R155). -/
def unfoldFirst (s : State) (cls : Nat) : Bool :=
  s.others.any (fun h => h.id.clusterKey == s.hart.id.clusterKey && decide (h.sc.prio.toNat < cls)
    && ((s.activate h.id.ref).map canUnfold).getD false)

/-! ## Spill (R154) -/

/-- The bytes of a hart's lane state: IMG (R154). -/
def imageBytes (vl : Nat) : Nat := 4 * vl + vl / 4 + (if isGang vl then vl / 64 * 4096 else 0)

/-- What of its image a hart spills: none while it holds no lanes. -/
def Lanes.spilled (l : Lanes) : Nat :=
  if l.groups.isEmpty then 0 else imageBytes l.len - imageBytes l.len / 2 ^ l.fold

/-- Spill `n` bytes: first to the room left in the carve-out, the rest to HBM. -/
def Lanes.spillInto (l : Lanes) (room : Nat) : Lanes :=
  { l with spillNear := min l.spilled room, spillHbm := l.spilled - room }

/-- The carve-out that is left to the current hart: its cluster's scratchpad without segments and other harts' spill. -/
def spillRoom (s : State) : Nat :=
  (1024 - usedUnits s s.hart.id.facet s.hart.id.cluster) * 4096
    - ((s.others.filter (fun h => h.id.clusterKey == s.hart.id.clusterKey)).map (fun h => h.ln.spillNear)).sum

/-- Place the current hart's spill anew after a change of its backing. -/
def placeSpill (s : State) : State := s.withHart { s.hart with ln := s.hart.ln.spillInto (spillRoom s) }

/-! ## Changing VL (R137) -/

/-- The low `n` bits of a register. -/
def VecReg.keep (r : VecReg) (n : Nat) : VecReg := { r with bits := BitVec.ofNat 65536 (r.bits.toNat % 2 ^ n) }

/-- Vector state after a change of VL (R137). -/
def VecState.resize (v : VecState) (old new : Nat) : VecState :=
  if old = new then v
  else
    let n := min old new
    { v := v.v.map (fun r => r.keep n), p := v.p.map (fun x => BitVec.ofNat 16384 (x.toNat % 2 ^ (n / 4)))
      t := Vector.replicate 4 TileReg.zero }

/-- Vector state of a released hart: registers zero with their tags, p1 to p7 zero, tiles without a format (R142). -/
def VecState.released (v : VecState) : VecState :=
  { v := v.v.map (fun r => { r with bits := 0 })
    p := Vector.ofFn (fun (i : Fin 8) => if i.val = 0 then vget v.p 0 0 else 0)
    t := Vector.replicate 4 TileReg.zero }

/-- A hart's groups become `gs`: of those that stay, the matrix datapaths stay as they are; a group that joins is gated (R224). -/
def Lanes.rebind (l : Lanes) (gs : List Nat) : Lanes := { l with groups := gs, awake := l.awake.filter (fun g => gs.contains g) }

/-- Groups given up: no lane state is left to spill. -/
def Lanes.giveUp (l : Lanes) : Lanes := { l.rebind [] with spillNear := 0, spillHbm := 0 }

/-- The hart after a grant of VL `new` on `gs` (R136, R137). -/
def Hart.grant (h : Hart) (new : Nat) (gs : List Nat) (square pwr cont : Bool) (seq : Nat) : Hart :=
  { h with vec := h.vec.resize h.ln.len new
           ln := { h.ln.rebind gs with len := new, tv := false, trim := 0, fold := 0, released := false, sq := isSquare new gs
                                       square := square, pwr := pwr, cont := cont, grantSeq := seq, req := none
                                       clockGated := false, laneIdle := 0, spillNear := 0, spillHbm := 0 } }

/-! ## A request (R136) -/

/-- What a request of `x` bits asks for (R136): its cap, its floor. -/
def Hart.limits (h : Hart) (x : Nat) : Nat × Nat :=
  let req := floorPow2 (min (max x 512) 65536)
  let cap := min req h.ln.vlmax
  (cap, min cap h.ln.vlmin)

/-- The values a request accepts, largest first (R136). -/
def candidates (cap low : Nat) (square : Bool) : List Nat :=
  ([65536, 32768, 16384, 8192, 4096, 2048, 1024, 512].filter (fun v => low ≤ v && v ≤ cap)).filter
    (fun v => !square || isGang v)

/-- The largest value that can be backed now, with its groups. -/
def bestFit (s : State) (square : Bool) : List Nat → Option (Nat × List Nat)
  | [] => none
  | v :: rest =>
    match (if budgetAllows s (v / 512) square then findGroups s v square else none) with
    | some gs => some (v, gs)
    | none => bestFit s square rest

/-- Why a value above the grant was not granted: the budget, or groups that are held (VSTAT.PWR, CONT). -/
def cutBy (s : State) (square : Bool) (c : List Nat) (got cap : Nat) : Bool × Bool :=
  match (c.filter (fun v => got < v)).getLast? with
  | none => (false, false)
  | some v =>
    (decide (got < cap) && !budgetAllows s (v / 512) square, decide (got < cap) && (findGroups s v square).isNone)

/-- GV3.GCUT of the current hart's facet: the budget has cut a grant or an unfold (R379). -/
def noteCut (s : State) (cut : Bool) : State :=
  match s.power.gov[s.hart.id.facet]? with
  | some g =>
    if cut then { s with power := { s.power with gov := vset s.power.gov s.hart.id.facet { g with gcut := true } } } else s
  | none => s

/-- Grant a value to the current hart; `c`: the values that it accepts. -/
def grantNow (s : State) (v : Nat) (gs : List Nat) (square : Bool) (c : List Nat) (cap : Nat) : State :=
  let (pwr, cont) := cutBy s square c v cap
  let s1 := s.withHart (s.hart.grant v gs square pwr cont s.nextUid)
  noteCut { s1 with nextUid := s.nextUid + 1 } pwr

/-- A new waiting request of the current hart. -/
def newReq (s : State) (least most : Nat) (square : Bool) (cls : BitVec 2) : GrantReq :=
  { cls := cls, arrived := s.clock.ran, raised := 0, least := least, most := most, square := square }

/-- The request of the current hart: one already waiting, or a new one. -/
def request (s : State) (least most : Nat) (square : Bool) (cls : BitVec 2) : GrantReq :=
  s.hart.ln.req.getD (newReq s least most square cls)

/-! ## What folds could free (R134, R135) -/

/-- A hart can be folded once more (R134). The lanes of a context that is switched out lazily stay owned by its hart, and none of them is
given to another, until its save clears VOFF (R158, R371, Table 15.11). -/
def foldable (h : Hart) : Bool := !h.tr.voff && !h.ln.groups.isEmpty && decide (h.ln.fold < 3 ∧ 2 ^ (h.ln.fold + 1) * 512 ≤ h.ln.len)

/-- The groups that a hart keeps when it is folded as far as R134 allows. -/
def Hart.foldedMost (h : Hart) : Hart :=
  let k := min 3 (Nat.log2 (h.ln.len / 512))
  { h with stores := [], ln := { h.ln with groups := h.ln.groups.take (h.ln.len / 512 / 2 ^ k), fold := k } }

/-- The cluster as it would stand with every hart of a class below `cls` folded as far as R134 allows and drained. -/
def withFolds (s : State) (cls : Nat) : State :=
  { s with others := upd s.others (fun k => k.id.clusterKey == s.hart.id.clusterKey && decide (cls < k.sc.prio.toNat) && foldable k
      && !isOut s k.id.ref) Hart.foldedMost }

/-- Folds serve the current hart's request: an RT one gets a larger value by them, another one its floor that it cannot get now
(R135). -/
def foldsHelp (s : State) (effective : Nat) (square : Bool) (c : List Nat) : Bool :=
  let now := (bestFit s square c).map (fun x => x.1)
  let then_ := (bestFit (withFolds s effective) square (if effective = 0 then c else c.getLast?.toList)).map (fun x => x.1)
  match now, then_ with
  | _, none => false
  | none, some _ => true
  | some u, some v => effective == 0 && decide (u < v)

/-- Serve a request that waits until a value fits (R11, R136): the state with the grant, or with the request waiting. An RT request
waits for folds that give it a larger value (R135, log 13). -/
def serve (s : State) (cap low : Nat) (square : Bool) (cls : BitVec 2) : State × Option Nat :=
  let c := candidates cap low square
  let q := request s low cap square cls
  let parked := s.withHart { s.hart with ln := { s.hart.ln with req := some q } }
  if outranked s q || unfoldFirst s q.effective || (q.effective == 0 && foldsHelp s 0 square c) then (parked, none)
  else
    match bestFit s square c with
    | some (v, gs) => (grantNow s v gs square c cap, some v)
    | none => (parked, none)

/-! ## VSET -/

/-- `setvl` at issue (R136). -/
def execSetvl (d a : GReg) (k : BitVec 2) (s : State) : Out := issue (.setvl d a k) (s.g a) 0 s

/-- `setvl` at the head of the queue (R136). One that does not wait makes no fold; an unfold of a higher class that can be made now
is made first (R155, log 13). -/
def headSetvl (d _ : GReg) (k : BitVec 2) (e : VqEntry) (s : State) : HeadRes :=
  let square := k.getLsbD 0
  let (cap, low) := s.hart.limits e.opa.toNat
  let c := candidates cap low square
  if c.isEmpty then .trap s 0x05 (BitVec.ofNat 64 (e.word.toNat + s.hart.ln.len * 2 ^ 32)) 0
  else if k.getLsbD 1 then
    let none_ := fun (pwr cont : Bool) =>
      HeadRes.commit (noteCut (s.withHart ((s.hart.grant 0 [] square pwr cont 0).setG d 0)) pwr)
    if waiterAhead s e.cls.toNat then none_ false true
    else if unfoldFirst s e.cls.toNat then .wait s
    else
      match bestFit s square c with
      | some (v, gs) => .commit ((grantNow s v gs square c cap).setG d (BitVec.ofNat 64 v))
      | none =>
        let (pwr, cont) := cutBy s square c 0 cap
        none_ pwr cont
  else
    match serve s cap low square e.cls with
    | (s1, some v) => .commit (s1.setG d (BitVec.ofNat 64 v))
    | (s1, none) => .wait s1

/-- `vcfg` at issue (R138). -/
def execVcfg (d : VReg) (f : Fmt) (s : State) : Out := issue (.vcfg d f) 0 0 s

/-- `vcfg` at the head of the queue (R138). -/
def headVcfg (d : VReg) (f : Fmt) (e : VqEntry) (s : State) : HeadRes :=
  granting s e (commitHart s (s.hart.setReg d { bits := 0, tag := f }))

/-- `vmvg` at issue (R140). -/
def execVmvg (d i : GReg) (v : VReg) (s : State) : Out := issue (.vmvg d i v) (s.g i) 0 s

/-- An element as a 64-bit value: sign-extended for an I format (R140). -/
def elemWord (f : Fmt) (x : Nat) : Word := BitVec.ofInt 64 (intVal f x)

/-- `vmvg` at the head of the queue (R140). -/
def headVmvg (d _ : GReg) (v : VReg) (e : VqEntry) (s : State) : HeadRes :=
  let h := s.hart
  let t := h.tag v
  granting s e <|
    if t == .none then formatTrap s e .none t .none
    else
      let x := if h.cnt (width t) ≤ e.opa.toNat then 0 else elemWord t ((h.reg v).elem (width t) e.opa.toNat)
      commitHart s (h.setG d x)

/-- `vins` at issue (R141). -/
def execVins (d : VReg) (a i : GReg) (s : State) : Out := issue (.vins d a i) (s.g a) (s.g i) s

/-- A register with element k of width w replaced. -/
def VecReg.setElem (r : VecReg) (w k x : Nat) : VecReg :=
  let n := r.bits.toNat
  { r with bits := BitVec.ofNat 65536 (n - natBits n (k * w) w * 2 ^ (k * w) + x % 2 ^ w * 2 ^ (k * w)) }

/-- `vins` at the head of the queue (R141). -/
def headVins (d : VReg) (_ _ : GReg) (e : VqEntry) (s : State) : HeadRes :=
  let h := s.hart
  let r := h.reg d
  granting s e <|
    if r.tag == .none then formatTrap s e r.tag .none .none
    else
      let w := width r.tag
      commitHart s (if e.opb.toNat < h.cnt w then h.setReg d (r.setElem w e.opb.toNat e.opa.toNat) else h)

/-- `vfree` at issue (R142). -/
def execVfree (s : State) : Out := issue .vfree 0 0 s

/-- Release every group and keep VL (R142, R143). VSTAT.FOLD reads 0 from then on, since no group backs the grant (DESIGN CHOICE, log 54). -/
def Hart.release (h : Hart) : Hart :=
  { h with vec := h.vec.released
           ln := { h.ln.giveUp with released := true, fold := 0, sq := false, clockGated := true } }

/-- `vfree` at the head of the queue (R142). -/
def headVfree (_ : VqEntry) (s : State) : HeadRes :=
  if s.hart.ln.len = 0 || s.hart.ln.released then .commit s else commitHart s s.hart.release

/-! ## The end of a handler, and other changes of backing -/

/-- Release every group at the end of a handler: VL.LEN := 0 (R396). -/
def Hart.dropLanes (h : Hart) : Hart :=
  { h with vec := h.vec.resize h.ln.len 0
           ln := { h.ln.giveUp with len := 0, tv := false, trim := 0, fold := 0, released := false, sq := false
                                    square := false, req := none, clockGated := true } }

/-- Backing for an unchanged VL: the least factor 2^k of at least 2^`low` (where VL allows it) that the allocator can back,
so F = 1 where it can for `low` = 0, folded otherwise (R61, R143). -/
def findBacking (s : State) (vl low : Nat) : Option (Nat × List Nat) :=
  let free := usableGroups s
  let fits := fun (k : Nat) =>
    min low (Nat.log2 (vl / 512)) ≤ k && 512 * 2 ^ k ≤ vl && decide (vl / 512 / 2 ^ k ≤ free.length) && budgetAllows s (vl / 512 / 2 ^ k) s.hart.ln.square
  ((List.range 4).find? fits).map (fun k => (k, free.take (vl / 512 / 2 ^ k)))

/-- Bind the current hart to a backing of its unchanged VL (R139, R143). -/
def bindBacking (s : State) (k : Nat) (gs : List Nat) : State :=
  let l := s.hart.ln.rebind gs
  let h := { s.hart with ln := { l with fold := k, released := false, sq := k == 0 && isSquare l.len gs, req := none
                                        clockGated := false, laneIdle := 0, grantSeq := s.nextUid } }
  placeSpill { s.withHart h with nextUid := s.nextUid + 1 }

/-- Rebind the current hart, or leave its request waiting (R143). -/
def rebindNow (s : State) (cls : BitVec 2) : State × Bool :=
  let q := request s s.hart.ln.len s.hart.ln.len s.hart.ln.square cls
  let parked := s.withHart { s.hart with ln := { s.hart.ln with req := some q } }
  if outranked s q || unfoldFirst s q.effective then (parked, false)
  else
    match findBacking s s.hart.ln.len 0 with
    | some (k, gs) => (bindBacking s k gs, true)
    | none => (parked, false)

/-- The entry at the head of a hart's queue is a `setvl`, which asks for a grant of its own (R136, R143). -/
def Hart.asksSetvl (h : Hart) : Bool :=
  match h.vq.head?.bind VqEntry.instr with
  | some (.setvl _ _ _) => true
  | _ => false

/-- A waiting request of the current hart is one for the rebinding of its unchanged VL, and not that of a `setvl` (R143). -/
def rebinding (s : State) (q : GrantReq) : Bool :=
  s.hart.ln.released && !s.hart.asksSetvl && q.least == s.hart.ln.len && q.most == s.hart.ln.len

/-- The backing of the rebinding that the current hart waits for could be had by folds of harts of a lower class. -/
def foldsWanted (s : State) (q : GrantReq) : Bool :=
  if rebinding s q then (findBacking s s.hart.ln.len 0).isNone && (findBacking (withFolds s q.effective) s.hart.ln.len 0).isSome
  else foldsHelp s q.effective q.square (candidates q.most q.least q.square)

/-- Nothing that a waiting request of the current hart accepts can be had, now or by folds (R135). -/
def unmet (s : State) (q : GrantReq) : Bool :=
  let t := withFolds s q.effective
  if rebinding s q then (findBacking s s.hart.ln.len 0).isNone && (findBacking t s.hart.ln.len 0).isNone
  else
    let c := candidates q.most q.least q.square
    (bestFit s q.square c).isNone && (bestFit t q.square c).isNone

end Sys2Proof.Machine
end

