-- ==== Sys2Proof/Machine/Ending.lean ====
section
/-! DEFINITION. The end of a handler and of a team: accounting, ring entries, stream entries, retirement (R33, R36, R49,
R353, R396, R398 to R400). -/

namespace Sys2Proof.Machine

/-- Free a ring entry of a queue (R33). -/
def freeSlot (s : State) (q slot : Nat) : State :=
  let x := s.queue q
  s.setQueue { x with held := x.held.erase slot }

/-- Move the time a hart has not been billed for to its space (R400). -/
def billHart (s : State) : State :=
  let x := s.space s.sp
  let s1 := s.setSpace
    { x with acHart := x.acHart + BitVec.ofNat 64 s.hart.unbilled
             acLane := x.acLane + BitVec.ofNat 64 s.hart.unbilledLane }
  s1.withHart { s.hart with unbilled := 0, unbilledLane := 0 }

/-- Count a handler that has ended: by `done` or under R353 (R400). -/
def countEnd (s : State) (byDone : Bool) : State :=
  let x := s.space s.sp
  s.setSpace (if byDone then { x with acDone := x.acDone + 1 } else { x with acEnded := x.acEnded + 1 })

/-- A handler for a stream has ended: by `done`, LAST is now (R49). An entry counts every handler that runs for its stream, those of
messages that found no room for one included. -/
def streamEnded (s : State) (byDone : Bool) : State :=
  match s.hart.msg.bind (fun m => m.stream) with
  | none => s
  | some x =>
    let mine := fun (e : StreamEntry) => e.space == s.hart.id.space && e.stream == x && decide (0 < e.running)
    { s with streamEntries := upd s.streamEntries mine (fun e => { e with last := if byDone then s.clock.now else e.last, running := e.running - 1 }) }

/-- The hart between handlers: nothing of the ended handler is left (R156, R399). -/
def Hart.cleared (h : Hart) (run : Run) : Hart :=
  { h.dropLanes with run := run, vec := VecState.zero, vq := [], wait := .none, ir := none, due := none, msg := none, recs := [], fatal := none
                     stores := h.stores.filter (fun l => l.stage != .held)
                     streams := Vector.replicate 16 Stream.empty
                     notice := { thermal := none, preempt := none, watchdog := none }, runNs := 0, dogAt := 0
                     sc := { h.sc with g := Vector.replicate 64 0, pc := 0, frm := 0, fflags := 0, dim0 := 0, dim1 := 0
                                       dim2 := 0, cpBnd := 0, cpSel := 0 }
                     tr := Hart.blank.tr }

/-- A hart of a team runs a handler, stopped ones included (R60, R398). -/
def runsHandler (h : Hart) : Bool := h.run.inHandler || h.run == .assigned

/-- The harts of a team. -/
def State.teamHarts (s : State) (uid : Nat) : List Hart := s.harts.filter (fun h => h.id.ref.team == uid)

/-- What is left of a hart whose team retires: its stores, which are still performed (R318, R398). -/
def Hart.remains (h : Hart) : Hart := { Hart.blank with id := h.id, run := .retired, stores := h.stores, sc := { Hart.blank.sc with iseq := h.sc.iseq } }

/-- Remove a team, its harts and, when no team of it is left to run, its farm (R398). Stores that no release has waited for stay, under
the hart's name, until they are performed. -/
def retireTeam (s : State) (uid : Nat) : State :=
  match s.team? uid with
  | none => s
  | some t =>
    let gone := fun (h : Hart) => h.id.ref.team == uid || (s.team? h.id.ref.team).isNone
    let others := (s.others.filter (fun h => !gone h || !h.stores.isEmpty)).map (fun h => if gone h then h.remains else h)
    let hart := if s.hart.id.ref.team == uid then (if s.hart.stores.isEmpty then Hart.blank else s.hart.remains) else s.hart
    let teams := s.teams.filter (fun x => x.uid != uid)
    let farmOver := fun (f : Farm) => !f.perTeam || f.ended == f.nteams
    let farms := s.farms.filter (fun f => !(f.uid == t.farm && farmOver f))
    { s with hart := hart, others := others, teams := teams, farms := farms }

/-- A hart of a per-team farm has ended: the team retires with its last hart, and the ring entry is freed with the farm's
last team (R33, R36, R398). -/
def perTeamEnd (s : State) (t : Team) (f : Farm) : State :=
  if (s.teamHarts t.uid).all (fun h => h.run == .retired) then
    let n := f.ended + 1
    let s1 := s.updFarm f.uid (fun x => { x with ended := n })
    let s2 := if n = f.nteams then freeSlot s1 f.queue f.slot else s1
    retireTeam s2 t.uid
  else s

/-- The handler of the current hart has ended (R353, R396): barriers left in per-team mode, lanes released, the end
counted, the ring entry freed. -/
def finishHandler (s : State) (byDone : Bool) : State :=
  let m := s.hart.msg
  match s.team? s.hart.id.ref.team with
  | none => s.withHart (s.hart.cleared .free)
  | some t =>
    let farm := s.farm? t.farm
    let perTeam := (farm.map (fun f => f.perTeam)).getD false
    let s1 := if perTeam then leaveBarriers s else s
    let s2 := streamEnded (countEnd (billHart s1) byDone) byDone
    let s3 := s2.withHart (s2.hart.cleared (if perTeam then .retired else .free))
    let s4 := s3.updTeam t.uid (fun x => { x with idleNs := 0 })
    if perTeam then
      match farm with
      | some f => perTeamEnd s4 t f
      | none => s4
    else
      match m with
      | some m => freeSlot s4 m.queue m.slot
      | none => s4

/-- A hart that R353 ends is done with its copies and stores: held ones are discarded (R310, R353). It waits for the lines that have
retired and are not yet translated, where R9 has it perform no release (DESIGN CHOICE, log 39). -/
def endingOver (h : Hart) : Bool :=
  h.stores.all (fun l => l.stage == .held || l.stage == .window) && h.streams.toList.all (fun x => x.queue.isEmpty)

/-- The end of a handler under R353, once its copies and stores are over. -/
def finishEnding (s : State) : State := if endingOver s.hart then finishHandler s false else s

end Sys2Proof.Machine
end

