-- ==== Sys2Proof/Machine/Launch.lean ====
section
/-! DEFINITION. Messages, queues and the timer unit: the checks of R433, enqueueing, refusals and their records (R27 to
R34, R39, R42 to R44, R58, R411). -/

namespace Sys2Proof.Machine

/-- The facets' dies stand still: after a trip, in RECOVERY, and in an emergency once every team is saved (R388, R392, R415, R416). -/
def diesStill (s : State) : Bool :=
  s.boot.state == .tripped || s.boot.state == .recovery || (s.power.emergency.map (fun e => decide (2 ≤ e.stage))).getD false

/-- A hart's context has reached HBM in an emergency, its store lines with it (R388). -/
def contextSaved (s : State) (r : HartRef) : Bool := ((s.team? r.team).map (fun t => t.spaceSaved)).getD false

/-! ## The message (Tables 2.1 and 2.2) -/

/-- MSGTYPE. -/
def msgType (m : BitVec 512) : BitVec 16 := m.extractLsb' 0 16
/-- CLASS [1:0]. -/
def msgClass (m : BitVec 512) : BitVec 2 := m.extractLsb' 16 2
/-- SIDV. -/
def msgSidv (m : BitVec 512) : Bool := m.getLsbD 24
/-- STREAM. -/
def msgStream (m : BitVec 512) : BitVec 32 := m.extractLsb' 32 32
/-- ARGPTR. -/
def msgArg (m : BitVec 512) : Word := m.extractLsb' 64 64
/-- OPT0 or OPT1. -/
def msgOpt (m : BitVec 512) (i : Nat) : Word := m.extractLsb' (128 + 64 * i) 64
/-- OID of an optional field. -/
def optId (x : Word) : Nat := natBits x.toNat 0 8
/-- MU of an optional field. -/
def optMu (x : Word) : Bool := x.getLsbD 8
/-- VALUE of an optional field. -/
def optVal (x : Word) : Nat := natBits x.toNat 16 48

/-- The field layout of R28 is broken. -/
def optBroken (x : Word) : Bool := natBits x.toNat 9 7 != 0 || (optId x == 0 && x != 0)

/-- The message breaks a rule of Table 2.1 or the layout of R28 (R27). -/
def malformed (m : BitVec 512) : Bool :=
  msgType m == 0xFFFF || natBits m.toNat 18 6 != 0 || natBits m.toNat 25 7 != 0
    || (!msgSidv m && msgStream m != 0) || optBroken (msgOpt m 0) || optBroken (msgOpt m 1)
    || (optId (msgOpt m 0) != 0 && optId (msgOpt m 0) == optId (msgOpt m 1))

/-- The module a queue serves (R26, R31). -/
def Queue.mod? (q : Queue) (s : State) : Option Module :=
  (s.space q.space.toNat).modules.find? (fun m => m.num == q.modNo.toNat)

/-- A facet belongs to a mask. -/
def inMask (mask : BitVec 8) (f : Nat) : Bool := mask.getLsbD f

/-- The facets of a partition, ascending. -/
def Partition.list (p : Partition) : List Nat := (List.range 8).filter (fun f => inMask p.facets f)

/-- A partition by its number. -/
def State.part (s : State) (p : Nat) : Partition :=
  (s.parts[p]?).getD { en := false, facets := 0, logVlp := 0, badcfg := false, state := .running, savePa := 0, restoring := false }

/-- A partition is parked: its context stands in shadow SRAM or in HBM (R54). -/
def partParked (s : State) (p : BitVec 3) : Bool := (s.part p.toNat).state == .shadow || (s.part p.toNat).state == .hbm

/-- Segment units of a team of a module: max(NEARSEG, SEGMIN) (R56). -/
def segUnits (s : State) (space : Nat) (m : Module) : Nat := max m.nearseg (s.space space).segmin

/-- The gang capacity of a queue's partition for its module (R58). -/
def gangCapacity (s : State) (q : Queue) (m : Module) : Nat :=
  let units := segUnits s q.space.toNat m
  let perCluster := if units = 0 then 512 / m.teamSize else min (512 / m.teamSize) (1024 / units)
  (s.part q.part.toNat).list.length * 32 * perCluster

/-- An optional field is understood, in range and applies to the queue (Table 2.2, R29, R58). -/
def optAccepted (s : State) (q : Queue) (x : Word) : Bool :=
  let v := optVal x
  match optId x with
  | 0 | 1 | 2 => true
  | 3 => q.perTeam && decide (1 ≤ v && v ≤ 4096)
      && (match q.mod? s with
          | some m => !m.gang || decide (v ≤ gangCapacity s q m)
          | none => true)
  | 4 => q.perTeam
  | 5 => decide (9 ≤ v && v ≤ 16)
  | _ => false

/-- The value of an accepted optional field (R29). -/
def optValue (s : State) (q : Queue) (m : BitVec 512) (id : Nat) : Option Nat :=
  ([msgOpt m 0, msgOpt m 1].find? (fun x => optId x == id && optAccepted s q x)).map optVal

/-- A field that R29 does not accept has MU = 1. -/
def mustUnd (s : State) (q : Queue) (m : BitVec 512) : Bool :=
  [msgOpt m 0, msgOpt m 1].any (fun x => !optAccepted s q x && optMu x)

/-- The instant a 48-bit field resolves to at global time `n` (R42). -/
def resolveInstant (n : Word) (v : Nat) : Int :=
  let lo : Int := (n.toNat : Int) - 2 ^ 47
  lo + ((v : Int) - lo) % 2 ^ 48

/-! ## Records and refusals (R34, R409) -/

/-- Raise an MSI-X vector that is not masked (R409, log 18). -/
def raiseMsix (s : State) (v : Nat) : State :=
  if s.boot.msixMask.getLsbD v then s else { s with boot := { s.boot with msix := s.boot.msix ||| BitVec.ofNat 8 (2 ^ v) } }

/-- Write a launch event record (Table 2.5, log 16); none in TRIPPED, where the rings lie in HBM that refreshes itself (R416). -/
def launchEvent (s : State) (part : BitVec 3) (queue : Nat) (type : BitVec 16) (code : BitVec 8) (o : Origin) : State :=
  if s.boot.state == .tripped then s
  else
    let e : LaunchEvent :=
      { time := s.clock.now, part := part, queue := BitVec.ofNat 16 queue, msgType := type, code := code, origin := o }
    raiseMsix { s with events := s.events ++ [e] } 0

/-- A queue number that the device has. -/
def knownQueue (q : Nat) : Bool := decide (q ≤ 0xFFFF)

/-- Count a refusal in the queue's DROPS and LASTCODE (R34). -/
def countDrop (s : State) (q : Nat) (code : BitVec 8) : State :=
  if knownQueue q then
    let x := s.queue q
    s.setQueue { x with drops := BitVec.ofNat 16 (min 0xFFFF (x.drops.toNat + 1)), lastCode := code }
  else s

/-- The partition whose ring a record for a queue goes to; 0 for a queue number that the device has no descriptor for, which the
record shows by its low 16 bits (DESIGN CHOICE, log 16). -/
def queuePart (s : State) (q : Nat) : BitVec 3 := if knownQueue q then (s.queue q).part else 0

/-- Refuse a message: a hart's `launch` is told in its register only, every other is counted and recorded (R34). -/
def refuse (s : State) (q : Nat) (m : BitVec 512) (code : BitVec 8) (o : Origin) : State :=
  match o with
  | .launch => s
  | _ => launchEvent (countDrop s q code) (queuePart s q) q (msgType m) code o

/-! ## The ring (R32, R33) -/

/-- Ring entries of a queue. -/
def Queue.depth (q : Queue) : Nat := 2 ^ (q.logDepth.toNat + 6)

/-- The first entry that is not held, searching from the entry after the one written last (R33). Where none has been written the
search starts at entry 0, and the one written last stays the same across a disable (DESIGN CHOICE, log 33). -/
def Queue.freeEntry (q : Queue) : Option Nat :=
  let start := match q.lastSlot with
    | some k => k + 1
    | none => 0
  ((List.range (q.held.length + 1)).map (fun i => (start + i) % q.depth)).find? (fun i => !q.held.contains i)

/-- The physical address of a ring entry whose page keeps R32; none is RINGFAULT. A ring in the near window is reached through its
page's leaf like any other, though R282 has no access of a hart use a mapping there (DESIGN CHOICE, log 33). -/
def ringEntry (s : State) (q : Queue) (slot : Nat) : Option Nat :=
  let va := q.ringVa.toNat + slot * 64
  if !addressOk s q.space.toNat q.part.toNat va then none
  else
    match walkLeaf s q.space.toNat q.part.toNat va with
    | none => none
    | some (pte, _) =>
      if leafValid pte va && !natBit pte 2 && natBits pte 4 2 == 0 && !natBit pte 6 && !natBit pte 7 then
        some (pteFrame pte + va % 65536)
      else none

/-- What the hub reads in memory to translate an address of a space: the space-table entry and the entries of the walk, none of which it
keeps (R230, R232). -/
def hubReads (s : State) (space part va : Nat) : List Nat :=
  let next := fun (a align : Nat) (k : Nat → List Nat) => a :: ((nextTable (readLE s.mem a 8) align).map k).getD []
  if !s.trans.en then []
  else
    spaceEntryAt s space :: ((walkRoot s space part va).map (fun root =>
      next (root + natBits va 42 14 * 8) 0x1000 (fun l1 =>
        next (l1 + natBits va 33 9 * 8) 0x1000 (fun l2 =>
          next (l2 + natBits va 24 9 * 8) 0x800 (fun l3 => [l3 + natBits va 16 8 * 8]))))).getD []

/-! ## The checks of R433 -/

/-- Who sends a message: how it entered the device, and for a `launch` the hart, its space and its partition (R45, R433). -/
structure Sender where
  origin : Origin
  owner : Option (BitVec 14 × BitVec 3)
  hart : Option HartRef

/-- A sender that is no hart. -/
def Sender.of (o : Origin) : Sender := { origin := o, owner := none, hart := none }

/-- A `launch` to a queue of another partition, or of another space while OPEN = 0, is denied (R433, check 3). -/
def denied (q : Queue) (owner : Option (BitVec 14 × BitVec 3)) : Bool :=
  (owner.map (fun o => q.part != o.2 || (q.space != o.1 && !q.openq))).getD false

/-- Checks 3 to 8 at the device that holds the queue; `fired`: the message comes from the timer unit. 0 is accepted. -/
def checkQueue (s : State) (w : Sender) (qn : Nat) (m : BitVec 512) (fired : Bool) : BitVec 8 :=
  let q := s.queue qn
  if !knownQueue qn then 2
  else if denied q w.owner then 9
  else if !q.en || s.boot.state == .tripped then 2
  else if mustUnd s q m then 3
  else if !fired && (optValue s q m 2).isSome && 16384 ≤ s.timers.length then 10
  else
    match q.freeEntry with
    | none => 1
    | some slot => if (ringEntry s q slot).isSome then 0 else 5

/-- The snoop that the hub waits for before it takes a message for queue `qn`: of a line that the host holds and that the translation of
the ring entry reads, or that the message is written to at once (R252, R408). A message that no ring entry decides on needs none. -/
def ringWaits (s : State) (w : Sender) (qn : Nat) (m : BitVec 512) (fired : Bool) : Option State :=
  let q := s.queue qn
  let code := checkQueue s w qn m fired
  match (if code = 0 || code = 5 then q.freeEntry else none) with
  | none => none
  | some slot =>
    let va := q.ringVa.toNat + slot * 64
    match snoopReads s (hubReads s q.space.toNat q.part.toNat va) with
    | some s1 => some s1
    | none =>
      if !fired && (optValue s q m 2).isSome then none
      else (ringEntry s q slot).bind (fun pa => snoopLine s (pa / 128) true)

/-- Put an accepted message into its ring entry (R33), of whose line the host holds no copy (R252, R408). -/
def enqueue (s : State) (qn : Nat) (m : BitVec 512) (deadline : Option Int) (o : Origin) : State :=
  let q := s.queue qn
  match q.freeEntry with
  | none => s
  | some slot =>
    match ringEntry s q slot with
    | none => s
    | some pa =>
      let s1 := frameWrite s pa 64 m.toNat (2 ^ 512 - 1)
      s1.setQueue { q with held := slot :: q.held, lastSlot := some slot
                           pending := q.pending ++ [{ slot := slot, msg := m, deadline := deadline, origin := o }] }

/-- A RINGFAULT also clears EN (R32). -/
def ringFault (s : State) (qn : Nat) (code : BitVec 8) : State :=
  if code = 5 then let q := s.queue qn; s.setQueue { q with en := false } else s

/-- A message for a queue of this device: its disposition, and the state after it (R33, R42, R433). -/
def deliverHere (s : State) (w : Sender) (qn : Nat) (m : BitVec 512) : BitVec 8 × State :=
  let code := checkQueue s w qn m false
  if code ≠ 0 then (code, ringFault (refuse s qn m code w.origin) qn code)
  else
    let q := s.queue qn
    let dl := (optValue s q m 1).map (resolveInstant s.clock.now)
    match optValue s q m 2 with
    | some v =>
      let t : Timed := { at_ := resolveInstant s.clock.now v, queue := qn, msg := m, deadline := dl, launched := w.owner }
      (0, { s with timers := s.timers ++ [t] })
    | none => (0, enqueue s qn m dl w.origin)

/-- The port that leads to a device, if a route exists and is up (R411). -/
def routeTo (s : State) (d : Nat) : Option Nat :=
  let p := (vget s.route d 0xFF).toNat
  match s.ports[p]? with
  | some x => if x.en && x.up then some p else none
  | none => none

/-- A message leaves a port after an earlier one: of the same source to the same device (R411), or of a class as high (R63). -/
def PortMsg.follows (m e : PortMsg) : Bool :=
  (e.source == m.source && e.origin == m.origin && e.device == m.device) || decide (e.cls.toNat ≤ m.cls.toNat)

/-- A message takes its place among those that wait at a port, the next to leave first (Table 3.4, R63, R411; log 46). -/
def atEgress (m : PortMsg) : List PortMsg → List PortMsg
  | [] => [m]
  | e :: rest => if (e :: rest).any m.follows then e :: atEgress m rest else m :: e :: rest

/-- Send a message over a peer port (R411). -/
def forward (s : State) (p d qn : Nat) (m : BitVec 512) (w : Sender) : State :=
  match s.ports[p]? with
  | none => s
  | some x =>
    let pm : PortMsg :=
      { device := BitVec.ofNat 8 d, queue := qn, msg := m, origin := w.origin, part := (w.owner.map (fun o => o.2)).getD 0
        source := w.hart, cls := msgClass m }
    { s with ports := vset s.ports p { x with flight := atEgress pm x.flight } }

/-- A message for any device: the disposition at this device (R411, R433). The record of one for another device goes to the ring of
partition 0 (DESIGN CHOICE, log 16). -/
def dispose (s : State) (w : Sender) (d qn : Nat) (m : BitVec 512) : BitVec 8 × State :=
  let own := d = s.devnum.toNat
  if w.origin != .peer && malformed m then (4, if own then refuse s qn m 4 w.origin
    else if w.origin == .launch then s else launchEvent s 0 qn (msgType m) 4 w.origin)
  else if own then deliverHere s w qn m
  else
    match routeTo s d with
    | some p => (0, forward s p d qn m w)
    | none => (6, if w.origin == .launch then s else launchEvent s 0 qn (msgType m) 6 w.origin)

/-! ## Wake writes, timers, peers -/

/-- A message arrives over the host link or a peer port. The hub holds none outside the rings (R33): while the line that it needs is with
the host, the message waits where it came from, and so do those behind it (DESIGN CHOICE, log 33). -/
def receive (s : State) (o : Origin) (d qn : Nat) (m : BitVec 512) : State :=
  if d ≠ s.devnum.toNat || (o != .peer && malformed m) then (dispose s (.of o) d qn m).2
  else
    let x : Inbound := { origin := o, queue := qn, msg := m }
    if !s.inbound.isEmpty then { s with inbound := s.inbound ++ [x] }
    else
      match ringWaits s (.of o) qn m false with
      | some s1 => { s1 with inbound := [x] }
      | none => (dispose s (.of o) d qn m).2

/-- A write of the wake space at an offset from WAKEBASE: 64 aligned bytes are a message, anything else is refused as
MALFORMED; offsets of 4 MiB or more in a slice are refused as QOFF (R39, R433). One that a hart's device-class store makes is
recorded with ORIGIN 0 as well, since Table 2.5 gives it no other (DESIGN CHOICE, log 16). -/
def wakeWrite (s : State) (off bytes : Nat) (m : BitVec 512) : State :=
  let d := off / 2 ^ 32 % 256
  let qn := off % 2 ^ 32 / 64
  if off % 64 = 0 && bytes = 64 then receive s .host d qn m
  else if d = s.devnum.toNat then refuse s qn m 4 .host
  else launchEvent s 0 qn (msgType m) 4 .host

/-- The device takes messages: not before READY, and in RECOVERY only CXL.io configuration and HCMD work (R415, R416). -/
def takesMessages (s : State) : Bool :=
  match s.boot.state with
  | .ready | .emergency | .tripped => true
  | .rom | .verify | .recovery => false

/-- The hub takes the oldest message that waits for it, if it may. -/
def takeInbound (s : State) : State :=
  match s.inbound with
  | [] => s
  | x :: rest =>
    if !takesMessages s then s
    else (ringWaits s (.of x.origin) x.queue x.msg false).getD
      (deliverHere { s with inbound := rest } (.of x.origin) x.queue x.msg).2

/-- WAKE_WRITE (R39, R406): the host writes BAR2, the 4 MiB of the device's own slice that hold its queues. -/
def execWakeWrite (offset bytes : Nat) (data : BitVec 512) (s : State) : Out :=
  if takesMessages s && decide (offset < 0x400000) then .next (wakeWrite s (s.devnum.toNat * 2 ^ 32 + offset) bytes data)
  else .next s

/-- A held timed message fires: checks 3, 4, 5, 7 and 8 again, then it is enqueued or refused with ORIGIN 3 (R43). -/
def fireTimed (s : State) (t : Timed) : State :=
  let w : Sender := { origin := .timer, owner := t.launched, hart := none }
  let code := checkQueue s w t.queue t.msg true
  if code = 0 then enqueue s t.queue t.msg t.deadline .timer
  else ringFault (refuse s t.queue t.msg code .timer) t.queue code

/-- A held timed message is due, and fires before every other due one of an earlier instant or acceptance (R33, R43); none fires
in TRIPPED, before READY or in RECOVERY (R415, R416). -/
def timerDue (s : State) (i : Nat) : Bool :=
  match s.timers[i]? with
  | none => false
  | some t => (s.boot.state == .ready || s.boot.state == .emergency) && decide (t.at_ ≤ (s.clock.now.toNat : Int))
      && (List.range s.timers.length).all (fun j => match s.timers[j]? with
          | some u => decide (t.at_ < u.at_) || (t.at_ == u.at_ && decide (i ≤ j))
          | none => true)

/-- TIMER_FIRE (R43, R416): a message whose ring entry needs a line that the host holds stays in the timer unit until the host has
answered (R252, R408). -/
def execTimerFire (i : Nat) (s : State) : Out :=
  match s.timers[i]? with
  | none => .next s
  | some t =>
    if !timerDue s i then .next s
    else
      match ringWaits s { origin := .timer, owner := t.launched, hart := none } t.queue t.msg true with
      | some s1 => .next s1
      | none => .next (fireTimed { s with timers := s.timers.eraseIdx i } t)

/-- PEER_MESSAGE_RECEIVE: a message over a port that is up is for this device, or is forwarded (R411); in TRIPPED too, where
the hub keeps its rails (R416). -/
def execPeerMessageReceive (port : BitVec 3) (device : BitVec 8) (queue : Nat) (msg : BitVec 512) (s : State) : Out :=
  match s.ports[port.toNat]? with
  | none => .next s
  | some p =>
    if p.en && p.up && takesMessages s then .next (receive s .peer device.toNat queue msg)
    else .next s

end Sys2Proof.Machine
end

