-- ==== Sys2Proof/Machine/Place.lean ====
section
/-! DEFINITION. Where teams stand: capacity of clusters, starting, stopping, resuming and moving a team (R37, R50, R56 to
R61, R372; logs 22, 25, 29, 32, 40). -/

namespace Sys2Proof.Machine

/-! ## Capacity (R57) -/

/-- A team holds its harts of its cluster. -/
def Team.occupies (t : Team) : Bool :=
  match t.status with
  | .resident | .moving _ _ _ | .stopped .thermal => true
  | .stopped _ => false

/-- The free harts of a cluster, ascending. -/
def freeSlots (s : State) (f c : Nat) : List Nat :=
  let used := (s.teams.filter (fun t => t.occupies && t.at f c)).flatMap (fun t => t.slots)
  (List.range 512).filter (fun i => !used.contains i)

/-- Harts of a cluster kept for teams on their way to it. -/
def comingHarts (s : State) (f c : Nat) : Nat := ((s.teams.filter (fun t => t.movesTo f c)).map (fun t => t.size)).sum

/-- A team's segment may be saved for a placement that needs its scratchpad: the team is pre-empted, and its partition is not parked,
whose segments stay in place (R55, R285). -/
def Team.yieldsSegment (t : Team) (s : State) : Bool := t.status == .stopped .preempt && !t.segSaved && !partParked s t.part

/-- Scratchpad units of a cluster that a placement cannot have (R55, R285). -/
def claimedUnits (s : State) (f c : Nat) : Nat :=
  ((s.teams.filter (fun t => (t.holdsSegment && !t.yieldsSegment s && t.at f c) || t.movesTo f c)).map (fun t => t.segUnits)).sum

/-- Segments of pre-empted teams of a cluster are saved, the earliest team's first, while more is held than it has (R285; the order
is a DESIGN CHOICE, log 40). -/
def saveSegments (s : State) (f c : Nat) : State :=
  (s.teams.filter (fun t => t.yieldsSegment s && t.at f c)).foldl (fun x t =>
    if 1024 < usedUnits x f c then x.updTeam t.uid (fun y => { y with segSaved := true }) else x) s

/-- The harts that a team of `size` harts and `units` of scratchpad would get on a cluster: the lowest free ones, the lowest for
index 0 (DESIGN CHOICE, log 25). -/
def fits (s : State) (f c size units : Nat) : Option (List Nat) :=
  let free := freeSlots s f c
  if size + comingHarts s f c ≤ free.length && claimedUnits s f c + units ≤ 1024 then some (free.take size) else none

/-- The first cluster with room, over facets in a given order and clusters in ascending number (R57). -/
def findCluster (s : State) (facets : List Nat) (size units : Nat) : Option (Nat × Nat × List Nat) :=
  facets.findSome? (fun f => (List.range 32).findSome? (fun c => (fits s f c size units).map (fun l => (f, c, l))))

/-! ## Classes of teams (R60) -/

/-- A hart is inside a handler: one that waits for its first grant has not entered it (R11). -/
def inHandler (h : Hart) : Bool := h.run.inHandler

/-- The rank of a team: its smallest PRIO.CLASS among harts that run a handler; 4 where none does. -/
def teamRank (s : State) (uid : Nat) : Nat :=
  ((s.teamHarts uid).filter inHandler).foldl (fun r h => min r h.sc.prio.toNat) 4

/-- The module a team runs. -/
def Team.mod? (t : Team) (s : State) : Option Module := (s.space t.space.toNat).modules.find? (fun m => m.num == t.modNo)

/-! ## Starting a team -/

/-- The HARTID bits of a hart of a cluster (Table 3.2). -/
def physOf (f c slot : Nat) : BitVec 17 := BitVec.ofNat 17 (f * 2 ^ 14 + c * 2 ^ 9 + slot)

/-- The first stack region for a new team of a module: the lowest run of regions no other team of the module has. None where jxload
has allocated no such run: the teams that are pre-empted keep theirs, and the launch waits (R16, R60; DESIGN CHOICE, log
25). -/
def stackFor (s : State) (space : BitVec 14) (m : Module) : Option Nat :=
  let mine := s.teams.filter (fun t => t.space == space && t.modNo == m.num)
  let clear := fun (k : Nat) => mine.all (fun t => k + m.teamSize ≤ t.stackAt || t.stackAt + t.size ≤ k)
  (((0 :: mine.map (fun t => t.stackAt + t.size)).filter clear).min?).filter
    (fun k => decide ((k + m.teamSize) * m.stackSize ≤ m.stackBytes))

/-- A new hart of a team (R37, R50, R399). -/
def newHart (t : Team) (m : Module) (seed : Word) (msg : Option MsgRef) (idx slot : Nat) : Hart :=
  let id : HartId :=
    { ref := { team := t.uid, idx := idx }, phys := physOf t.facet t.cluster slot, space := t.space, part := t.part
      teamId := BitVec.ofNat 12 t.teamId, teamSize := BitVec.ofNat 10 t.size, modNo := t.modNo }
  let sr : Word := seed + BitVec.ofNat 64 (t.teamId * 0x10000 + idx)
  { Hart.blank with id := id, run := if msg.isSome then .assigned else .free, msg := msg
                    sc := { Hart.blank.sc with srseed := sr }
                    ln := { Hart.blank.ln with vlmax := m.vlc, vlmin := m.vlmin } }

/-- A segment has come to a cluster: segments of pre-empted teams give way, and the cluster's spill is placed anew: hart by hart, to
the carve-out while it lasts, then to HBM (R154, R285). -/
def respill (s0 : State) (key : Nat) : State :=
  let s := saveSegments s0 (key / 32) (key % 32)
  let room := (1024 - usedUnits s (key / 32) (key % 32)) * 4096
  ((s.harts.filter (fun h => h.id.clusterKey == key)).foldl (fun (x : State × Nat) h =>
    (x.1.updHarts (fun k => k.id.ref == h.id.ref) (fun k => { k with ln := k.ln.spillInto x.2 }), x.2 - h.ln.spilled)) (s, room)).1

/-- The harts of a team join its barriers, and those of a GANG farm (R332, R333). -/
def joinBarriers (s : State) (t : Team) : State :=
  let refs := (List.range t.size).map (fun i => ({ team := t.uid, idx := i } : HartRef))
  let join := fun (b : Barrier) => { b with members := b.members ++ refs }
  let s1 := s.updTeam t.uid (fun x => { x with bars := x.bars.map join })
  s1.updFarm t.farm (fun f =>
    if f.gang then
      { f with pkg := f.pkg.map join
               fac := vset f.fac t.barFacet ((vget f.fac t.barFacet (Vector.replicate 8 Barrier.none)).map join) }
    else f)

/-- Where a team starts: its cluster, its harts there, its first stack region. -/
structure Site where
  facet : Nat
  cluster : Nat
  slots : List Nat
  stackAt : Nat

/-- The site of a team of a module, if there is room for it and its stacks (R16, R57). -/
def findSite (s : State) (facets : List Nat) (space : BitVec 14) (m : Module) : Option Site :=
  (stackFor s space m).bind (fun k => (findCluster s facets m.teamSize (segUnits s space.toNat m)).map (fun x =>
    { facet := x.1, cluster := x.2.1, slots := x.2.2, stackAt := k }))

/-- Start a team of a farm on a cluster (R37, R57): its harts, its zero segment, its barriers. -/
def startTeam (s : State) (farm teamId : Nat) (q : Queue) (m : Module) (seed : Word) (msg : Option MsgRef) (x : Site) : State :=
  let t : Team :=
    { uid := s.nextUid, farm := farm, queue := q.num, teamId := teamId, size := m.teamSize, space := q.space
      part := q.part, modNo := m.num, facet := x.facet, cluster := x.cluster, slots := x.slots, barFacet := x.facet, order := s.clock.ran
      status := .resident, segUnits := segUnits s q.space.toNat m, seg := [], segSaved := false, bars := Vector.replicate 8 Barrier.none
      stackAt := x.stackAt, idleNs := 0, spaceSaved := false }
  let harts := x.slots.zipIdx.map (fun y => newHart t m seed msg y.2 y.1)
  let s1 := { s with teams := s.teams ++ [t], others := s.others ++ harts, nextUid := s.nextUid + 1 }
  respill (joinBarriers s1 t) (x.facet * 32 + x.cluster)

/-- A farm with no team yet (R50, R62, R332). -/
def newFarm (uid queue : Nat) (perTeam gang : Bool) (slot nteams : Nat) : Farm :=
  { uid := uid, queue := queue, perTeam := perTeam, gang := gang, slot := slot, nteams := nteams, ended := 0
    disp := Vector.replicate 8 { next := 0, limit := 0 }, pkg := Vector.replicate 8 Barrier.none
    fac := Vector.replicate 8 (Vector.replicate 8 Barrier.none) }

/-! ## Stopping a team (R54, R60, R61, R372, R388) -/

/-- A team can stop at once: no hart has a device-class access in flight or an instruction that must complete (R66,
R354). -/
def stoppable (s : State) (uid : Nat) : Bool :=
  (s.teamHarts uid).all (fun h => !h.wait.mustFinish && !deviceBusy s h)

/-- A team runs or is on its way to a cluster. -/
def Team.live (t : Team) : Bool :=
  match t.status with
  | .resident | .moving _ _ _ => true
  | .stopped _ => false

/-- The notices that a stop makes pending on a hart that runs a handler (R372). -/
def Hart.noteStop (h : Hart) (now : Word) (why : StopReason) : Notices :=
  if h.run != .running then h.notice
  else
    match why with
    | .preempt | .parked => { h.notice with preempt := some now }
    | .thermal => { h.notice with thermal := some now }
    | .move => h.notice

/-- A hart stops: its lanes are saved and given up; an instruction that waits is executed again when the hart runs again (R372); a
`yield` counts its cycles anew there (log 47). -/
def Hart.stop (h : Hart) (now : Word) (why : StopReason) : Hart :=
  { h with ln := { h.ln.giveUp with req := none, headDevc := false, headFound := none }, notice := h.noteStop now why
           wait := match h.wait with
             | .yield _ => .stall
             | w => w }

/-- Stop every hart of a team and give it a status: what its uncached WC loads have read is read again (Table 6.5). -/
def stopTeam (s : State) (uid : Nat) (status : TeamStatus) (why : StopReason) : State :=
  let s1 := ((noteOut s uid).squashReads (fun o => o.hart.team == uid)).updTeam uid (fun t => { t with status := status })
  s1.updHarts (fun h => h.id.ref.team == uid) (fun h => h.stop s.clock.now why)

/-! ## Resuming a team -/

/-- Bind a hart's unchanged VL to lanes of its cluster, folded by at least 2^`low` (R61). -/
def rebindHart (low : Nat) (s : State) (r : HartRef) : Option State :=
  match s.activate r with
  | none => some s
  | some s1 =>
    if s1.hart.ln.len = 0 || s1.hart.ln.released then some s1
    else (findBacking s1 s1.hart.ln.len low).map (fun x => bindBacking s1 x.1 x.2)

/-- A barrier with the release times of a team that was out at its completion: the delay of the cluster it resumes on
(R342). -/
def Barrier.release (b : Barrier) (s : State) (k : BarKind) (uid : Nat) : Barrier :=
  let fix := fun (w : Window) (x : HartRef × Option ReleaseAt) =>
    if x.1.team == uid && x.2.isNone then (x.1, (s.hart? x.1).map (fun h => releaseAt w.lanes w.plans k h.id)) else x
  { b with windows := b.windows.map (fun w => { w with release := w.release.map (fix w) }) }

/-- Give a resumed team's waiters their release times (R342). -/
def setReleases (s : State) (uid : Nat) : State :=
  match s.team? uid with
  | none => s
  | some t =>
    let s1 := s.updTeam uid (fun x => { x with bars := x.bars.map (fun b => b.release s .team uid) })
    s1.updFarm t.farm (fun f =>
      { f with pkg := f.pkg.map (fun b => b.release s .package uid)
               fac := f.fac.map (fun row => row.map (fun b => b.release s .facet uid)) })

/-- A hart resumes on a cluster: its HARTID follows it, its notice stays only where the space asks for it (R61, R372). -/
def Hart.resume (h : Hart) (f c : Nat) (slots : List Nat) (keep : Bool) (why : StopReason) : Hart :=
  { h with id := { h.id with phys := physOf f c (slots.getD h.id.ref.idx 0) }
           notice := if keep || why == .move then h.notice else { h.notice with preempt := none, thermal := none } }

/-- Every store of a hart has been performed or is held (R331). -/
def Hart.settled (h : Hart) : Bool := h.stores.all (fun l => l.stage == .held)

/-- Resume a team on harts of a cluster (R61, R372), every hart at F = 1 where the allocator can, folded otherwise; none
where some hart cannot be bound to lanes, or a store of one is neither performed nor held (R331). The harts are bound in the order of
g3, each at the least F of at least 2^`k` that the groups left allow; `k` starts at `low` and rises until every hart is bound (DESIGN
CHOICE, log 50). -/
def resumeTeam (low : Nat) (s : State) (uid f c : Nat) (slots : List Nat) (why : StopReason) : Option State :=
  match s.team? uid with
  | none => none
  | some t =>
    if !(s.teamHarts uid).all Hart.settled then none
    else
    let keep := (s.space t.space.toNat).note
    let s1 := s.updTeam uid (fun x => { x with facet := f, cluster := c, slots := slots, status := .resident, segSaved := false })
    let s2 := s1.updHarts (fun h => h.id.ref.team == uid) (fun h => h.resume f c slots keep why)
    let refs := (List.range t.size).map (fun i => ({ team := uid, idx := i } : HartRef))
    let bound := ((List.range 4).filter (fun k => low ≤ k)).findSome? (fun k =>
      refs.foldl (fun o r => o.bind (fun x => rebindHart k x r)) (some s2))
    bound.map (fun x => setReleases (respill x (f * 32 + c)) uid)

/-! ## Choosing what to place -/

/-- The facets of a team's placement, in the order of R57. -/
def facetOrder (s : State) (q : Queue) (m : Module) (r : RingMsg) : List Nat :=
  let all := (s.part q.part.toNat).list
  let pin := if m.stream && q.strm && msgSidv r.msg then
      (s.streamEntries.filter (fun e => e.space == q.space && e.stream == msgStream r.msg && !e.draining)).map
        (fun e => e.facet)
    else []
  pin.filter (fun f => all.contains f) ++ all.filter (fun f => inMask m.facets f) ++ all

/-- The handler that a module runs for a message type: the bound one, else the default (R12, R26). -/
def Module.handler? (m : Module) (t : BitVec 16) : Option Handler :=
  match m.handlers.find? (fun h => h.msgType == t) with
  | some h => some h
  | none => m.handlers.find? (fun h => h.msgType == 0xFFFF)

/-- The effective class of a message (R30). -/
def effClass (q : Queue) (m : Module) (msg : BitVec 512) : BitVec 2 :=
  BitVec.ofNat 2 (max (msgClass msg).toNat (max q.cls.toNat m.cls.toNat))

/-- What a hart that runs a message is given (R10, R11, R35); VLREQ is clamped to the module's range (R28). -/
def msgRefOf (s : State) (q : Queue) (m : Module) (hd : Handler) (r : RingMsg) (stream : Option (BitVec 32)) : MsgRef :=
  { queue := q.num, slot := r.slot, msgVa := q.ringVa.setWidth 64 + BitVec.ofNat 64 (r.slot * 64)
    argPtr := if msgArg r.msg = 0 then q.argDef.setWidth 64 else msgArg r.msg
    entry := hd.entry, request := match optValue s q r.msg 5 with
      | some v => max m.vlmin (min (2 ^ v) m.vlmax)
      | none => hd.request
    cls := effClass q m r.msg, stream := stream }

/-- Pinned lines of a facet. -/
def pinnedLines (s : State) (f : Nat) : Nat := ((s.streamEntries.filter (fun e => e.facet == f)).map (fun e => e.lines)).sum

/-- A facet can take a stream entry of `lines` lines: 4,096 entries, 128 MiB (R47, R48). -/
def streamRoom (s : State) (lines f : Nat) : Bool :=
  decide ((s.streamEntries.filter (fun e => e.facet == f)).length < 4096) && decide ((pinnedLines s f + lines) * 128 ≤ 0x8000000)

/-- The entry that a message of a queue asks for (R47). -/
def streamWant (q : Queue) (x : BitVec 32) (facet : Nat) : StreamWant :=
  { facet := facet, part := q.part, base := q.stateBase.setWidth 64 + BitVec.ofNat 64 (x.toNat * q.slines.toNat * 128)
    lines := q.slines.toNat, timeoutUs := q.timeout.toNat }

/-- The facet that takes an entry: the one where the message is placed, else the first of the partition with room (R47). -/
def StreamWant.place (w : StreamWant) (s : State) : Option Nat :=
  (w.facet :: (s.part w.part.toNat).list).find? (streamRoom s w.lines)

/-- The entry on a facet. -/
def StreamWant.entry (w : StreamWant) (f : Nat) (space : BitVec 14) (x : BitVec 32) (last : Word) (n : Nat) : StreamEntry :=
  { facet := f, space := space, stream := x, base := w.base, lines := w.lines, timeoutUs := w.timeoutUs, last := last
    running := n, draining := false, again := none }

/-- The stream of a message, of a queue with STRM = 1 (R47). -/
def streamOf (q : Queue) (r : RingMsg) : Option (BitVec 32) := if q.strm && msgSidv r.msg then some (msgStream r.msg) else none

/-- How many handlers run for a stream, pinned or not (R49). -/
def streamHandlers (s : State) (space : BitVec 14) (x : BitVec 32) : Nat :=
  (s.harts.filter (fun h => runsHandler h && h.id.space == space && h.msg.bind (fun m => m.stream) == some x)).length

/-- `n` handlers start on a message of a queue on a facet (R47, R49). `first`: the message is dispatched with them, so it asks for an
entry of its stream that no facet holds, and for a new one where the entry drains. -/
def startStream (s : State) (q : Queue) (r : RingMsg) (facet n : Nat) (first : Bool) : State :=
  match streamOf q r with
  | none => s
  | some x =>
    let mine := fun (e : StreamEntry) => e.space == q.space && e.stream == x
    let w := streamWant q x facet
    if s.streamEntries.any mine then
      { s with streamEntries := upd s.streamEntries mine (fun e =>
          { e with last := s.clock.now, running := e.running + n, again := if first && e.draining then some w else e.again }) }
    else
      match (if first then w.place s else none) with
      | none => s
      | some f =>
        { s with streamEntries := s.streamEntries ++ [w.entry f q.space x s.clock.now (streamHandlers s q.space x + n)] }

/-- The seed of a launch (R37): the message's, else the queue's QD5 as it stands when the team is launched. -/
def launchSeed (s : State) (q : Queue) (r : RingMsg) : Word :=
  match (if q.perTeam then optValue s q r.msg 4 else none) with
  | some v => BitVec.ofNat 64 v
  | none => (s.queue q.num).seed

/-- Place one team of a per-team farm, if there is room (R36, R57). -/
def placeOne (s : State) (q : Queue) (m : Module) (hd : Handler) (r : RingMsg) (farm teamId : Nat) : Option State :=
  (findSite s (facetOrder s q m r) q.space m).map (fun x =>
    let s1 := startStream s q r x.facet m.teamSize (teamId == 0)
    startTeam s1 farm teamId q m (launchSeed s q r) (some (msgRefOf s1 q m hd r (streamOf q r))) x)

/-- Serving teams of a queue in per-hart mode (R35). -/
def serving (s : State) (q : Queue) : List Team :=
  s.teams.filter (fun t => t.queue == q.num && t.space == q.space && t.modNo == q.modNo.toNat
    && !((s.farm? t.farm).map (fun f => f.perTeam)).getD true)

/-- The lowest TEAMID that no serving team holds (R50). -/
def freeTeamId (s : State) (q : Queue) : Nat :=
  let used := (serving s q).map (fun t => t.teamId)
  ((List.range q.maxTeams.toNat).find? (fun i => !used.contains i)).getD 0

/-- Launch one more team to serve a queue, if there is room (R35, R50). -/
def placeServer (s : State) (q : Queue) (m : Module) (r : RingMsg) : Option State :=
  (findSite s (facetOrder s q m r) q.space m).map (fun x =>
    let s1 := { s with farms := s.farms ++ [newFarm s.nextUid q.num false m.gang 0 1], nextUid := s.nextUid + 1 }
    startTeam s1 s.nextUid (freeTeamId s q) q m q.seed none x)

/-- Place what a launch may place now without pre-emption: a whole GANG farm, else its next team (R57, R58). -/
def placeNext (s : State) (p : Placing) (q : Queue) (m : Module) : Option State :=
  if p.perTeam then
    match m.handler? (msgType p.ring.msg) with
    | none => none
    | some hd =>
      if m.gang then
        (List.range p.count).foldl (fun o i => o.bind (fun x => placeOne x q m hd p.ring p.farm (p.first + i))) (some s)
      else placeOne s q m hd p.ring p.farm p.first
  else placeServer s q m p.ring

/-- The teams stopped together with one: its whole GANG farm, teams under a move included (R60), and also those of its teams whose own class
is not below that of the message (DESIGN CHOICE, log 40). -/
def gangOf (s : State) (t : Team) : List Nat :=
  if ((s.farm? t.farm).map (fun f => f.gang)).getD false then
    (s.teams.filter (fun x => x.farm == t.farm && x.live)).map (fun x => x.uid)
  else [t.uid]

/-- Victims of R60 for a class in a partition: lowest class first, then the most recently started. -/
def victims (s : State) (part : BitVec 3) (cls : Nat) : List Team :=
  let c := s.teams.filter (fun t => t.part == part && t.runs && decide (cls < teamRank s t.uid))
  c.mergeSort (fun a b =>
    decide (teamRank s b.uid < teamRank s a.uid)
      || (teamRank s a.uid == teamRank s b.uid && (decide (b.order < a.order) || (a.order == b.order && decide (b.uid ≤ a.uid)))))

/-- Pre-empt victims in order until a placement succeeds; none where it never does, and then no team is pre-empted (DESIGN CHOICE,
log 40), or where a victim cannot stop yet (R60). -/
def preemptUntil (place : State → Option State) (s : State) : List Team → Option State
  | [] => none
  | t :: rest =>
    if !((s.team? t.uid).map Team.runs).getD false then preemptUntil place s rest
    else
      let group := gangOf s t
      if group.all (fun u => stoppable s u) then
        let s1 := group.foldl (fun x u => stopTeam x u (.stopped .preempt) .preempt) s
        match place s1 with
        | some s2 => some s2
        | none => preemptUntil place s1 rest
      else none

/-! ## Pre-emption for lanes (R135) -/

/-- A hart may be folded now: it can be, its team is resident, and it has no device-class access in flight (R65, R66). -/
def foldableNow (s : State) (h : Hart) : Bool := foldable h && !isOut s h.id.ref && !deviceBusy s h

/-- The team that the allocator asks placement to pre-empt for the current hart's waiting request, when folding cannot free enough
groups for anything it accepts (R60, R135; log 40): the first victim with lanes on the hart's cluster that can stop now, with its
whole GANG farm. -/
def laneVictim (s : State) (q : GrantReq) : Option Team :=
  let h := s.hart
  if 1 < q.effective || !unmet s q then none
  else (victims s h.id.part q.effective).find? (fun t => t.uid != h.id.ref.team && (gangOf s t).all (fun u => stoppable s u)
    && (s.teamHarts t.uid).any (fun k => k.id.clusterKey == h.id.clusterKey && k.id.ref != h.id.ref && !k.ln.groups.isEmpty))

/-- Pre-empt a team for the current hart's waiting request, if it comes to that. -/
def askPreempt (s : State) : State :=
  match s.hart.ln.req.bind (laneVictim s) with
  | none => s
  | some t => (gangOf s t).foldl (fun x u => stopTeam x u (.stopped .preempt) .preempt) s

/-- The next unit of a launch placed, by pre-emption for RT and HIGH (R60). A per-team launch keeps the queue descriptor of its
dispatch while it waits, whatever is written to the queue since (R36; DESIGN CHOICE, log 25). -/
def tryPlace (s : State) (p : Placing) : Option State :=
  let q := if p.perTeam then p.desc else s.queue p.queue
  match q.mod? s with
  | none => none
  | some m =>
    match placeNext s p q m with
    | some s1 => some s1
    | none =>
      if p.cls.toNat ≤ 1 then preemptUntil (fun x => placeNext x p q m) s (victims s q.part p.cls.toNat) else none

/-- Work may be placed in a partition: dispatch runs and the partition is enabled and RUNNING (R53, R54, R390). -/
def partOpen (s : State) (part : BitVec 3) : Bool :=
  s.boot.state == .ready && s.power.emergency.isNone && (s.part part.toNat).en && (s.part part.toNat).state == .running

/-- Clearing EN has stopped the dispatch of a launch of which nothing has been placed (R38, R41). -/
def Placing.halted (p : Placing) (s : State) : Bool := p.perTeam && p.first == 0 && !(s.queue p.queue).en

/-- Free harts of the teams that serve a queue (R35). -/
def freeHarts (s : State) (q : Queue) : List Hart :=
  let ts := (serving s q).filter Team.runs
  s.harts.filter (fun h => h.run == .free && ts.any (fun t => t.uid == h.id.ref.team))

/-- A message is late (R28, R41). -/
def RingMsg.late (r : RingMsg) (now : Word) : Bool :=
  match r.deadline with
  | some t => decide (t < (now.toNat : Int))
  | none => false

/-- A launch for a queue in per-hart mode is still wanted: no serving team has a free hart, and MAXTEAMS allows one more (R31, R35). -/
def serverWanted (s : State) (q : Queue) (r : RingMsg) : Bool :=
  q.en && (freeHarts s q).isEmpty && decide ((serving s q).length < q.maxTeams.toNat)
    && (q.pending.head?.map (fun h => h.slot == r.slot)).getD false && !r.late s.clock.now

/-- A launch is still to be placed. -/
def Placing.wanted (p : Placing) (s : State) : Bool := !p.halted s && (p.perTeam || serverWanted s (s.queue p.queue) p.ring)

/-- A GANG farm of a partition waits for room (R58). -/
def Placing.reserves (p : Placing) (s : State) (part : BitVec 3) : Bool := p.gang && p.wanted s && p.desc.part == part

/-- The launch of index `i` waits for a reservation of R58: that of a GANG farm which placement serves before it, or, for a launch that
is no GANG farm, one of its class that has found no room. -/
def reserved (s : State) (i : Nat) (p : Placing) : Bool :=
  s.placing.zipIdx.any (fun x => x.2 != i && x.1.reserves s p.desc.part
    && (decide (x.1.cls.toNat < p.cls.toNat) || (x.1.cls == p.cls && (decide (x.2 < i) || (x.1.waiting && !p.gang)))))

/-- A launch may be placed now. -/
def placeable (s : State) (i : Nat) (p : Placing) : Bool :=
  partOpen s p.desc.part && p.wanted s && !reserved s i p && (tryPlace s p).isSome

/-- A launch that placement serves before number `i` can be placed now (R63). -/
def placeOutranked (s : State) (i : Nat) (p : Placing) : Bool :=
  s.placing.zipIdx.any (fun x => (decide (x.1.cls.toNat < p.cls.toNat) || (x.1.cls == p.cls && decide (x.2 < i)))
    && placeable s x.2 x.1)

/-- Retire a message that is not run: LATE or UNBOUND (R12, R41): its entry is freed and recorded (log 32). -/
def retireMessage (s : State) (q : Queue) (r : RingMsg) (code : BitVec 8) : State :=
  launchEvent (freeSlot s q.num r.slot) q.part q.num (msgType r.msg) code r.origin

/-- After a launch's next unit is placed: the rest of it still waits. -/
def placedNext (s : State) (i : Nat) (p : Placing) : State :=
  if p.perTeam && !p.gang && 1 < p.count then
    { s with placing := updAt s.placing i (fun x => { x with first := x.first + 1, count := x.count - 1 }) }
  else { s with placing := s.placing.eraseIdx i }

/-- TEAM_PLACE (R41, R57 to R60): an attempt to place the launch of index `i`. -/
def execTeamPlace (i : Nat) (s : State) : Out :=
  match s.placing[i]? with
  | none => .next s
  | some p =>
    let q := s.queue p.queue
    if !partOpen s p.desc.part || p.halted s || reserved s i p || placeOutranked s i p then .next s
    else if !p.perTeam && !serverWanted s q p.ring then .next { s with placing := s.placing.eraseIdx i }
    else if p.perTeam && p.first = 0 && p.ring.late s.clock.now then
      let s1 := { s with placing := s.placing.eraseIdx i, farms := s.farms.filter (fun f => f.uid != p.farm) }
      .next (retireMessage s1 q p.ring 7)
    else
      match tryPlace s p with
      | some s1 => .next (placedNext s1 i p)
      | none => .next { s with placing := updAt s.placing i (fun x => { x with waiting := x.waiting || p.gang }) }

/-! ## Resuming and moving -/

/-- The stopped teams that resume together with one (R60). -/
def resumeGroup (s : State) (t : Team) : List Team :=
  if ((s.farm? t.farm).map (fun f => f.gang)).getD false then
    s.teams.filter (fun x => x.farm == t.farm && x.status == .stopped .preempt)
  else [t]

/-- Apply a resumption to every team of a list, each folded no more than it takes for all of them to resume (R61, R391, log 50). -/
def resumeEach (f : Nat → State → Team → Option State) (ts : List Team) (s : State) : Option State :=
  (List.range 4).findSome? (fun low => ts.foldl (fun o t => o.bind (fun x => f low x t)) (some s))

/-- Resume a pre-empted team on the first cluster with room, its partition's facets in ascending order (DESIGN CHOICE, log 50: no rule says
where, and the pin and the hint of R57 are looked at for a launch alone). -/
def resumeOne (low : Nat) (s : State) (t : Team) : Option State :=
  (findCluster s (s.part t.part.toNat).list t.size t.segUnits).bind (fun (f, c, slots) =>
    resumeTeam low s t.uid f c slots .preempt)

/-- A launch of a higher class, or a reservation of at least the team's class, comes before a resumption (R58, R63, log 29). -/
def resumeBlocked (s : State) (t : Team) : Bool :=
  let rank := teamRank s t.uid
  s.placing.zipIdx.any (fun x => x.1.desc.part == t.part
    && ((x.1.reserves s t.part && decide (x.1.cls.toNat ≤ rank)) || (decide (x.1.cls.toNat < rank) && placeable s x.2 x.1)))

/-- Resume a team on the harts of the cluster it left (R54, R391). -/
def resumeThere (why : StopReason) (low : Nat) (s : State) (t : Team) : Option State :=
  let free := freeSlots s t.facet t.cluster
  if t.occupies || t.slots.all (fun i => free.contains i) then resumeTeam low s t.uid t.facet t.cluster t.slots why else none

/-- TEAM_RESUME (R60, R61, R372): a pre-empted team resumes, with its whole GANG farm, when room has returned. A team that an emergency
stopped, and that could not resume when the emergency ended, does so on its own cluster (R331, R391). -/
def execTeamResume (uid : Nat) (s : State) : Out :=
  match s.team? uid with
  | none => .next s
  | some t =>
    if t.status == .stopped .preempt && partOpen s t.part && !resumeBlocked s t then
      .next ((resumeEach resumeOne (resumeGroup s t) s).getD s)
    else if t.status == .stopped .thermal && s.boot.state == .ready && s.power.emergency.isNone then
      .next ((resumeEach (resumeThere .thermal) [t] s).getD s)
    else .next s

/-- A facet is being shed (R386). -/
def shedding (s : State) (f : Nat) : Bool := ((s.power.gov[f]?).map (fun g => g.shed)).getD false

/-- A facet is cool enough to take a team from one that is shed (R386). -/
def takesShed (s : State) (f : Nat) : Bool := ((s.power.gov[f]?).map (fun g => decide (g.hot.toNat + 3 < g.warn.toNat))).getD false

/-- A team on a shed facet goes before another: BULK first, RT last, so an RT team leaves only when no other is left to clear
(R386, log 29). -/
def shedFirst (s : State) (t : Team) : Bool :=
  s.teams.all (fun x => !(x.facet == t.facet && x.runs) || decide (teamRank s x.uid ≤ teamRank s t.uid))

/-- The scheduler may move a team to a facet: off a facet that is shed to a cool one in the order of R386, and an RT team only so
(R61). -/
def movable (s : State) (t : Team) (facet : Nat) : Bool :=
  t.runs && partOpen s t.part && stoppable s t.uid
    && (if shedding s t.facet && facet != t.facet then takesShed s facet && shedFirst s t else teamRank s t.uid != 0)

/-- TEAM_MOVE (R61): the team's harts stop, and their way to a cluster with room begins. -/
def execTeamMove (uid facet cluster : Nat) (s : State) : Out :=
  match s.team? uid with
  | none => .next s
  | some t =>
    let inside := (s.part t.part.toNat).list.contains facet && decide (cluster < 32) && !t.at facet cluster
    if movable s t facet && inside && (fits s facet cluster t.size t.segUnits).isSome then
      .next (respill (stopTeam s uid (.moving facet cluster .move) .move) (facet * 32 + cluster))
    else .next s

/-- TEAM_MOVE_COMPLETE (R61): the team resumes on the target cluster. -/
def execTeamMoveComplete (uid : Nat) (s : State) : Out :=
  match s.team? uid with
  | none => .next s
  | some t =>
    match t.status with
    | .moving f c why =>
      let slots := (freeSlots s f c).take t.size
      if slots.length = t.size then .next ((resumeTeam 0 s uid f c slots why).getD s) else .next s
    | _ => .next s

end Sys2Proof.Machine
end

