-- ==== Sys2Proof/Machine/Onyx.lean ====
section
/-! DEFINITION. Onyx dispatch, handler entry, stream contexts and idle teams (R10, R11, R35, R36, R41, R47 to R49, R53,
R398; logs 25, 32). -/

namespace Sys2Proof.Machine

/-! ## Dispatch (R41) -/

/-- A queue is pending: enabled, of an open partition, with a head message and a free hart or room for a new team
(R41, R53). A launch of the queue that placement has not finished comes first. -/
def pendingQueue (s : State) (q : Queue) : Bool :=
  q.en && partOpen s q.part && !q.pending.isEmpty
    && (if q.perTeam then !s.placing.any (fun p => p.queue == q.num)
        else q.maxTeams != 0 && (!(freeHarts s q).isEmpty
          || (decide ((serving s q).length < q.maxTeams.toNat) && !s.placing.any (fun p => p.queue == q.num))))

/-- The class of a queue: of its head message (R30, R41). -/
def queueClass (s : State) (q : Queue) : Nat :=
  match q.pending.head?, q.mod? s with
  | some r, some m => (effClass q m r.msg).toNat
  | _, _ => 3

/-- The distance of a queue from the one last served, round-robin (R41). -/
def rrDistance (last n : Nat) : Nat := (n + 131071 - last) % 65536

/-- The better of two pending queues (R41). -/
def betterQueue (s : State) (a b : Queue) : Queue :=
  let ca := queueClass s a
  let cb := queueClass s b
  if ca < cb then a else if cb < ca then b
  else if rrDistance (vget s.served ca 65535) a.num ≤ rrDistance (vget s.served ca 65535) b.num then a else b

/-- The queue that Onyx serves next. -/
def nextQueue (s : State) : Option Queue :=
  match s.queues.filter (fun q => pendingQueue s q) with
  | [] => none
  | q :: rest => some (rest.foldl (betterQueue s) q)

/-- The head message leaves the queue of messages not yet dispatched. -/
def popHead (s : State) (q : Queue) : State := s.setQueue { q with pending := q.pending.tail }

/-- Hand the head message to a free hart (R35). -/
def handTo (s : State) (q : Queue) (m : Module) (hd : Handler) (r : RingMsg) (h : Hart) : State :=
  let s1 := startStream (popHead s q) q r h.id.facet 1 true
  let ref := msgRefOf s q m hd r (streamOf q r)
  s1.updHarts (fun k => k.id.ref == h.id.ref) (fun k => { k with run := .assigned, msg := some ref })

/-- Hand a launch to placement (R36, R57). -/
def addPlacing (s : State) (q : Queue) (m : Module) (r : RingMsg) (farm count : Nat) : State :=
  let p : Placing :=
    { farm := farm, queue := q.num, desc := q, ring := r, perTeam := q.perTeam, gang := m.gang, cls := effClass q m r.msg, first := 0
      count := count, waiting := false }
  { s with placing := s.placing ++ [p] }

/-- Dispatch the head message of a queue; `choice` picks among free harts (R35, R36). NTEAMS is judged again here: a farm whose NTEAMS
has come to exceed the gang capacity since it was accepted is one team (DESIGN CHOICE, log 29: R29 and R58 name no case of it). DEADLINE is
looked at here each time the message comes to the front, also where a serving team placed for it has come since (DESIGN CHOICE, log 53). -/
def dispatchHead (s : State) (q : Queue) (r : RingMsg) (choice : Nat) : State :=
  if r.late s.clock.now then retireMessage (popHead s q) q r 7
  else
    match q.mod? s with
    | none => retireMessage (popHead s q) q r 8
    | some m =>
      match m.handler? (msgType r.msg) with
      | none => retireMessage (popHead s q) q r 8
      | some hd =>
        if q.perTeam then
          let n := (optValue s q r.msg 3).getD 1
          let s1 := { popHead s q with farms := s.farms ++ [newFarm s.nextUid q.num true m.gang r.slot n]
                                       nextUid := s.nextUid + 1 }
          addPlacing s1 q m r s.nextUid n
        else
          let free := freeHarts s q
          match free[choice % free.length]? with
          | some h => handTo s q m hd r h
          | none => addPlacing s q m r 0 1

/-- ONYX_DISPATCH (R35, R36, R41). The queue counts as the one last served in its class also where the dispatch only starts the launch of
a new serving team and its message stays at the front (DESIGN CHOICE, log 53). -/
def execOnyxDispatch (choice : Nat) (s : State) : Out :=
  match nextQueue s with
  | none => .next s
  | some q =>
    match q.pending with
    | [] => .next s
    | r :: _ => .next (dispatchHead { s with served := vset s.served (queueClass s q) q.num } q r choice)

/-! ## Handler entry (R10, R11) -/

/-- The scalar state at handler entry (Table 1.1). -/
def Hart.entryScalars (h : Hart) (m : MsgRef) (stackTop : Word) : Scalars :=
  let g : Vector Word 64 := Vector.replicate 64 0
  let g := vset (vset (vset (vset (vset g 1 m.argPtr) 2 m.msgVa) 3 (BitVec.ofNat 64 h.id.ref.idx)) 4 (zext64 h.id.teamSize))
    62 stackTop
  { h.sc with g := g, pc := m.entry, frm := 0, fflags := 0, dim0 := 0, dim1 := 0, dim2 := 0, cpBnd := 0, cpSel := 0
              prio := m.cls }

/-- The hart at the first instruction of its handler (R10, R350, R355). -/
def Hart.enter (h : Hart) (m : MsgRef) (stackTop targ : Word) : Hart :=
  { h with run := .running, sc := h.entryScalars m stackTop, wait := .none, ir := none, vq := [], recs := [], fatal := none
           vec := VecState.zero, ln := { h.ln with vstart := 0, folds := 0 }
           tr := { Hart.blank.tr with save := vset (Vector.replicate 4 0) 0 targ }
           streams := Vector.replicate 16 Stream.empty
           notice := { thermal := none, preempt := none, watchdog := none }, runNs := 0, dogAt := 0 }

/-- The top of the current hart's stack region (R10, R16). -/
def stackTop (s : State) : Word :=
  match s.team? s.hart.id.ref.team with
  | none => 0
  | some t =>
    match t.mod? s with
    | none => 0
    | some m => m.stackBase + BitVec.ofNat 64 ((t.stackAt + s.hart.id.ref.idx + 1) * m.stackSize)

/-- HANDLER_ENTRY (R10, R11): the initial grant is made as a waiting `setvl` with k = 0 makes it; then the handler
starts. -/
def execHandlerEntry (r : HartRef) (s : State) : Out :=
  match s.activate r with
  | none => .next s
  | some s1 =>
    match s1.hart.msg with
    | none => .next s
    | some m =>
      if s1.hart.run != .assigned || isOut s r then .next s
      else
        let (cap, low) := s1.hart.limits m.request
        match serve (askPreempt s1) cap low false m.cls with
        | (s2, some _) => .next (s2.withHart (s2.hart.enter m (stackTop s2) (s2.space s2.sp).targ))
        | (s2, none) => .next s2

/-! ## Stream contexts (R49) -/

/-- STREAM_TIMEOUT: an entry with no handler running has been silent for its timeout and begins to drain. -/
def execStreamTimeout (i : Nat) (s : State) : Out :=
  match s.streamEntries[i]? with
  | none => .next s
  | some e =>
    if e.running = 0 && !e.draining && e.last.toNat + e.timeoutUs * 1000 ≤ s.clock.now.toNat then
      .next { s with streamEntries := updAt s.streamEntries i (fun x => { x with draining := true }) }
    else .next s

/-- Write the dirty lines of a range of a cache space to their homes. -/
def cleanRange (s : State) (cspace vline n : Nat) : State :=
  (s.lines.filter (fun c => c.cspace == cspace && vline ≤ c.vline && c.vline < vline + n)).foldl
    (fun x c => cleanLine x c.pline) s

/-- STREAM_DRAIN_COMPLETE: the region's dirty lines are at their homes and the entry is freed; a message that came
meanwhile gets a new one, as its own queue gives it, on the first facet with room (R47). -/
def execStreamDrainComplete (i : Nat) (s : State) : Out :=
  match s.streamEntries[i]? with
  | none => .next s
  | some e =>
    if e.draining then
      let s1 := cleanRange s (cacheSpace e.space.toNat e.base.toNat) (e.base.toNat / 128) e.lines
      let rest := s.streamEntries.eraseIdx i
      let s2 := { s1 with streamEntries := rest }
      match e.again.bind (fun w => (w.place s2).map (fun f => w.entry f e.space e.stream e.last e.running)) with
      | none => .next s2
      | some n => .next { s2 with streamEntries := rest ++ [n] }
    else .next s

/-! ## Idle teams (R398) -/

/-- A per-hart team with no hart running a handler. -/
def idleTeam (s : State) (t : Team) : Bool := !(s.teamHarts t.uid).any runsHandler

/-- A team is the surplus one: the highest-numbered idle team of a queue that more teams serve than MAXTEAMS allows. -/
def surplus (s : State) (q : Queue) (t : Team) : Bool :=
  let ts := s.teams.filter (fun x => x.queue == q.num && !((s.farm? x.farm).map (fun f => f.perTeam)).getD true)
  decide (q.maxTeams.toNat < ts.length) && ts.all (fun x => !idleTeam s x || decide (x.teamId ≤ t.teamId))

/-- TEAM_IDLE_RETIRE (R398): a per-hart team retires. -/
def execTeamIdleRetire (uid : Nat) (s : State) : Out :=
  match s.team? uid with
  | none => .next s
  | some t =>
    let q := s.queue t.queue
    let perTeam := ((s.farm? t.farm).map (fun f => f.perTeam)).getD true
    let silent := decide (100000 ≤ t.idleNs)
    if !diesStill s && !perTeam && idleTeam s t && (t.runs || t.status == .stopped .preempt) && (silent || !q.en || surplus s q t) then
      .next (retireTeam s uid)
    else .next s

end Sys2Proof.Machine
end

