-- ==== Sys2Proof/Machine/Partition.lean ====
section
/-! DEFINITION. Partitions: enabling, OUT and IN (R53 to R55, Table 3.3); queues turned on and off (R31, R38, R398). -/

namespace Sys2Proof.Machine

/-- Change a partition descriptor. -/
def State.updPart (s : State) (p : Nat) (f : Partition → Partition) : State :=
  match s.parts[p]? with
  | none => s
  | some x => { s with parts := vset s.parts p (f x) }

/-- An enabled partition holds its facets: RUNNING or HALTING, or on its way back (R53, R54, log 29). -/
def Partition.holds (x : Partition) : Bool := x.en && (x.state == .running || x.state == .halting || x.restoring)

/-- Another partition holds one of a partition's facets. -/
def facetsHeld (s : State) (p : Nat) : Bool :=
  (List.range 8).any (fun q => q != p && (s.part q).holds && ((s.part q).facets &&& (s.part p).facets) != 0)

/-- A write that sets EN (R53). -/
def enablePartition (s : State) (p : Nat) : State :=
  let x := s.part p
  if x.en then s
  else if x.facets = 0 || x.logVlp.toNat < 9 || 16 < x.logVlp.toNat || facetsHeld s p then
    s.updPart p (fun y => { y with badcfg := true })
  else s.updPart p (fun y => { y with en := true })

/-- PARTITION_ENABLE (R53). -/
def execPartitionEnable (p : BitVec 3) (s : State) : Out := ifTaken s (enablePartition s p.toNat)

/-- A refused CMD. -/
def badCmd (s : State) (p : Nat) : State := s.updPart p (fun y => { y with badcfg := true })

/-- CMD = OUT (R54). -/
def partitionOut (s : State) (p : Nat) : State :=
  if (s.part p).state == .running then s.updPart p (fun y => { y with state := .halting }) else badCmd s p

/-- CMD = IN (R54). -/
def partitionIn (s : State) (p : Nat) : State :=
  match (s.part p).state with
  | .shadow | .hbm => if facetsHeld s p then badCmd s p else s.updPart p (fun y => { y with restoring := true })
  | .running | .halting => badCmd s p

/-- PARTITION_OUT (R54). -/
def execPartitionOut (p : BitVec 3) (s : State) : Out := ifTaken s (partitionOut s p.toNat)

/-- PARTITION_IN (R54). -/
def execPartitionIn (p : BitVec 3) (s : State) : Out := ifTaken s (partitionIn s p.toNat)

/-- The live teams of a partition. -/
def liveTeams (s : State) (p : Nat) : List Team := s.teams.filter (fun t => t.part.toNat == p && t.live)

/-- 128 bytes of a saved context, whose layout is the implementation's (log 22). -/
def savedLine (tick off : Nat) : Nat :=
  (List.range 128).foldr (fun i acc => (Config.savedByte tick (off + i)).toNat + 256 * acc) 0

/-- Write a saved context of so many lines to HBM. -/
def writeContext (s : State) (base lines : Nat) : State :=
  (List.range lines).foldl (fun x i =>
    if isHbm (base + 128 * i) then frameWrite x (base + 128 * i) 128 (savedLine s.tick (128 * i)) (2 ^ 1024 - 1) else x) s

/-- The snoops that the write of a context of so many lines waits for: the host's copies of lines of its area (R252, R408). -/
def contextSnoop (s : State) (base lines : Nat) : Option State :=
  let held := fun (h : HostLine) => h.conflicts h.pline true
    && decide (base < h.pline * 128 + 128 ∧ h.pline * 128 < base + 128 * lines)
  if s.hostLines.any held then some (issueSnoops s held true) else none

/-- Where a partition's save area stands, and its lines: at SAVEPA, of the size that the capability list gives (R53, R54). -/
def saveArea (s : State) (p : Nat) : Nat × Nat := ((s.part p).savePa.toNat * 4096, ceilDiv (Config.capWord 3 0).toNat 128)

/-- Write a partition's context to its save area in HBM (R53, R54). -/
def writeSave (s : State) (p : Nat) : State := writeContext s (saveArea s p).1 (saveArea s p).2

/-- Another partition stands in the shadow of facets that partition `p` takes. -/
def displaced (s : State) (p q : Nat) : Bool :=
  q != p && (s.part q).state == .shadow && ((s.part q).facets &&& (s.part p).facets) != 0

/-- A partition in the shadow of facets that another one takes is written to its save area and moves to HBM (R54). -/
def displaceShadow (s : State) (p : Nat) : State :=
  (List.range 8).foldl (fun s q =>
    if displaced s p q then (writeSave s q).updPart q (fun y => { y with state := .hbm }) else s) s

/-- The snoops that such writes wait for (R408). -/
def displaceSnoop (s : State) (p : Nat) : Option State :=
  ((List.range 8).filter (displaced s p)).findSome? (fun q => contextSnoop s (saveArea s q).1 (saveArea s q).2)

/-- A partition's teams that an emergency stopped, and that have not resumed since, are parked as they stand. -/
def parkStopped (s : State) (p : BitVec 3) : State :=
  { s with teams := upd s.teams (fun t => t.part == p && t.status == .stopped .thermal) (fun t => { t with status := .stopped .parked }) }

/-- PARTITION_HALT_COMPLETE (R54): every hart of the partition has stopped, its context is in shadow SRAM. An emergency comes first
(R388, R391). -/
def execPartitionHaltComplete (p : BitVec 3) (s : State) : Out :=
  let ts := liveTeams s p.toNat
  if (s.part p.toNat).state == .halting && s.power.emergency.isNone && s.boot.state == .ready && ts.all (fun t => stoppable s t.uid) then
    match displaceSnoop s p.toNat with
    | some s1 => .next s1
    | none =>
      let s1 := ts.foldl (fun s t => stopTeam s t.uid (.stopped .parked) .parked) (parkStopped s p)
      .next ((displaceShadow s1 p.toNat).updPart p.toNat (fun y => { y with state := .shadow }))
  else .next s

/-- Resume a parked team on the harts it left; a pre-empted one resumes as R60 has it (R54). -/
def restoreTeam (low : Nat) (s : State) (t : Team) : Option State :=
  if t.status == .stopped .parked then resumeThere .parked low s t else some s

/-- PARTITION_RESTORE_COMPLETE (R54, R394): STATE becomes RUNNING and every hart resumes where it stopped. -/
def execPartitionRestoreComplete (p : BitVec 3) (s : State) : Out :=
  let x := s.part p.toNat
  let ts := s.teams.filter (fun t => t.part == p)
  if x.restoring && s.boot.state == .ready && s.power.emergency.isNone then
    match resumeEach restoreTeam ts s with
    | none => .next s
    | some s1 => .next (s1.updPart p.toNat (fun y => { y with state := .running, restoring := false }))
  else .next s

/-! ## Queues -/

/-- A write that sets EN of a queue passes the checks of R31. -/
def queueConfigOk (s : State) (q : Queue) : Bool :=
  natBits q.ringVa.toNat 0 12 == 0 && decide (q.logDepth.toNat ≤ 14)
    && (!q.strm || (decide (1 ≤ q.slines.toNat ∧ q.slines.toNat ≤ 8192) && q.timeout != 0)) && (q.mod? s).isSome

/-- A write that sets EN (R31): DROPS is cleared when EN goes from 0 to 1. -/
def enableQueue (s : State) (n : Nat) : State :=
  let q := s.queue n
  if q.en then s
  else if queueConfigOk s q then s.setQueue { q with en := true, drops := 0 }
  else s.setQueue { q with badcfg := true }

/-- QUEUE_ENABLE (R31). -/
def execQueueEnable (q : Nat) (s : State) : Out := if knownQueue q then ifTaken s (enableQueue s q) else .next s

/-- Retire the idle per-hart teams of a queue while a test on them holds, highest TEAMID first (R398). -/
def retireWhile (test : State → Team → Bool) (n : Nat) : List Team → State → State
  | [], s => s
  | t :: rest, s =>
    let s1 := if t.queue == n && idleTeam s t && (t.runs || t.status == .stopped .preempt) && test s t then retireTeam s t.uid else s
    retireWhile test n rest s1

/-- The per-hart teams of a queue, highest TEAMID first. -/
def serversDown (s : State) (n : Nat) : List Team :=
  (s.teams.filter (fun t => t.queue == n && !((s.farm? t.farm).map (fun f => f.perTeam)).getD true)).mergeSort
    (fun a b => decide (b.teamId ≤ a.teamId))

/-- Clear EN (R38): enqueueing and dispatch stop; idle serving teams retire (R398). -/
def disableQueue (s : State) (n : Nat) : State :=
  let s1 := s.setQueue { s.queue n with en := false }
  retireWhile (fun _ _ => true) n (serversDown s1 n) s1

/-- QUEUE_DISABLE (R38). -/
def execQueueDisable (q : Nat) (s : State) : Out := if knownQueue q then ifTaken s (disableQueue s q) else .next s

/-- A new MAXTEAMS takes effect at once (R31): surplus idle teams retire, each the highest-numbered idle one (R398). -/
def writeMaxTeams (s : State) (n : Nat) (v : BitVec 12) : State :=
  let s1 := s.setQueue { s.queue n with maxTeams := v }
  retireWhile (fun x t => surplus x (x.queue n) t) n (serversDown s1 n) s1

/-- QUEUE_MAXTEAMS_WRITE (R31). -/
def execQueueMaxteamsWrite (q : Nat) (n : BitVec 12) (s : State) : Out :=
  if knownQueue q then ifTaken s (writeMaxTeams s q n) else .next s

end Sys2Proof.Machine
end

