-- ==== Sys2Proof/Machine/Power.lean ====
section
/-! DEFINITION. The facet governor, gating, energy and heat (R224, R377 to R386), accounting and time (R400, R403). -/

namespace Sys2Proof.Machine

/-- Change a facet's governor. -/
def State.updGov (s : State) (f : Nat) (g : Governor → Governor) : State :=
  match s.power.gov[f]? with
  | none => s
  | some x => { s with power := { s.power with gov := vset s.power.gov f (g x) } }

/-- A facet's governor; the reset values for a number that no facet has. -/
def State.gov (s : State) (f : Nat) : Governor := (s.power.gov[f]?).getD Governor.initial

/-! ## Registers (R377) -/

/-- A write to GV0: budgets at most their ceilings, LBUD at most FBUD, DIDT at least 128. -/
def Governor.write0 (g : Governor) (v : Word) : Governor :=
  let l := min (natBits v.toNat 0 12) 1550
  let f := min (natBits v.toNat 16 12) 2400
  let d := natBits v.toNat 32 12
  { g with lbud := BitVec.ofNat 12 (min l f), fbud := BitVec.ofNat 12 f
           didt := if d < 128 then g.didt else BitVec.ofNat 12 d }

/-- A write to GV1: CRIT at most its ceiling; ignored whole where it breaks RESUME + 5 ≤ WARN < CRIT ≤ 110. -/
def Governor.write1 (g : Governor) (v : Word) : Governor :=
  let w := natBits v.toNat 0 8
  let c := min (natBits v.toNat 8 8) 105
  let r := natBits v.toNat 16 8
  if r + 5 ≤ w && w < c && c ≤ 110 then
    { g with warn := BitVec.ofNat 8 w, crit := BitVec.ofNat 8 c, resume := BitVec.ofNat 8 r }
  else g

/-- HOT is at or above WARN. -/
def Governor.isHot (g : Governor) : Bool := decide (g.warn.toNat ≤ g.hot.toNat)

/-- A facet's HOT or WARN has changed at time `now`: the scheduler sheds the facet while HOT is at or above WARN, and the next step of the
throttle state for heat comes 1 ms after it has crossed WARN (R386). -/
def Governor.reheat (g : Governor) (now : Nat) : Governor :=
  { g with shed := g.isHot, thrSince := if g.shed == g.isHot then g.thrSince else now }

/-- A write of one doubleword of the governor registers at time `now` (Table 16.2). A clear of GV3.IDLE while idle cycles are inserted finds
the next ones at once (R379; DEDUCED, log 17). -/
def Governor.write (g : Governor) (now dw : Nat) (v : Word) : Governor :=
  match dw with
  | 0 => g.write0 v
  | 1 => (g.write1 v).reheat now
  | 3 => { g with gcut := g.gcut && !v.getLsbD 0, idle := g.idle && (!v.getLsbD 1 || decide (2 ≤ g.step)), gfold := g.gfold && !v.getLsbD 2
                  thrdn := g.thrdn && !v.getLsbD 3 }
  | _ => g

/-- During an emergency: since when every sensor has been at or below RESUME (R391). -/
def coolSince (s : State) : State :=
  let cool := s.power.gov.toList.all (fun g => decide (g.hot.toNat ≤ g.resume.toNat))
  match s.power.emergency with
  | none => s
  | some e =>
    let c := if !cool then none else if e.cool.isNone then some s.clock.ran else e.cool
    { s with power := { s.power with emergency := some { e with cool := c } } }

/-- A facet's governor registers written (R377), with what WARN and RESUME then mean for HOT (R386, R391). -/
def writeGov (s : State) (facet dw : Nat) (v : Word) : State :=
  coolSince (s.updGov facet (fun g => g.write s.clock.ran dw v))

/-- GOVERNOR_WRITE (R377). -/
def execGovernorWrite (facet dw : Nat) (value : Word) (s : State) : Out := ifTaken s (writeGov s facet dw value)

/-! ## Prices and allowances (R378) -/

/-- The guaranteed share of each cluster in mW: LBUD / 32. -/
def Governor.share (g : Governor) : Nat := g.lbud.toNat * 250 / 32

/-- What a hart's groups cost in mW, before scaling. -/
def Hart.cost (h : Hart) : Nat := h.ln.groups.length * groupPrice h.ln.square h.ln.clockGated

/-- What the groups of a cluster cost in mW, at the scaled prices. -/
def clusterCost (s : State) (f c ratio : Nat) : Nat :=
  ceilDiv (((s.harts.filter (fun h => h.id.clusterKey == f * 32 + c)).map Hart.cost).sum * ratio) 1000

/-- What the grant that a hart waits for costs more than the groups it has. -/
def grantNeed (h : Hart) (r : GrantReq) (ratio : Nat) : Nat :=
  ceilDiv ((r.most / 512 * groupPrice r.square false - h.cost) * ratio) 1000

/-- A facet's waiting grant requests in the order of R63: the cluster of each, and what its grant needs. -/
def waitingNeeds (s : State) (f ratio : Nat) : List (Nat × Nat) :=
  let hs := s.harts.filter (fun h => h.id.facet == f)
  let rs := hs.filterMap (fun h => h.ln.req.map (fun r => (h, r)))
  (rs.mergeSort (fun a b => !servedBefore b.2.effective b.2.arrived b.1.id.phys.toNat a.2.effective a.2.arrived a.1.id.phys.toNat)).map
    (fun x => (x.1.id.cluster, grantNeed x.1 x.2 ratio))

/-- Take up to `want` from the headroom of the clusters in ascending order: what was taken, and what is left. -/
def takeHeadroom : Nat → List Nat → Nat × List Nat
  | _, [] => (0, [])
  | want, h :: rest =>
    let x := min want h
    let (got, left) := takeHeadroom (want - x) rest
    (x + got, (h - x) :: left)

/-- One waiting request in the division, its cluster and its need: its cluster's own share first, then what others lend. `st` holds
the allowances, the costs so far and what each cluster can lend: what its own waiting requests leave of its share. -/
def serveShare (st : List Nat × List Nat × List Nat) (r : Nat × Nat) : List Nat × List Nat × List Nat :=
  let (allow, cost, lend) := st
  let total := cost.getD r.1 0 + r.2
  let (got, left) := takeHeadroom (total - allow.getD r.1 0) (lend.set r.1 0)
  let left := left.set r.1 (lend.getD r.1 0)
  let lent := (lend.zip left).map (fun x => x.1 - x.2)
  let allow1 := ((allow.zip lent).map (fun x => x.1 - x.2)).set r.1 (allow.getD r.1 0 + got)
  (allow1, cost.set r.1 (min total (allow.getD r.1 0 + got)), left)

/-- The division of LBUD among a facet's clusters (R378, log 17). -/
def divideBudget (s : State) (f : Nat) (g : Governor) (ratio : Nat) : Vector Nat 32 :=
  let cost := (List.range 32).map (fun c => clusterCost s f c ratio)
  let needs := waitingNeeds s f ratio
  let own := fun (c : Nat) => ((needs.filter (fun r => r.1 == c)).map (fun r => r.2)).sum
  let lend := cost.zipIdx.map (fun x => g.share - x.1 - own x.2)
  let (allow, _, _) := needs.foldl serveShare (List.replicate 32 g.share, cost, lend)
  Vector.ofFn (fun (i : Fin 32) => allow.getD i.val 0)

/-! ## Current steps (R382, R383) -/

/-- The powered groups of a cluster: those that back a grant, and those that hold a buffered store line (R160). -/
def poweredGroups (s : State) (key : Nat) : List Nat :=
  (s.harts.flatMap (fun h => (if h.id.clusterKey == key then h.ln.groups else []) ++ groupsOf key h.buffered)).dedup

/-- The step of one cluster's groups in 1/1600 A: 200 where the matrix datapath is awake, 128 elsewhere (R382). -/
def clusterStep (s : State) (key : Nat) : Nat :=
  let awake := (s.harts.filter (fun h => h.id.clusterKey == key)).flatMap (fun h => h.ln.awake)
  ((poweredGroups s key).map (fun g => if awake.contains g then 200 else 128)).sum

/-- MINSP of a facet: the largest phase step over DIDT, at least 8 (R383). -/
def minSpacing (s : State) (f : Nat) (g : Governor) (p : PhasePlan) : Nat :=
  let phase := fun (k : Nat) =>
    (((List.range 32).filter (fun c => phaseOf p c == k)).map (fun c => clusterStep s (f * 32 + c))).sum
  max 8 (ceilDiv (((List.range 16).map phase).foldl max 0) (25 * g.didt.toNat))

/-- GOVERNOR_TICK (R378, R382, R383): prices rescaled by the measured ratio, LBUD divided, MINSP estimated. -/
def execGovernorTick (facet ratio : Nat) (s : State) : Out :=
  match s.power.plan[facet]? with
  | none => .next s
  | some p =>
    let r := max 500 (min ratio 2000)
    .next (s.updGov facet (fun g =>
      { g with ratio := r, allow := divideBudget s facet g r, minsp := BitVec.ofNat 9 (minSpacing s facet g p) }))

/-! ## Steps of the governor (R379) -/

/-- A cluster of the facet is priced above its allowance. -/
def overAllowance (s : State) (f : Nat) (g : Governor) : Bool :=
  (List.range 32).any (fun c => decide (vget g.allow c 0 < clusterCost s f c g.ratio))

/-- The next step of the governor at time `now`, when the steps before it have not been enough; `draw`: the facet's draw is over FBUD,
`surge`: a rail's current is over 110 % of what FBUD allows, for which it folds at once, with steps 1 and 2 in force. -/
def escalate (s : State) (f : Nat) (g : Governor) (now : Nat) (draw surge : Bool) : Governor :=
  let waited := decide (g.since + 100000 ≤ now)
  let g := { g with under := none, excess := draw || surge }
  match g.step with
  | 0 => if surge then { g with step := 3, since := now, idle := true } else { g with step := 1, since := now }
  | 1 => { g with step := if surge then 3 else 2, since := now, idle := true }
  | 2 => if waited || surge then { g with step := 3, since := now } else g
  | n =>
    if draw && n < 6 && waited && g.thr != 3 && !s.harts.any (fun h => h.id.facet == f && foldable h) then
      { g with step := n + 1, since := now, thrdn := true, thr := g.thr + 1 }
    else g

/-- A facet under its budget at time `now`: each 100 µs of that undoes the last step (log 17). The throttle state rises only while
heat allows it (R386). -/
def relax (g0 : Governor) (now : Nat) : Governor :=
  let g := { g0 with excess := false }
  match g.under, g.step with
  | none, _ => { g with under := some now }
  | some _, 0 => g
  | some t, n + 1 =>
    if t + 100000 ≤ now then
      let cool := decide (g.hot.toNat + 3 < g.warn.toNat)
      { g with step := n, since := now, under := some now
               thr := if 3 ≤ n && cool then BitVec.ofNat 2 (max (g.thr.toNat - 1) (n - 3)) else g.thr }
    else g

/-- GOVERNOR_STEP (R379): `draw` is what the facet measures. -/
def execGovernorStep (facet : Nat) (draw : Draw) (s : State) : Out :=
  .next (s.updGov facet (fun g =>
    let excess := decide (g.fbud.toNat * 250 < draw.mw)
    let surge := decide (110 < draw.rail)
    if excess || surge || overAllowance s facet g then escalate s facet g s.clock.ran excess surge
    else relax g s.clock.ran))

/-! ## Gates (R224, R381) -/

/-- LANE_CLOCK_GATE (R381): the groups of a hart idle for 4,096 lane cycles. -/
def execLaneClockGate (r : HartRef) (s : State) : Out :=
  .next (s.updHarts (fun h => h.id.ref == r && !h.ln.groups.isEmpty && decide (4096000 ≤ h.ln.laneIdle))
    (fun h => { h with ln := { h.ln with clockGated := true } }))

/-- MATRIX_GATE (R224): the matrix datapath of a hart's groups, 8,192 lane cycles without an MX entry. -/
def execMatrixGate (r : HartRef) (s : State) : Out :=
  .next (s.updHarts (fun h => h.id.ref == r && decide (8192000 ≤ h.ln.mxIdle))
    (fun h => { h with ln := { h.ln with awake := [] } }))

/-! ## Energy (R384, R385) -/

/-- Add to an accumulator, modulo 2^64. -/
def addEnergy (s : State) (off n : Nat) : State :=
  let x := energyAt s off + BitVec.ofNat 64 n
  let rest := s.power.energy.filter (fun e => e.1 != off)
  { s with power := { s.power with energy := if x = 0 then rest else (off, x) :: rest } }

/-- ENERGY_UPDATE (R384): energy in µJ measured by accumulator; the package's takes the sum. -/
def execEnergyUpdate (added : List (Nat × Nat)) (s : State) : Out :=
  let mine := added.filter (fun a => energyOffset a.1)
  .next (addEnergy (mine.foldl (fun s a => addEnergy s a.1 a.2) s) 0x4008 ((mine.map (fun a => a.2)).sum))

/-- ENERGY_LOW_READ (R385): the high half is latched for the requester. -/
def execEnergyLowRead (requester offset : Nat) (s : State) : Out := .next (readEnergyLow s requester offset).2

/-- ENERGY_HIGH_READ (R385): a read of the high half changes nothing. -/
def execEnergyHighRead (_ _ : Nat) (s : State) : Out := .next s

/-! ## Heat (R386) -/

/-- THERMAL_WARN (R386): a facet's hottest sensor reads `temp`; the facet is shed while that is at or above WARN. -/
def execThermalWarn (facet : Nat) (temp : BitVec 8) (s : State) : Out :=
  .next (coolSince (s.updGov facet (fun g => { g with hot := temp }.reheat s.clock.ran)))

/-- THROTTLE_STEP (R386): 1 ms after the last, the throttle state moves one step for heat. -/
def execThrottleStep (facet : Nat) (s : State) : Out :=
  .next (s.updGov facet (fun g =>
    if s.clock.ran < g.thrSince + 1000000 then g
    else if g.isHot then
      { g with thr := BitVec.ofNat 2 (min 3 (g.thr.toNat + 1)), thrdn := g.thrdn || g.thr != 3, thrSince := s.clock.ran }
    else if g.hot.toNat + 3 < g.warn.toNat then
      { g with thr := BitVec.ofNat 2 (max (g.thr.toNat - 1) (min g.thr.toNat (g.step - 3))), thrSince := s.clock.ran }
    else g))

/-! ## Accounting and time (R400, R403) -/

/-- Bill every hart's running time to its space (R400). -/
def billAll (s : State) : State :=
  let s1 := s.harts.foldl (fun s h =>
    let x := s.space h.id.space.toNat
    s.setSpace { x with acHart := x.acHart + BitVec.ofNat 64 h.unbilled, acLane := x.acLane + BitVec.ofNat 64 h.unbilledLane }) s
  s1.updHarts (fun _ => true) (fun h => { h with unbilled := 0, unbilledLane := 0 })

/-- ACCOUNTING_UPDATE (R400). -/
def execAccountingUpdate (s : State) : Out := .next (billAll s)

/-- AC3.CLR (R400). -/
def clearAccounting (s : State) (space : Nat) : State :=
  let s1 := billAll s
  s1.setSpace { s1.space space with acHart := 0, acLane := 0, acDone := 0, acEnded := 0, acRecs := 0 }

/-- ACCOUNTING_CLEAR (R400). -/
def execAccountingClear (space : Nat) (s : State) : Out := ifTaken s (clearAccounting s space)

/-- TS0: a signed step of TIME (R403). -/
def stepTime (s : State) (delta : Word) : State :=
  { s with clock := { s.clock with now := s.clock.now + delta, steps := s.clock.steps + 1 } }

/-- TIME_STEP (R403). -/
def execTimeStep (delta : Word) (s : State) : Out := ifTaken s (stepTime s delta)

/-- PPS_EDGE (R403). -/
def execPpsEdge (s : State) : Out :=
  .next { s with clock := { s.clock with pps := s.clock.now, ppsv := true, ppsAt := s.clock.ran } }

/-- PPS_TIMEOUT (R403): no edge within the last 1.1 s. -/
def execPpsTimeout (s : State) : Out :=
  if s.clock.ppsv && decide (s.clock.ppsAt + 1100000000 ≤ s.clock.ran) then
    .next { s with clock := { s.clock with ppsv := false } }
  else .next s

end Sys2Proof.Machine
end

