-- ==== Sys2Proof/Machine/Emergency.lean ====
section
/-! DEFINITION. Thermal emergency, hard trip, post-mortem record, resumption (R387 to R394; logs 22, 28). -/

namespace Sys2Proof.Machine

/-! ## The order and the record (R389, R393) -/

/-- A team is taken before another: by class, start, partition, SpaceID, TEAMID (R389). -/
def savedBefore (s : State) (a b : Team) : Bool :=
  let key := fun (t : Team) => [teamRank s t.uid, t.order, t.part.toNat, t.space.toNat, t.teamId]
  decide (key a ≤ key b)

/-- The teams in the order of R389. -/
def saveOrder (s : State) : List Team := s.teams.mergeSort (savedBefore s)

/-- Held store lines of a team. -/
def heldLines (s : State) (uid : Nat) : Nat :=
  ((s.teamHarts uid).map (fun h => (h.stores.filter (fun l => l.stage == .held)).length)).sum

/-- A cached line belongs to a team's space, or to its partition's global slice. -/
def CacheLine.ofTeam (c : CacheLine) (t : Team) : Bool :=
  if c.cspace == 0 then natBit (c.vline * 128) 55 && natBits (c.vline * 128) 52 3 == t.part.toNat
  else c.cspace == t.space.toNat

/-- A line of a team's space or of its partition's global slice is dirty. -/
def dirtyOf (s : State) (t : Team) : Bool :=
  s.lines.any (fun c => c.ofTeam t && s.backing.any (fun b => b.1 / 128 == c.pline))

/-- A team is saved (R389): the emergency has saved it, or it stands in a partition whose context is in HBM (R54), with no segment in the
scratchpad (R55) and no dirty line. -/
def teamSaved (s : State) (t : Team) : Bool :=
  t.spaceSaved || ((s.part t.part.toNat).state == .hbm && !t.live && (t.segUnits == 0 || !t.holdsSegment) && !dirtyOf s t)

/-- The entry of a team (Table 16.6). -/
def pmEntry (s : State) (t : Team) : PmEntry :=
  { space := t.space, part := t.part, cls := BitVec.ofNat 2 (min 3 (teamRank s t.uid)), saved := teamSaved s t
    noSeg := t.segUnits == 0, teamId := BitVec.ofNat 12 t.teamId, queue := BitVec.ofNat 16 t.queue
    harts := BitVec.ofNat 16 t.size, held := BitVec.ofNat 16 (min 0xFFFF (heldLines s t.uid)), team := t.uid }

/-- Set HST.STATE; vector 1 is raised at each change (R409). -/
def setHostState (s : State) (x : HostState) : State :=
  if s.boot.state == x then s else raiseMsix { s with boot := { s.boot with state := x } } 1

/-- Enter RECOVERY with a reason (R405, R415). -/
def enterRecovery (s : State) (fail : BitVec 8) : State :=
  setHostState { s with boot := { s.boot with fail := fail, memok := false } } .recovery

/-- The link lacks a required feature (R405). -/
def linkLacks (s : State) : Bool := s.boot.linkUp && !s.boot.features

/-- Change the post-mortem record. -/
def State.updPm (s : State) (f : PostMortem → PostMortem) : State :=
  { s with power := { s.power with pm := s.power.pm.map f } }

/-- THERMAL_EMERGENCY (R387, R388, R393): a sensor of a facet has stayed at or above its CRIT for 10 µs. -/
def execThermalEmergency (facet : Nat) (temp : BitVec 8) (s : State) : Out :=
  if s.boot.state != .ready || temp.toNat < (s.gov facet).crit.toNat || 8 ≤ facet then .next s
  else
    let e : Emergency := { facet := facet, temp := temp, start := s.clock.now, stage := 0, cool := none }
    let pm : PostMortem :=
      { magic := true, cause := 1, stage := 0, facet := BitVec.ofNat 8 facet, temp := temp, tcrit := s.clock.now, ttrip := 0
        linesLost := 0, entries := (saveOrder s).map (pmEntry s) }
    let s1 := s.updGov facet (fun g => { g with hot := temp }.reheat s.clock.ran)
    .next (setHostState { s1 with power := { s1.power with emergency := some e, pm := some pm } } .emergency)

/-! ## Stages (Table 16.4) -/

/-- Every store line of the harts has drained or is held (R388, stage 1). -/
def drained (s : State) : Bool :=
  s.harts.all (fun h => h.stores.all (fun l => l.stage == .held || l.stage == .window || l.stage == .migrating))

/-- Stage 1 may end: every running team can stop, and the store buffers have drained. -/
def stage1Over (s : State) : Bool := s.teams.all (fun t => !t.live || stoppable s t.uid) && drained s

/-- Stop every running team under the pre-emption rules (R372, R388). -/
def stopAll (s : State) : State :=
  (s.teams.filter Team.live).foldl (fun s t => stopTeam s t.uid (.stopped .thermal) .thermal) s

/-- A stopped team's harts will receive the thermal notice for the stop they are in (R372). -/
def Hart.thermalNotice (h : Hart) : Hart :=
  { h with notice := { h.notice with
      thermal := if h.notice.thermal.isSome then h.notice.thermal else h.notice.preempt, preempt := none } }

/-- Where a team's context goes, with its segment: in the emergency save area of its facet, whose address Table 18.3 gives, after those
of the facet's teams that are saved already (DESIGN CHOICE, log 22). -/
def areaOf (s : State) (t : Team) : Nat :=
  let before := (s.teams.filter (fun x => x.facet == t.facet && x.spaceSaved)).length
  (Config.capWord 3 (1 + t.facet)).toNat + before * Config.contextLines * 128

/-- Save one team: its space's and its partition's dirty lines reach HBM, then its context and segment (R388, R389). -/
def saveTeam (s : State) (t : Team) : State :=
  let s1 := writeContext ((s.lines.filter (fun c => c.ofTeam t)).foldl (fun s c => cleanLine s c.pline) s) (areaOf s t) Config.contextLines
  let s2 := s1.updTeam t.uid (fun x => { x with spaceSaved := true })
  let s3 := s2.updHarts (fun h => h.id.ref.team == t.uid) Hart.thermalNotice
  s3.updPm (fun p => { p with entries := upd p.entries (fun e => e.team == t.uid) (fun e => { e with saved := true }) })

/-- HELD of every entry counts the lines that the contexts hold now: at the end of stage 1, with the buffers drained (R360, R388,
R393). -/
def countHeld (s : State) : State :=
  s.updPm (fun p => { p with entries := p.entries.map (fun e => { e with held := BitVec.ofNat 16 (min 0xFFFF (heldLines s e.team)) }) })

/-- A stage is complete. -/
def endStage (s : State) (n : Nat) : State :=
  let s1 := s.updPm (fun p => { p with stage := BitVec.ofNat 8 n })
  { s1 with power := { s1.power with emergency := s1.power.emergency.map (fun e => { e with stage := n }) } }

/-- The compute rails are off: nothing is left in the caches and controllers (R391), and CYCLE starts from 0 (R401). -/
def railsOff (s : State) : State :=
  { s with lines := [], walks := [], clock := { s.clock with cycle := Vector.replicate 8 0 } }

/-- EMERGENCY_STAGE_COMPLETE (R388): the next part of the emergency. Stage 2 goes team by team. -/
def execEmergencyStageComplete (s : State) : Out :=
  match s.power.emergency with
  | none => .next s
  | some e =>
    match e.stage with
    | 0 => if stage1Over s then .next (endStage (countHeld (stopAll s)) 1) else .next s
    | 1 =>
      match (saveOrder s).find? (fun t => !t.spaceSaved) with
      | some t => .next ((contextSnoop s (areaOf s t) Config.contextLines).getD (saveTeam s t))
      | none => .next (endStage s 2)
    | 2 => .next (endStage { s with backing := [], streamEntries := [], boot := { s.boot with memok := false } } 3)
    | 3 => .next (endStage s 4)
    | 4 => .next (endStage (railsOff s) 5)
    | _ => .next s

/-! ## Resumption (R391) -/

/-- A parked partition stands in HBM. -/
def parkInHbm (s : State) : State :=
  { s with parts := s.parts.map (fun p => if p.state == .shadow then { p with state := .hbm } else p) }

/-- Every team saved from a cluster resumes there, in the order of R389. One with a store that is neither performed nor held (R331), and
one for which the clusters' allowances leave no groups, resumes later (TEAM_RESUME). -/
def resumeAll (s : State) : State :=
  let ts := (saveOrder s).filter (fun t => t.status == .stopped .thermal && (s.teamHarts t.uid).all Hart.settled)
  (resumeEach (resumeThere .thermal) ts s).getD (ts.foldl (fun x t => (resumeThere .thermal 3 x t).getD x) s)

/-- THERMAL_RESUME (R391): every sensor has stayed at or below RESUME for 100 ms. A link that has trained without a required feature
meanwhile leaves the device in RECOVERY (R405). -/
def execThermalResume (s : State) : Out :=
  match s.power.emergency with
  | none => .next s
  | some e =>
    let long := (e.cool.map (fun t => decide (t + 100000000 ≤ s.clock.ran))).getD false
    if e.stage = 5 && long then
      let s1 := parkInHbm { s with power := { s.power with emergency := none }
                                   teams := s.teams.map (fun t => { t with spaceSaved := false }) }
      let s2 := resumeAll s1
      if linkLacks s2 then .next (enterRecovery s2 5)
      else .next (setHostState { s2 with boot := { s2.boot with memok := true } } .ready)
    else .next s

/-! ## Hard trip (R392) -/

/-- HBM as it stands without the caches: the bytes that newer cached data had not replaced. -/
def loseCaches (s : State) : State :=
  { s with mem := s.backing.foldl (fun m c => memWrite m c.1 c.2) s.mem, backing := [], lines := [], walks := []
           hostLines := [] }

/-- Dirty lines not written back. -/
def dirtyLines (s : State) : Nat := ((s.backing.map (fun c => c.1 / 128)).dedup).length

/-- An entry's SAVED as it stands now (R389). -/
def PmEntry.now (s : State) (e : PmEntry) : PmEntry :=
  { e with saved := ((s.team? e.team).map (teamSaved s)).getD e.saved }

/-- The record of a trip: in an emergency CAUSE 2 and its start, also where the host has cleared the record since; outside one, the
teams that exist; SAVED is what R389 says of each at the trip (R393). -/
def tripRecord (s : State) (facet : Nat) (temp : BitVec 8) : PostMortem :=
  let lost := BitVec.ofNat 32 (min (2 ^ 32 - 1) (dirtyLines s))
  let new := fun (cause stage : BitVec 8) (tcrit : Word) =>
    ({ magic := true, cause := cause, stage := stage, facet := BitVec.ofNat 8 facet, temp := temp, tcrit := tcrit, ttrip := s.clock.now
       linesLost := lost, entries := (saveOrder s).map (pmEntry s) } : PostMortem)
  match s.power.emergency, s.power.pm with
  | some _, some p =>
    { p with magic := true, cause := 2, facet := BitVec.ofNat 8 facet, temp := temp, ttrip := s.clock.now, linesLost := lost
             entries := p.entries.map (PmEntry.now s) }
  | some e, none => new 2 (BitVec.ofNat 8 e.stage) e.start
  | none, _ => new 3 0 0

/-- The store lines of a hart that the dies hold are lost; those of a context saved to HBM are not (R389, R392). -/
def loseStores (s : State) : State :=
  s.updHarts (fun h => !contextSaved s h.id.ref) (fun h => { h with stores := [] })

/-- HARD_TRIP (R392, R393, R416): a sensor reaches TRIP; the compute rails go, and with them all that the dies hold. What a saved
context has in flight over the host link stays with the hub, which keeps its rails, and is answered. -/
def execHardTrip (facet : Nat) (temp : BitVec 8) (s : State) : Out :=
  if temp.toNat < 115 || 8 ≤ facet || s.boot.state == .tripped then .next s
  else
    let pm := tripRecord s facet temp
    let s1 := railsOff (loseCaches (loseStores (stopAll s)))
    let s2 := { s1 with power := { s1.power with emergency := none, pm := some pm }, streamEntries := []
                        windowOps := s1.windowOps.filter (fun o => contextSaved s1 o.hart), boot := { s1.boot with memok := false } }
    .next (setHostState (s2.updGov facet (fun g => { g with hot := temp }.reheat s.clock.ran)) .tripped)

/-- POSTMORTEM_CLEAR (R393): a write to MAGIC. What the entries said still decides R394. -/
def clearPm (s : State) : State := s.updPm (fun p => { p with magic := false })

/-- POSTMORTEM_CLEAR (R393, R416). -/
def execPostmortemClear (s : State) : Out := .next (if writesTaken s || s.boot.state == .tripped then clearPm s else s)

/-! ## Bring-up after a trip (R394) -/

/-- Every entry of a partition has SAVED = 1 (R394), and it has some or was parked. -/
def allSaved (s : State) (p : Nat) : Bool :=
  let es := ((s.power.pm.map (fun r => r.entries)).getD []).filter (fun e => e.part.toNat == p)
  (!es.isEmpty || partParked s (BitVec.ofNat 3 p)) && es.all (fun e => e.saved)

/-- The ring entries that a lost team's handlers hold are freed (R394). -/
def freeTeamEntries (s : State) (t : Team) : State :=
  let perTeam := ((s.farm? t.farm).map (fun f => f.perTeam)).getD false
  if perTeam then s
  else ((s.teamHarts t.uid).filterMap (fun h => h.msg)).foldl (fun s m => freeSlot s m.queue m.slot) s

/-- Drop a team without running it further, or performing its stores. -/
def loseTeam (s : State) (t : Team) : State :=
  retireTeam ((freeTeamEntries s t).updHarts (fun h => h.id.ref.team == t.uid) (fun h => { h with stores := [] })) t.uid

/-- Farms of per-team launches whose teams were lost: their entries are freed and what is left of them is not placed. -/
def loseFarms (s : State) (uids : List Nat) : State :=
  let gone := s.farms.filter (fun f => uids.contains f.uid)
  let s1 := gone.foldl (fun s f => if f.perTeam then freeSlot s f.queue f.slot else s) s
  { s1 with farms := s1.farms.filter (fun f => !uids.contains f.uid)
            placing := s1.placing.filter (fun p => !(p.perTeam && uids.contains p.farm)) }

/-- A saved team waits in HBM for CMD = IN; one that was pre-empted, whose harts may be another team's, then resumes as R60 has it. -/
def keepSaved (s : State) (t : Team) : State :=
  s.updTeam t.uid (fun x =>
    if x.status == .stopped .preempt then { x with segSaved := true, spaceSaved := false }
    else { x with status := .stopped .parked, spaceSaved := false })

/-- What becomes of the teams of every partition: kept for CMD = IN where all were saved, lost elsewhere (R394). -/
def settleTeams (s : State) : State :=
  let lost := s.teams.filter (fun t => !allSaved s t.part.toNat)
  let kept := s.teams.filter (fun t => allSaved s t.part.toNat)
  let farms := (lost.map (fun t => t.farm)).dedup
  let parts := Vector.ofFn (fun (i : Fin 8) =>
    let p := s.part i.val
    if allSaved s i.val then { p with state := PartState.hbm, restoring := false }
    else { p with state := .running, restoring := false })
  let s1 := lost.foldl loseTeam s
  let s2 := loseFarms s1 farms
  { kept.foldl keepSaved s2 with parts := parts }

end Sys2Proof.Machine
end

