-- ==== Sys2Proof/Machine/Boot.lean ====
section
/-! DEFINITION. Bring-up, firmware, attestation, the host link and the peer ports (R405, R410 to R412, R414 to R419; logs
12, 20, 28). -/

namespace Sys2Proof.Machine

/-- Step 2 of R415: why an image is refused; 0 where it is not. -/
def imageFail (s : State) (x : Image) : BitVec 8 :=
  if !Config.verifies x.bytes x.signature then 1
  else if x.rollback < s.boot.fused then 2
  else if !x.formatOk then 3
  else 0

/-- The ROM's part of a start: the measurement, and the alias key pair with its certificate by the identity key (R415, R418). -/
def deriveKeys (b : Boot) (measurement : BitVec 256) : Boot :=
  let seed := aliasSeed measurement
  let key := Config.publicKey seed
  { b with measurement := measurement, identity := identitySeed, alias_ := seed, aliasKey := key
           aliasCert := Config.sign identitySeed (bytesOf key) }

/-- The start of R415 from the image in flash; `trained`: HBM training succeeds. -/
def startUp (s : State) (trained : Bool) : State :=
  let x := s.boot.image
  let s1 := setHostState { s with boot := { deriveKeys s.boot (sha256 x.bytes) with memok := false } } .verify
  let fail := imageFail s1 x
  if fail ≠ 0 then enterRecovery s1 fail
  else
    let s2 := { s1 with boot := { s1.boot with fused := max s1.boot.fused x.rollback } }
    if !trained then enterRecovery s2 4
    else if linkLacks s2 then enterRecovery s2 5
    else setHostState { s2 with boot := { s2.boot with fail := 0, memok := true } } .ready

/-- COLD_RESET (R415): everything at its reset value but the fused counter, then the start. `image` is what flash
holds. -/
def execColdReset (image : Image) (trained : Bool) (s : State) : Out :=
  let s1 := { State.reset with boot := { State.reset.boot with image := image, fused := s.boot.fused }
                               tick := s.tick, nextUid := s.nextUid, agenda := s.agenda }
  .next (startUp s1 trained)

/-- HCMD is accepted in STATE 2, 3 and 5 (Table 18.4). -/
def hcmdAccepted (s : State) : Bool :=
  match s.boot.state with
  | .ready | .recovery | .tripped => true
  | .rom | .verify | .emergency => false

/-- A restart: after a trip R394 settles what becomes of the teams; otherwise every team stays, since no rule ends its harts (R9,
log 28). Then the start of R415. -/
def restart (s : State) : State :=
  let s1 := if s.boot.state == .tripped then settleTeams s else s
  startUp { s1 with tick := s1.tick + 1 } (Config.trains s1.tick)

/-- HCMD_RESTART (R415, R416): HCMD 1. -/
def execHcmdRestart (s : State) : Out := if hcmdAccepted s then .next (restart s) else .next s

/-- HCMD 2 (R416, R417): the staged image is installed. -/
def install (s : State) : State :=
  match s.boot.staged with
  | none => s
  | some x => restart { s with boot := { s.boot with image := x, staged := none } }

/-- HCMD_INSTALL (R416). -/
def execHcmdInstall (s : State) : Out := if hcmdAccepted s then .next (install s) else .next s

/-- CXL.io and the DOE mailbox work: once the ROM has verified the firmware (R415, R416). -/
def doeWorks (s : State) : Bool := s.boot.state != .rom && s.boot.state != .verify

/-- DOE_IMAGE_WRITE (R417): an image whose signature verifies, as in step 1 of R415, is staged without being run. -/
def execDoeImageWrite (image : Image) (s : State) : Out :=
  if doeWorks s && Config.verifies image.bytes image.signature then .next { s with boot := { s.boot with staged := some image } }
  else .next s

/-- A request for an attestation is outstanding: its response is not ready yet. -/
def attesting (b : Boot) : Bool := b.nonce.isSome && b.response.isNone

/-- ATTEST_REQUEST (R419): a request while another is outstanding is answered BUSY and not queued. -/
def execAttestRequest (nonce : BitVec 256) (s : State) : Out :=
  if !doeWorks s then .next s
  else if attesting s.boot then .next { s with boot := { s.boot with answer := .busy } }
  else .next { s with boot := { s.boot with nonce := some nonce, response := none } }

/-- The bytes that the alias key signs: everything else in the response (R419), each field with its most significant byte first, which
R419 does not say (DESIGN CHOICE, log 12). -/
def AttestResponse.message (r : AttestResponse) : List Byte :=
  bytesOf r.nonce ++ bytesOf r.measurement ++ bytesOf (BitVec.ofNat 64 r.rollback) ++ bytesOf r.fuses ++ bytesOf r.hst
    ++ bytesOf r.aliasKey ++ r.aliasCert

/-- The response to a request (R419). -/
def attestation (s : State) (nonce : BitVec 256) : AttestResponse :=
  let b := s.boot
  let r : AttestResponse :=
    { nonce := nonce, measurement := b.measurement, rollback := b.fused, fuses := Config.fuses
      hst := BitVec.ofNat 64 (readReg s .hst), aliasKey := b.aliasKey, aliasCert := b.aliasCert, signature := [] }
  { r with signature := Config.sign b.alias_ r.message }

/-- ATTEST_RESPONSE_READY (R419, R409). -/
def execAttestResponseReady (s : State) : Out :=
  match s.boot.nonce with
  | some n =>
    if attesting s.boot then .next (raiseMsix { s with boot := { s.boot with response := some (attestation s n) } } 3) else .next s
  | none => .next s

/-- CXL_LINK_TRAIN (R405): a host without every required feature leaves the device in RECOVERY with FAIL = 5. -/
def execCxlLinkTrain (features : Bool) (s : State) : Out :=
  let s1 := { s with boot := { s.boot with linkUp := true, features := features } }
  match s.boot.state with
  | .ready | .recovery => if features then .next s1 else .next (enterRecovery s1 5)
  | .rom | .verify | .emergency | .tripped => .next s1

/-! ## Peer ports (R410 to R412) -/

/-- Change a port. -/
def State.updPort (s : State) (i : Nat) (f : Port → Port) : State :=
  match s.ports[i]? with
  | none => s
  | some x => { s with ports := vset s.ports i (f x) }

/-- PEER_LINK_UP (R409, R412). -/
def execPeerLinkUp (port : BitVec 3) (peer : BitVec 8) (s : State) : Out :=
  let was := (s.ports[port.toNat]?.map (fun p => p.up)).getD false
  let s1 := s.updPort port.toNat (fun p => { p with up := true, peer := peer })
  .next (if was then s1 else raiseMsix s1 2)

/-- A port goes down: messages accepted and not delivered are discarded, counted in LOST and recorded (R411). -/
def dropFlight (s : State) (port : Nat) : State :=
  match s.ports[port]? with
  | none => s
  | some p =>
    let lost := BitVec.ofNat 16 (min 0xFFFF (p.lost.toNat + p.flight.length))
    let s1 := s.updPort port (fun x => { x with lost := lost, flight := [] })
    p.flight.foldl (fun s m => launchEvent s m.part m.queue (msgType m.msg) 6 m.origin) s1

/-- PEER_LINK_DOWN (R409, R411). -/
def execPeerLinkDown (port : BitVec 3) (s : State) : Out :=
  let was := (s.ports[port.toNat]?.map (fun p => p.up)).getD false
  let s1 := dropFlight (s.updPort port.toNat (fun x => { x with up := false })) port.toNat
  .next (if was then raiseMsix s1 2 else s1)

/-- FLIT_RETRY (R410, R412). -/
def execFlitRetry (port : BitVec 3) (s : State) : Out :=
  .next (s.updPort port.toNat (fun p => if p.up then { p with retry := p.retry + 1 } else p))

/-- The message that a port serves next reaches the far end (R411); none while only CXL.io and HCMD work (R415). -/
def portSend (s : State) (i : Nat) : State :=
  if takesMessages s then s.updPort i (fun p => { p with flight := p.flight.tail }) else s

end Sys2Proof.Machine
end

