-- ==== Sys2Proof/Machine/Branch.lean ====
section
/-! DEFINITION. Control flow (R69, R108 to R111). -/

namespace Sys2Proof.Machine

/-- The address a word offset reaches from the branch's first word (R69). -/
def wordTarget {n : Nat} (pc : Word) (o : BitVec n) : Word := pc + sext64 o * 4

/-- A conditional transfer (R108): to the target when the condition holds, to the next word otherwise. -/
def branch {n : Nat} (taken : Bool) (o : BitVec n) (s : State) : Out :=
  if taken then .next (s.jump (wordTarget s.hart.sc.pc o)) else .next (s.advance 4)

/-- `beq` (R108). -/
def execBeq (a b : GReg) (o : BitVec 10) (s : State) : Out := branch (s.g a == s.g b) o s

/-- `bne` (R108). -/
def execBne (a b : GReg) (o : BitVec 10) (s : State) : Out := branch (s.g a != s.g b) o s

/-- `blt` (R108). -/
def execBlt (a b : GReg) (o : BitVec 10) (s : State) : Out := branch (decide ((s.g a).toInt < (s.g b).toInt)) o s

/-- `bge` (R108). -/
def execBge (a b : GReg) (o : BitVec 10) (s : State) : Out := branch (decide ((s.g b).toInt ≤ (s.g a).toInt)) o s

/-- `bltu` (R108). -/
def execBltu (a b : GReg) (o : BitVec 10) (s : State) : Out := branch (decide ((s.g a).toNat < (s.g b).toNat)) o s

/-- `bgeu` (R108). -/
def execBgeu (a b : GReg) (o : BitVec 10) (s : State) : Out := branch (decide ((s.g b).toNat ≤ (s.g a).toNat)) o s

/-- `beqz` (R109). -/
def execBeqz (a : GReg) (o : BitVec 17) (s : State) : Out := branch (s.g a == 0) o s

/-- `bnez` (R109). -/
def execBnez (a : GReg) (o : BitVec 17) (s : State) : Out := branch (s.g a != 0) o s

/-- `bltz` (R109). -/
def execBltz (a : GReg) (o : BitVec 17) (s : State) : Out := branch (decide ((s.g a).toInt < 0)) o s

/-- `bgez` (R109). -/
def execBgez (a : GReg) (o : BitVec 17) (s : State) : Out := branch (decide (0 ≤ (s.g a).toInt)) o s

/-- `bgtz` (R109). -/
def execBgtz (a : GReg) (o : BitVec 17) (s : State) : Out := branch (decide (0 < (s.g a).toInt)) o s

/-- `blez` (R109). -/
def execBlez (a : GReg) (o : BitVec 17) (s : State) : Out := branch (decide ((s.g a).toInt ≤ 0)) o s

/-- `jal` (R110): links PC + 4 and jumps by the offset. -/
def execJal (d : GReg) (o : BitVec 20) (s : State) : Out :=
  .next ((s.setG d (s.hart.sc.pc + 4)).jump (wordTarget s.hart.sc.pc o))

/-- `jal.l` (R110): links PC + 8 and jumps by the offset. -/
def execJalL (d : GReg) (o : BitVec 42) (s : State) : Out :=
  .next ((s.setG d (s.hart.sc.pc + 8)).jump (wordTarget s.hart.sc.pc o))

/-- `jalr` (R110): a target whose bits [1:0] are not zero raises Misaligned and writes neither gd nor the PC. -/
def execJalr (d a : GReg) (i : BitVec 11) (s : State) : Out :=
  let t := s.g a + sext64 i
  if t &&& 3 ≠ 0 then trapAt s 0x06 t else .next ((s.setG d (s.hart.sc.pc + 4)).jump t)

end Sys2Proof.Machine
end

