-- ==== Sys2Proof/Machine/HostMem.lean ====
section
/-! DEFINITION. What happens to memory outside the harts: removal of a page's copies (R251), frame release (R241), host
CXL.mem accesses and snoops (R252, R405, R408), fills served at a home (R242, R247). -/

namespace Sys2Proof.Machine

/-! ## Pages and frames -/

/-- A cached copy is of a page of a cache space. -/
def CacheLine.ofPage (c : CacheLine) (cspace vpage : Nat) : Bool := c.cspace == cspace && c.vline / 512 == vpage

/-- Remove every copy of a page's lines, dirty data written to the frames it stands in: those of its copies, and the frame that the
page owns (R241, R251). -/
def invalPage (s : State) (cspace vpage : Nat) : State :=
  let mine := s.lines.filter (fun c => c.ofPage cspace vpage)
  let s1 := mine.foldl (fun x c => cleanLine x c.pline) s
  let owned := fun (a : Nat) => s.frames.any (fun o => o.frame == a / 65536 && o.cspace == cspace && o.vpage == vpage)
  { s1 with backing := s1.backing.filter (fun c => !owned c.1), lines := s.lines.filter (fun c => !c.ofPage cspace vpage) }

/-- Drop the cached leaf entries of a page of a cache space at the release of its frame, and no table entry (R250, R241, which do not say
which entries; DESIGN CHOICE, log 9). -/
def dropPageLeaves (s : State) (cspace vpage : Nat) : State :=
  let keep := s.walks.filter (fun w => !(w.leafOf == some vpage && (if w.global then cspace == 0 else w.space == cspace)))
  { s with walks := keep }

/-- Write the bytes of a list from an address up. -/
def writeBytes (m : List Host.Cell) (pa : Nat) (bs : List Byte) : List Host.Cell :=
  bs.zipIdx.foldl (fun m x => memWrite m (pa + x.2) x.1) m

/-- The host fills a range of HBM that nothing caches: `bs`, then zeros (R22). -/
def hostFill (s : State) (pa n : Nat) (bs : List Byte) : State :=
  let out := fun (a : Nat) => a < pa || pa + n ≤ a
  { s with mem := writeBytes (memClear s.mem pa n) pa bs, backing := s.backing.filter (fun c => out c.1)
           lines := s.lines.filter (fun c => out (c.pline * 128)) }

/-- Start the release of a frame: OWNED reads 1 until it is complete (R241). -/
def startRelease (s : State) (frame : Nat) : State :=
  { s with frames := upd s.frames (fun o => o.frame == frame) (fun o => { o with releasing := true }) }

/-- FRAME_RELEASE (R241). -/
def execFrameRelease (frame : Nat) (s : State) : Out := ifTaken s (startRelease s frame)

/-- FRAME_RELEASE_COMPLETE (R241, R250): every copy of the owner's page is gone and the entry is cleared. -/
def execFrameReleaseComplete (frame : Nat) (s : State) : Out :=
  match s.frames.find? (fun o => o.frame == frame && o.releasing) with
  | none => .next s
  | some o =>
    let s1 := dropPageLeaves (invalPage s o.cspace o.vpage) o.cspace o.vpage
    .next { s1 with frames := s1.frames.filter (fun x => x.frame != frame) }

/-! ## Fills -/

/-- A home serves a request of the current hart: the fill of a load or fetch goes to the hart's L2 (R242, R247); a
store's or atomic's translation sets A and D and claims the frame (R236, R240). A failure is reported by the access
itself. -/
def serveHome (s : State) (va : Nat) (kind : AccessKind) : State :=
  match home s s.sp s.pt va kind with
  | (.fault _, _) => s
  | (.ok pte, s1) =>
    let pa := pteFrame pte + va % 65536
    if isHbm pa && natBits pte 4 2 == 0 && (kind == .load || kind == .fetch) then fill s1 va pa pte none false else s1
  | (_, s1) => s1

/-- The AMO at the PC stalls at the home of an address, with all that precedes its access done: its release, the earlier vector accesses,
the hart's own stores of those bytes (R260, R262, R316). -/
def Hart.stalledAmo (h : Hart) (va : Nat) : Bool :=
  match h.ir with
  | none => false
  | some w =>
    let ord := MemOrder.ofCode (bits w.toNat 6 2)
    let mayAccess := ord == .relaxed || ord == .acquire ||
      ((h.releaseWaits (Scope.ofCode (bits w.toNat 4 2))).isNone && !h.holds)
    h.wait == .stall && fld w.toNat 26 6 == 0x0B && (checked (decodeAmo w.toNat)).isSome && (h.getG (bits w.toNat 14 6)).toNat == va
      && va % 8 == 0 && mayAccess && !h.queueTouches && !anyHeld h.stores va 8 && !anyPending h.stores va 8

/-- A hart may have a request of a kind for a line under way: a load or fetch at any time, for IDEM data may be read
early (Table 10.6); a store only for a line it has retired; an atomic only for the address at which the AMO at its PC stalls, for A and D
are set for an access that goes there (R236). The elements of a VAMO are translated by its entry at the head. -/
def mayRequest (h : Hart) (va : Nat) (kind : AccessKind) : Bool :=
  match kind with
  | .load | .fetch => h.run == .running
  | .store => h.stores.any (fun l => l.line == va / 128 && l.stage == .retired)
  | .atomic => h.run == .running && h.stalledAmo va

/-- HOME_REQUEST (R247). -/
def execHomeRequest (r : HartRef) (va : Word) (kind : AccessKind) (s : State) : Out :=
  match s.activate r with
  | none => .next s
  | some s1 =>
    let a := va.toNat
    if isOut s1 r || !mayRequest s1.hart a kind || inNear a then .next s
    else
      match entrySnoop s1 s1.sp a with
      | some s2 => .next s2
      | none => .next (if addressOk s1 s1.sp s1.pt a then serveHome s1 a kind else s)

/-! ## Host accesses (R252, R408) -/

/-- Host accesses of HDM are served (R390, R415, R416). -/
def hdmServed (s : State) : Bool :=
  match s.boot.state with
  | .ready => s.boot.memok
  | .emergency => (s.power.emergency.map (fun e => decide (e.stage < 3))).getD true
  | _ => false

/-- What the host's access is answered. -/
def State.answer (s : State) (x : HostAnswer) : State := { s with boot := { s.boot with answer := x } }

/-- The host's recorded copy of a line after a read with a MetaValue; a record of a copy that timed out ends (R408). -/
def recordHost (s : State) (pline : Nat) (any : Bool) : State :=
  let old := s.hostLines.find? (fun h => h.pline == pline && !h.late)
  let new : HostLine := { pline := pline, any := any || (old.map (fun h => h.any)).getD false
                          snooped := old.bind (fun h => h.snooped), inval := (old.map (fun h => h.inval)).getD false, late := false }
  { s with hostLines := new :: s.hostLines.filter (fun h => h.pline != pline) }

/-- The host reads a line: a dirty device copy is taken first. A read with MetaValue Any takes every device copy away, one with
Shared leaves none that may be written; the home records either, and a read with No-Op nothing (R252, R408). -/
def hostRead (s : State) (pline : Nat) (hold : HostMeta) : State :=
  let s1 := cleanLine s pline
  match hold with
  | .noOp => s1
  | .shared =>
    recordHost { s1 with lines := upd s1.lines (fun c => c.pline == pline) (fun c => { c with w := false, own := false }) } pline false
  | .any => recordHost { s1 with lines := s1.lines.filter (fun c => c.pline != pline) } pline true

/-- A write of a line whose copy timed out at the host is its late write-back: it is discarded (R408). -/
def lateLine (s : State) (pline : Nat) : Bool := s.hostLines.any (fun h => h.pline == pline && h.late)

/-- HOST_MEM_ACCESS (R252, R390, R408, R415, R416): a host read or write of one aligned 64-byte host line, and its answer. Where no
access is served, a read is answered with poison and a write is not performed. -/
def execHostMemAccess (pa : Nat) (data : Option (BitVec 512)) (hold : HostMeta) (s : State) : Out :=
  if !isHbm pa || pa % 64 != 0 then .next s
  else
    match data with
    | none =>
      if !hdmServed s then .next (s.answer .poison)
      else
        let s1 := hostRead s (pa / 128) hold
        .next (s1.answer (.data (BitVec.ofNat 512 (readLE s1.mem pa 64))))
    | some x =>
      if !hdmServed s then .next (s.answer .dropped)
      else if lateLine s (pa / 128) then .next (s.answer .poison)
      else .next ((frameWrite s pa 64 x.toNat (2 ^ 512 - 1)).answer .written)

/-- The host has answered a snoop of a line: after BISnpInv it holds the line no more, after BISnpData it may hold it shared
(PRESUMED, log 18). -/
def answered (s : State) (pline : Nat) : State :=
  let out := fun (h : HostLine) => h.pline == pline && h.inval
  let kept := s.hostLines.filter (fun h => !out h)
  { s with hostLines := upd kept (fun h => h.pline == pline) (fun h => { h with any := false, snooped := none }) }

/-- HOST_BIRSP (R408): the host answers a snoop, with the line's data where it held it modified; after the timeout the data is
discarded and answered with poison. A write-back is not performed where no host write is (R390, R415, R416). -/
def execHostBirsp (line : Nat) (writeBack : Option (BitVec 1024)) (s : State) : Out :=
  if lateLine s line then (match writeBack with | none => .next s | some _ => .next (s.answer .poison))
  else if s.hostLines.any (fun h => h.pline == line && h.snooped.isSome) then
    match writeBack with
    | none => .next (answered s line)
    | some x =>
      if hdmServed s then .next (answered (frameWrite s (line * 128) 128 x.toNat (2 ^ 1024 - 1)) line)
      else .next ((answered s line).answer .dropped)
  else .next s

/-- HOST_SNOOP_TIMEOUT (R408, R409): 10 ms without an answer; the home takes the host's copy as invalid. -/
def execHostSnoopTimeout (line : Nat) (s : State) : Out :=
  let over_ := fun (h : HostLine) => h.pline == line && !h.late
    && (h.snooped.map (fun t => decide (t + 10000000 ≤ s.clock.ran))).getD false
  if s.hostLines.any over_ then
    let s1 := { s with hostLines := upd s.hostLines over_ (fun h => { h with late := true }) }
    .next (raiseMsix { s1 with boot := { s1.boot with hostto := true } } 4)
  else .next s

/-- HOST_TO_DEVICE_SNOOP (R405, R407): the device holds no host line, so the answer is invalid and nothing changes. -/
def execHostToDeviceSnoop (_ : Nat) (s : State) : Out := .next s

/-- The device-class store line that begins with an element loses the piece whose write has completed, and leaves with its last one
(R246). -/
def popPiece (h : Hart) (seq : Word) (idx : Nat) : Hart :=
  { h with stores := h.stores.flatMap (fun l =>
      if l.begins seq idx then (if l.elems.length ≤ 1 then [] else [l.popElem]) else [l]) }

/-- A combined line whose last write has completed leaves. -/
def dropWindow (h : Hart) (seq : Word) (line : Nat) : Hart :=
  { h with stores := h.stores.filter (fun l => !(l.stage == .window && l.seq == seq && l.line == line)) }

/-- HOST_WINDOW_COMPLETION (R407): the host answers the oldest access of a hart's instruction that has no answer. A read
takes its data; a write leaves the hart's buffers. -/
def execHostWindowCompletion (r : HartRef) (seq : Word) (data : BitVec 512) (s : State) : Out :=
  match s.windowOps.find? (fun o => o.hart == r && o.seq == seq && o.answer.isNone) with
  | none => .next s
  | some o =>
    if o.write then
      let s1 := { s with windowOps := s.windowOps.erase o }
      let more := s1.windowOps.any (fun p => p.hart == r && p.write && p.seq == seq && p.idx == o.idx)
      let done := fun (h : Hart) => if o.devc then popPiece h seq o.idx else if more then h else dropWindow h seq o.idx
      .next (s1.updHarts (fun h => h.id.ref == r) done)
    else
      .next { s with windowOps := s.windowOps.map (fun p => if p == o then { p with answer := some data } else p) }

end Sys2Proof.Machine
end

