-- ==== Sys2Proof/Machine/HubWrite.lean ====
section
/-! DEFINITION. Writes of the hub configuration space (R5, Tables 2.3, 3.3, 10.1, 10.5, 14.2, 15.2, 16.2, 16.5, 17.1, 17.3,
18.2, 18.4; log 6). -/

namespace Sys2Proof.Machine

/-- A write to doubleword 0 of a queue descriptor: while EN = 1 only EN, CLASS and MAXTEAMS (R31). -/
def writeQd0 (s : State) (n v : Nat) : State :=
  let q := s.queue n
  let c := BitVec.ofNat 2 (natBits v 4 2)
  let q1 := if q.en then { q with cls := c } else
    { q with cls := c, perTeam := natBit v 1, strm := natBit v 2, openq := natBit v 3
             space := BitVec.ofNat 14 (natBits v 8 14), part := BitVec.ofNat 3 (natBits v 22 3) }
  let s1 := s.setQueue q1
  let m := BitVec.ofNat 12 (natBits v 32 12)
  let s2 := if m = q.maxTeams then s1 else writeMaxTeams s1 n m
  if q.en && !natBit v 0 then disableQueue s2 n else if natBit v 0 then enableQueue s2 n else s2

/-- A write to a doubleword of a queue descriptor (Table 2.3); `v` the register with the written bytes, `w` those bytes
alone. -/
def writeQd (s : State) (n dw v w : Nat) : State :=
  let q := s.queue n
  let idle := fun (x : Queue) => if q.en then s else s.setQueue x
  match dw with
  | 0 => writeQd0 s n v
  | 1 => idle { q with ringVa := BitVec.ofNat 56 v, logDepth := BitVec.ofNat 4 (natBits v 56 4) }
  | 2 => idle { q with argDef := BitVec.ofNat 56 v }
  | 3 => idle { q with stateBase := BitVec.ofNat 56 v }
  | 4 => idle { q with slines := BitVec.ofNat 14 v, timeout := BitVec.ofNat 32 (natBits v 16 32) }
  | 5 => s.setQueue { q with seed := BitVec.ofNat 64 v }
  | 6 => idle { q with modNo := BitVec.ofNat 6 v }
  | _ => idle { q with badcfg := q.badcfg && !natBit w 21 }

/-- A write to a doubleword of a partition descriptor (R53, R54, Table 3.3). -/
def writePd (s : State) (p dw v w : Nat) : State :=
  let x := s.part p
  if dw = 0 then
    if x.en then (if natBit v 0 then s else s.updPart p (fun y => { y with en := false }))
    else
      let s1 := s.updPart p (fun y => { y with facets := BitVec.ofNat 8 (natBits v 8 8), logVlp := BitVec.ofNat 5 (natBits v 16 5) })
      if natBit v 0 then enablePartition s1 p else s1
  else
    let s1 := s.updPart p (fun y => { y with savePa := BitVec.ofNat 44 (natBits v 12 44), badcfg := y.badcfg && !natBit w 2 })
    match natBits w 0 2 with
    | 1 => partitionOut s1 p
    | 2 => partitionIn s1 p
    | _ => s1

/-- A write to a doubleword of the translation configuration (R229). -/
def writeTcfg (s : State) (dw v : Nat) : State :=
  let t := s.trans
  if dw = 0 then
    { s with trans := { t with en := natBit v 0, stpa := if t.en then t.stpa else BitVec.ofNat 35 (natBits v 17 35) } }
  else if (s.part (dw - 1)).en then s
  else
    { s with trans := { t with gv := vset t.gv (dw - 1) (natBit v 0)
                               groot := vset t.groot (dw - 1) (BitVec.ofNat 35 (natBits v 17 35)) } }

/-- The harts of a space when its WDOG becomes `w` (R374). -/
def changeDog (s : State) (id : Nat) (w : BitVec 8) : State :=
  let old := (s.space id).wdog
  if w = old then s else s.updHarts (fun h => h.id.space.toNat == id) (Hart.newDog old.toNat)

/-- A write to a doubleword of a trap entry (Table 15.2). -/
def writeTe (s : State) (id dw v : Nat) : State :=
  let x := s.space id
  if dw = 0 then
    let w := BitVec.ofNat 8 (natBits v 56 8)
    (changeDog s id w).setSpace
      { x with teEn := natBit v 0, note := natBit v 1, tvec := BitVec.ofNat 54 (natBits v 2 54), wdog := w }
  else s.setSpace { x with targ := BitVec.ofNat 64 v }

/-- A write to a doubleword of the timestamp discipline (Table 17.3). -/
def writeTs (s : State) (dw v w : Nat) : State :=
  match dw with
  | 0 => stepTime s (BitVec.ofNat 64 w)
  | 1 =>
    let x : BitVec 20 := BitVec.ofNat 20 v
    if -500000 ≤ x.toInt && x.toInt ≤ 500000 then { s with clock := { s.clock with slew := x } } else s
  | _ => s

/-- A write to eight entries of the routing table (Table 18.2). -/
def writeRoute (s : State) (k v : Nat) : State :=
  { s with route := (List.range 8).foldl (fun r i => vset r (8 * k + i) (BitVec.ofNat 8 (natBits v (8 * i) 8))) s.route }

/-- A write to a port's EN (R411, Table 18.2). -/
def writePort (s : State) (i v : Nat) : State :=
  let s1 := s.updPort i (fun x => { x with en := natBit v 0 })
  if natBit v 0 then s1 else dropFlight s1 i

/-- HCMD (Table 18.4). -/
def hostCommand (s : State) (cmd : Nat) : State :=
  if !hcmdAccepted s then s else if cmd = 1 then restart s else if cmd = 2 then install s else s

/-- Write a register: `v` its value with the written bytes in place, `w` the written bytes alone, `m` which bits were
written. -/
def writeReg (s : State) (r : HubReg) (v w m : Nat) : State :=
  match r with
  | .hst => { s with boot := { s.boot with hostto := s.boot.hostto && !natBit w 5 } }
  | .hst1 | .cap _ | .energy _ => s
  | .hcmd => hostCommand s (natBits w 0 4)
  | .qd q dw => writeQd s q dw v w
  | .pd p dw => writePd s p dw v w
  | .segmin x => if natBits v 0 11 ≤ 1024 then s.setSpace { s.space x with segmin := natBits v 0 11 } else s
  | .tcfg dw => writeTcfg s dw v
  | .frame f => if natBit w 63 then startRelease s f else s
  | .te x dw => writeTe s x dw v
  | .ac x dw => if dw = 3 && natBit w 63 then clearAccounting s x else s
  | .ts dw => writeTs s dw v w
  | .bp f dw => phasePlanWrite s f dw (BitVec.ofNat 64 v)
  | .gv f dw => writeGov s f dw (BitVec.ofNat 64 (if dw = 3 then w else v))
  | .pm dw => if dw = 0 && natBits m 0 32 != 0 then clearPm s else s
  | .pp p dw => if dw = 0 then writePort s p v else s
  | .devnum => if s.parts.toList.any (fun p => p.en) then s else { s with devnum := BitVec.ofNat 8 v }
  | .route k => writeRoute s k v

/-- The device takes a write of a register in its present state (R415, R416). -/
def writeTaken (s : State) (r : HubReg) : Bool :=
  writesTaken s || r == .hcmd || (r == .pm 0 && s.boot.state == .tripped)

/-- A write of `size` aligned bytes of the configuration space, of the bits that `mask` selects; none where the spec gives no
register (log 6). -/
def configWrite (s : State) (off size data mask : Nat) : Option State :=
  match hubReg off with
  | none => none
  | some r =>
    if writeTaken s r then
      let sh := 2 ^ (off % 8 * 8)
      let m := mask % 2 ^ (size * 8) * sh
      let w := (data &&& mask) % 2 ^ (size * 8) * sh
      let cur := readReg s r
      some (writeReg s r ((cur ^^^ (cur &&& m)) ||| w) w m)
    else some s

/-- A device-class write of the hub window: the configuration space or the wake space (R39, R406). -/
def hubWrite (s : State) (off size data mask : Nat) : Option State :=
  if inWake off then
    some (if takesMessages s then wakeWrite s (off - wakeBase) size (BitVec.ofNat 512 data) else s)
  else configWrite s off size data mask

/-- A doubleword of the MSI-X table in BAR4: an entry of four, its last the vector control with the mask bit (log 18). -/
def msixWrite (s : State) (offset : Nat) (value : Word) : State :=
  let v := offset / 16
  if 8 ≤ v || offset % 16 ≠ 8 then s
  else
    let on : BitVec 8 := BitVec.ofNat 8 (2 ^ v)
    { s with boot := { s.boot with msixMask := if natBit value.toNat 32 then s.boot.msixMask ||| on else s.boot.msixMask &&& ~~~on } }

/-- CONFIG_WRITE (R5, R406): the host writes a doubleword of BAR0, the hub configuration space, or of BAR4, the MSI-X table; one where
no register stands changes nothing. -/
def execConfigWrite (offset : BarOffset) (value : Word) (s : State) : Out :=
  if offset.off % 8 ≠ 0 then .next s
  else if offset.bar = 0 then .next ((configWrite s offset.off 8 value.toNat (2 ^ 64 - 1)).getD s)
  else if offset.bar = 4 then .next (msixWrite s offset.off value)
  else .next s

end Sys2Proof.Machine
end

