-- ==== Sys2Proof/Machine/StoreLines.lean ====
section
/-! DEFINITION. Retired store lines: translation, performance, deferred faults and their records (R151, R246 to R248, R272,
R316, R326, R360 to R364, R407). -/

namespace Sys2Proof.Machine

/-! ## The record of a line (Table 15.6) -/

/-- An element covers a nibble of its line. -/
def LineElem.covers (e : LineElem) (n : Nat) : Bool := decide (e.off ≤ n ∧ n < e.off + e.size)

/-- The elements whose data stands in a line: those that later elements of it have not overwritten whole (R257). -/
def owners : List LineElem → List LineElem
  | [] => []
  | e :: rest =>
    if (List.range e.size).any (fun i => !rest.any (fun f => f.covers (e.off + i))) then e :: owners rest else owners rest

/-- The lowest nibble of a line that is written. -/
def StoreLine.lowNibble (l : StoreLine) : Nat :=
  ((List.range 256).find? (fun n => natBits l.mask.toNat (4 * n) 4 != 0)).getD 0

/-- The element index of a line's record: the lowest it holds; 0 for a scalar store. -/
def StoreLine.firstElem (l : StoreLine) : Nat := ((owners l.elems).map (fun e => e.idx)).min?.getD 0

/-- Bit e of a record's mask for elements counted from `y`. -/
def elemMask (y : Nat) (xs : List Nat) : Word :=
  BitVec.ofNat 64 ((xs.filter (fun x => y ≤ x && x < y + 64)).foldl (fun m x => m ||| 2 ^ (x - y)) 0)

/-- The record of a line that fails with a code (R360, R361, Table 15.6); `now`: the fault is found now, unless it has been found before. -/
def lineRecord (now : Word) (l : StoreLine) (code : BitVec 8) (replay double : Bool) : FaultRec :=
  let n := l.lowNibble
  let own := (l.elems.filter (fun e => e.covers n)).getLast?
  let y := l.firstElem
  let idx := (owners l.elems).map (fun e => e.idx)
  { time := l.found.getD now, seq := l.seq, code := code, double := double, replay := replay, morePg := false
    moreEl := idx.any (fun x => decide (y + 64 ≤ x)), orig := if double then 3 else if l.vector then 1 else 0
    source := l.source, x := BitVec.ofNat 16 (n / 2 - (own.map (fun e => e.off / 2)).getD 0), iaddr := l.addr
    va := BitVec.ofNat 56 (l.line * 128 + n / 2), y := BitVec.ofNat 16 y, z := 0, pages := [0], mask := elemMask y idx }

/-! ## Changing a hart's lines -/

/-- Remove line `i` of the current hart. -/
def State.dropLine (s : State) (i : Nat) : State := s.withHart { s.hart with stores := s.hart.stores.eraseIdx i }

/-- Change line `i` of the current hart. -/
def State.setLine (s : State) (i : Nat) (f : StoreLine → StoreLine) : State :=
  s.withHart { s.hart with stores := updAt s.hart.stores i f }

/-- The low nibble of every byte of a line. -/
def lowNibbles : BitVec 1024 := BitVec.ofNat 1024 ((2 ^ 1024 - 1) / 255 * 15)

/-- The bytes of a line that are written, in whole or in part, by the low nibble of each. -/
def StoreLine.bytes (l : StoreLine) : BitVec 1024 := (l.mask ||| l.mask >>> 4) &&& lowNibbles

/-- Two lines write a byte in common (R314, R326). -/
def StoreLine.meets (a b : StoreLine) : Bool := a.line == b.line && (a.bytes &&& b.bytes) != 0

/-- The older lines of the current hart that precede line `i`. -/
def olderLines (s : State) (i : Nat) : List StoreLine := s.hart.stores.take i

/-- Write a record and go on, or wait until the log can be written (R362): `late` keeps when the fault was found (R361). -/
def afterRecord (s : State) (r : FaultRec) (late : State → State) (k : State → Word → State) : State :=
  match writeRecord s r with
  | (s1, none) => late s1
  | (s1, some va) => k s1 va

/-- The fault of line `i` has been found, and its record waits (R361, R362). -/
def State.lateLine (s : State) (i : Nat) (r : FaultRec) : State := s.setLine i (fun k => { k with found := some r.time })

/-- A line's home refuses it (R360, R364): in a handler that has ended the record is written and the line discarded; a line
of handler mode ends the handler at the next boundary; any other is held. It stays where it is until its record is written. -/
def failLine (s : State) (i : Nat) (l : StoreLine) (code : BitVec 8) : State :=
  let r := lineRecord s.clock.now l code false false
  if s.hart.run != .running then afterRecord s r (fun s1 => s1.lateLine i r) (fun s1 _ => s1.dropLine i)
  else if l.handler then
    let s1 := s.dropLine i
    let f := if s.hart.fatal.isSome then s.hart.fatal else some (lineRecord s.clock.now l code false true)
    s1.withHart { s1.hart with fatal := f }
  else
    afterRecord s r (fun s1 => s1.lateLine i r) (fun s1 va =>
      let s2 := s1.setLine i (fun k => { k with stage := .held, code := code, found := none })
      s2.withHart { s2.hart with recs := s2.hart.recs ++ [va] })

/-! ## Performing a line -/

/-- What one attempt to perform a line answers. -/
inductive LineRes where
  | done (s : State)            -- the line has left the hart's buffers
  | moved (s : State)           -- it stands at a later stage
  | stays (s : State)           -- it waits where it is
  | refused (code : BitVec 8) (s : State)   -- its home refuses it
  | hole (off : Nat)            -- a hub offset without a register (log 6)

/-- An element of a device-class line as accesses of at most 8 bytes, which an image line's is not. -/
def LineElem.pieces (e : LineElem) : List LineElem :=
  if e.size ≤ 16 then [e]
  else (List.range (e.size / 16)).map (fun i =>
    { idx := e.idx, off := e.off + 16 * i, size := 16, data := natBits e.data (64 * i) 64, mask := natBits e.mask (64 * i) 64 })

/-- The pieces of a line that write something: a trimmed image line's last ones do not (R280). -/
def StoreLine.pieces (l : StoreLine) : List LineElem := (l.elems.flatMap LineElem.pieces).filter (fun e => e.mask != 0)

/-- A write of the host window that carries bits of a line. -/
def windowOp (s : State) (l : StoreLine) (pa size data mask : Nat) (devc : Bool) : WindowOp :=
  { hart := s.hart.id.ref, seq := l.seq, idx := l.line, pa := pa, size := size, write := true, devc := devc, data := data
    mask := mask, answer := none }

/-- The accesses of the host window that carry a combined line at a physical address (R407): two of 64 bytes for a whole line, else
one for each aligned 8 bytes with a byte written. -/
def windowWrites (s : State) (l : StoreLine) (pa : Nat) : List WindowOp :=
  let op := fun (n i : Nat) =>
    windowOp s l (pa + n * i) n (natBits l.data.toNat (n * i * 8) (n * 8)) (natBits l.mask.toNat (n * i * 8) (n * 8)) false
  if l.mask == BitVec.allOnes 1024 then [op 64 0, op 64 1]
  else ((List.range 16).map (op 8)).filter (fun o => o.mask != 0)

/-- Perform an IDEM line at its home: the line's other copies go, and the hart's caches take it unless nt = 1 (R244,
R272). -/
def performIdem (s : State) (l : StoreLine) (pa pte : Nat) : State :=
  let va := l.line * 128
  let s1 := performAt s l (cacheSpace s.sp va) (pa / 128) (!l.nt) (fun _ => false)
  if l.nt then s1 else fill s1 va pa pte (if l.vector then none else some (Place.l1d s.hart.id.core)) true

/-- A line has been translated to a page that no cache holds, and is not performed. -/
def StoreStage.uncached (g : StoreStage) : Bool := g == .combining || g == .device || g == .window

/-- An older line of the current hart at such a stage writes a byte of line `i`. -/
def olderUncached (s : State) (i : Nat) (l : StoreLine) : Bool := (olderLines s i).any (fun k => k.meets l && k.stage.uncached)

/-- The physical line that a leaf gives a store line. -/
def StoreLine.plineOf (l : StoreLine) (pte : Nat) : Nat := (pteFrame pte + l.line * 128 % 65536) / 128

/-- Perform line `i` from a translation its home has made, or take it to the buffers of a page that no cache holds. A line of a
cached page waits for an older one of the same byte in those buffers (R314). -/
def performMapped (s : State) (i : Nat) (l : StoreLine) (pte : Nat) : LineRes :=
  let cls := natBits pte 4 2
  if cls = 1 then .moved (s.setLine i (fun k => { k with stage := .combining, pa := l.plineOf pte }))
  else if cls = 0 then
    if olderUncached s i l then .stays s
    else .done ((performIdem s l (pteFrame pte + l.line * 128 % 65536) pte).dropLine i)
  else .moved (s.setLine i (fun k => { k with stage := .device, pa := l.plineOf pte, elems := l.pieces }))

/-- Translate line `i` at its home (R243, R247); `k` goes on from the leaf. -/
def atHome (s : State) (i : Nat) (l : StoreLine) (k : Nat → State → LineRes) : LineRes :=
  match home s s.sp s.pt (l.line * 128) .store with
  | (.fault c, s1) => .refused (BitVec.ofNat 8 c) s1
  | (.zeros, s1) => .refused 0x0B s1
  | (.mig, s1) => .moved (s1.setLine i (fun k => { k with stage := .migrating }))
  | (.busy, s1) => .stays s1
  | (.ok pte, s1) => k pte s1

/-! ## Combined and device-class lines (R246, R407) -/

/-- Line `i` follows no older line of a byte of it but one that combines as it does (R314, R326). -/
def mayDrain (s : State) (i : Nat) (l : StoreLine) : Bool := (olderLines s i).all (fun k => !k.meets l || k.stage == .combining)

/-- Every earlier store of the current hart that is, or may prove to be, a device-class one for the window of a physical address has
been performed (R316, Table 13.2). -/
def windowFree (s : State) (i pa : Nat) : Bool :=
  isHbm pa || (olderLines s i).all (fun k =>
    match k.stage with
    | .retired | .migrating => false
    | .device => !sameWindow (k.pa * 128) pa
    | .combining | .window | .held => true)

/-- The lines of the current hart that leave a combining buffer for a physical address together, each with its place: those of one line
that combine, as far as they may (R246, R316, R407). -/
def drainGroup (s : State) (l : StoreLine) (pa : Nat) : List (StoreLine × Nat) :=
  (s.hart.stores.zipIdx.filter (fun x => x.1.stage == .combining && x.1.line == l.line)).takeWhile (fun x =>
    mayDrain s x.2 x.1 && windowFree s x.2 pa)

/-- Lines that combined are one line now, at the place of the first. -/
def State.joinLines (s : State) (first : Nat) (rest : List Nat) (l : StoreLine) : State :=
  let s1 := s.setLine first (fun _ => l)
  s1.withHart { s1.hart with stores := (s1.hart.stores.zipIdx.filter (fun x => !rest.contains x.2)).map (fun x => x.1) }

/-- A combining buffer is written: to its home in HBM, or over the host link. The line is translated when it leaves, so no access is
made under an entry or a name that has gone (R240, R251). -/
def drainLine (s : State) (i : Nat) (l : StoreLine) : LineRes :=
  if !(drainGroup s l 0).any (fun x => x.2 == i) then .stays s
  else atHome s i l (fun pte s1 =>
    if natBits pte 4 2 ≠ 1 then performMapped s1 i l pte
    else
      let pline := l.plineOf pte
      let group := drainGroup s1 l (pline * 128)
      match group with
      | [] => .stays s1
      | (first, j) :: rest =>
        if !group.any (fun x => x.2 == i) then .stays s1
        else
          let all := { rest.foldl (fun a x => a.merge x.1) first with stage := .window, pa := pline }
          let s2 := s1.joinLines j (rest.map (fun x => x.2)) all
          if isHost (pline * 128) then .moved { s2 with windowOps := s2.windowOps ++ windowWrites s2 all (pline * 128) }
          else .done ((performAt s2 all (cacheSpace s2.sp (l.line * 128)) pline false (fun _ => false)).dropLine j))

/-- A write that carries the first piece of line `l` over the host link is in flight. -/
def pieceInFlight (s : State) (l : StoreLine) : Bool :=
  s.windowOps.any (fun o => o.hart == s.hart.id.ref && o.write && o.devc && l.begins o.seq o.idx)

/-- It is the turn of the first piece of device-class line `i`: every earlier access of the hart to its window has completed, and so
has every lower element of its own instruction (Table 10.6, R257), and every earlier store of a byte of it (R314). Lines stand in the
order in which they retired, which is program order: a scalar store retires behind every vector one (log 10), and what a trap has set
aside retires after the handler's stores. -/
def deviceTurn (s : State) (i : Nat) (l : StoreLine) : Bool :=
  let first := fun (k : StoreLine) => ((k.elems.head?).map (fun e => e.idx)).getD 0
  !pieceInFlight s l && !olderUncached s i l && s.hart.stores.zipIdx.all (fun x =>
    let k := x.1
    if x.2 = i then true
    else if k.seq == l.seq then
      match k.stage with
      | .retired | .migrating => false
      | .device => decide (first l < first k) || (first l == first k && decide (i < x.2))
      | .combining | .window | .held => true
    else if x.2 < i then
      match k.stage with
      | .retired | .migrating => false
      | .device | .window => !sameWindow (k.pa * 128) (l.pa * 128)
      | .combining | .held => true
    else true)

/-- The first piece of device-class line `i` is performed under the leaf: the hub completes it at once, the host when it answers. -/
def devicePiece (s : State) (i : Nat) (l : StoreLine) (e : LineElem) (pte : Nat) : LineRes :=
  let a := l.plineOf pte * 128 + e.off / 2
  let n := max 1 (e.size / 2)
  let s1 := s.setLine i (fun k => { k with pa := l.plineOf pte })
  if isHost a then .moved { s1 with windowOps := s1.windowOps ++ [{ windowOp s1 l a n e.data e.mask true with idx := e.idx }] }
  else
    match hubWrite s1 (a % 2 ^ 50) n e.data e.mask with
    | some s2 => if l.elems.length ≤ 1 then .done (s2.dropLine i) else .moved (s2.setLine i StoreLine.popElem)
    | none => .hole (a % 2 ^ 50)

/-- The next piece of device-class line `i`, if it is its turn. It is translated when it is performed, so none is made under an entry
that has gone (R251). -/
def deviceStep (s : State) (i : Nat) (l : StoreLine) : LineRes :=
  match l.elems with
  | [] => .done (s.dropLine i)
  | e :: _ =>
    if !deviceTurn s i l then .stays s
    else atHome s i l (fun pte s1 => if natBits pte 4 2 = 2 then devicePiece s1 i l e pte else performMapped s1 i l pte)

/-- Attempt to perform line `i`: on a cached copy, once the host holds no copy of the line (R408), or at its home (R243, R247). -/
def attemptLine (s : State) (i : Nat) (l : StoreLine) : LineRes :=
  match (if olderUncached s i l then none else l.copy? s) with
  | some c =>
    match snoopLine s c.pline true with
    | some s1 => .stays s1
    | none => .done ((performOn s l c).dropLine i)
  | none => atHome s i l (fun pte s1 => performMapped s1 i l pte)

/-- A line is still to be translated. -/
def StoreStage.waits (g : StoreStage) : Bool := g == .retired || g == .migrating

/-- An older line of the current hart that line `i` may not pass is still to be translated (R314). No line waits for a vector entry: a
scalar store retires behind none that may load (R316, log 10), and a vector one at the head. -/
def olderWaits (s : State) (i : Nat) (l : StoreLine) : Bool := (olderLines s i).any (fun k => k.meets l && k.stage.waits)

/-- The older held line of the current hart that line `i` is held behind (R326). -/
def heldBefore (s : State) (i : Nat) (l : StoreLine) : Option StoreLine :=
  (olderLines s i).find? (fun k => k.meets l && k.stage == .held)

/-- The next thing that happens to line `i` of the current hart. -/
def advanceLine (s : State) (i : Nat) (l : StoreLine) : LineRes :=
  if l.stage == .held || l.stage == .window || pieceInFlight s l || (l.stage.waits && olderWaits s i l) then
    .stays s
  else
    match heldBefore s i l with
    | some k =>
      .moved (s.setLine i (fun x => { x with stage := .held, code := k.code, delivered := true, behind := true }))
    | none =>
      match l.stage with
      | .combining => drainLine s i l
      | .device => deviceStep s i l
      | .retired | .migrating => attemptLine s i l
      | .held | .window => .stays s

/-- Line `i` of a hart moves on; a refused one is held with its record, which a `replay` under way writes (R368). -/
def lineStep (r : HartRef) (i : Nat) (s : State) : Out :=
  match (if diesStill s || contextSaved s r then none else s.activate r) with
  | none => .next s
  | some s1 =>
    match s1.hart.stores[i]? with
    | none => .next s
    | some l =>
      match advanceLine s1 i l with
      | .done s2 | .moved s2 | .stays s2 => .next s2
      | .refused c s2 =>
        if l.again then .next (s2.setLine i (fun k => { k with stage := .held, code := c })) else .next (failLine s2 i l c)
      | .hole off => .fault (.hubUnassigned off)

/-- STORE_LINE_TRANSLATE (R247, R360). -/
def execStoreLineTranslate (r : HartRef) (i : Nat) (s : State) : Out := lineStep r i s

/-- Line `i` of a hart is stalled on MIG. -/
def stalledLine (s : State) (r : HartRef) (i : Nat) : Bool :=
  (((s.hart? r).bind (fun h => h.stores[i]?)).map (fun l => l.stage == .migrating)).getD false

/-- MIG_STALL_RESUME (R248): a stalled line is translated again; an instruction that stalls tries again by itself. -/
def execMigStallResume (r : HartRef) (i : Nat) (s : State) : Out :=
  if stalledLine s r i then lineStep r i s else .next s

end Sys2Proof.Machine
end

