-- ==== Sys2Proof/Machine/VecMem.lean ====
section
/-! DEFINITION. Vector loads, stores and atomics, register and tile images, loads that follow copy arrival (R254 to R257,
R265 to R281, R432; logs 5, 7, 11, 27, 34, 35). -/

namespace Sys2Proof.Machine

/-! ## Elements -/

/-- One element of a vector access: its index, its address, its nibble where it is E2M1 (R162). -/
structure ElemRef where
  idx : Nat
  addr : Word
  nib : Nat

/-- Bytes of an element of width w (R254). -/
def elemBytes (w : Nat) : Nat := max 1 (w / 8)

/-- Unit-stride elements that a test selects (R265). -/
def unitElems (h : Hart) (base : Word) (w : Nat) (sel : Nat → Bool) : List ElemRef :=
  ((List.range (h.elems w)).filter sel).map (fun j =>
    { idx := j, addr := base + BitVec.ofNat 64 (if w = 4 then j / 2 else j * (w / 8)), nib := if w = 4 then j % 2 else 0 })

/-- Strided elements that a test selects (R265). -/
def strideElems (h : Hart) (base stride : Word) (w : Nat) (sel : Nat → Bool) : List ElemRef :=
  ((List.range (h.elems w)).filter sel).map (fun j => { idx := j, addr := base + BitVec.ofNat 64 j * stride, nib := 0 })

/-- Offset j of an index register: signed for an I tag, unsigned for an N tag (R266). -/
def indexOff (h : Hart) (x : VReg) (j : Nat) : Word :=
  BitVec.ofInt 64 (intVal (h.tag x) ((h.reg x).elem (width (h.tag x)) j))

/-- Indexed elements that a test selects: those that the index register covers (R266). -/
def indexElems (h : Hart) (base : Word) (x : VReg) (w : Nat) (sel : Nat → Bool) : List ElemRef :=
  ((List.range (h.elems w)).filter (fun j => sel j && decide (j < h.cnt (width (h.tag x))))).map (fun j =>
    { idx := j, addr := base + indexOff h x j, nib := 0 })

/-- The element's bits of the bytes read. -/
def ElemRef.pick (r : ElemRef) (w x : Nat) : Nat := if w = 4 then natBits x (4 * r.nib) 4 else x % 2 ^ w

/-! ## Loads (R267 to R270) -/

/-- A failing element: its index, its code, its address. -/
structure ElemFail where
  idx : Nat
  code : Nat
  addr : Word

/-- What the first pass over the elements answers: every one translated, or a wait. -/
inductive Scan where
  | over (s : State) (fails : List ElemFail)
  | wait (s : State)

/-- Translate every element in ascending order, `size` bytes by its index, and collect the failures (R269). `ff`: `vldff`, for which a DEVC page above
the lowest active element counts as a failure (R270). -/
def scanElems (seq : Word) (size : Nat → Nat) (ff : Bool) : List ElemRef → Bool → List ElemFail → State → Scan
  | [], _, fails, s => .over s fails
  | r :: rest, first, fails, s =>
    if (devBegun s r.addr seq r.idx (size r.idx)).isSome then scanElems seq size ff rest false fails s
    else
      match loadUnit s r.addr (size r.idx) true with
      | .val _ s1 => scanElems seq size ff rest false fails s1
      | .fault c s1 => scanElems seq size ff rest false (fails ++ [{ idx := r.idx, code := c, addr := r.addr }]) s1
      | .wait _ s1 => .wait s1
      | .device _ wc s1 =>
        let bad := ff && !first && !wc
        scanElems seq size ff rest false (if bad then fails ++ [{ idx := r.idx, code := 0x0C, addr := r.addr }] else fails) s1

/-- What the second pass answers: the register's bits, a wait, or a hub offset without a register. -/
inductive Gather where
  | bits (x : Nat) (s : State)
  | wait (s : State)
  | hole (off : Nat)

/-- Read one translated element: an uncached read that has begun goes on, and the hart's held stores are laid over its answer
(R153, R326). -/
def readElem (seq : Word) (size : Nat → Nat) (r : ElemRef) (s : State) : Gather :=
  let dev := fun (pa : Nat) (wc : Bool) (t : State) =>
    match devRead t pa (size r.idx) wc seq r.idx with
    | .val x t1 => Gather.bits (t1.overHeld r.addr (size r.idx) x) t1
    | .wait t1 => .wait t1
    | .hole off => .hole off
  match devBegun s r.addr seq r.idx (size r.idx) with
  | some (pa, wc) => dev pa wc s
  | none =>
    match loadUnit s r.addr (size r.idx) true with
    | .val x s1 => .bits x s1
    | .fault _ _ => .wait s
    | .wait _ s1 => .wait s1
    | .device pa wc s1 => dev pa wc s1

/-- Read the elements in ascending order into places `w` bits apart. -/
def readElems (seq : Word) (size : Nat → Nat) (w : Nat) : List ElemRef → Nat → State → Gather
  | [], acc, s => .bits acc s
  | r :: rest, acc, s =>
    match readElem seq size r s with
    | .bits x s1 => readElems seq size w rest (acc + r.pick w x * 2 ^ (r.idx * w)) s1
    | .wait s1 => .wait s1
    | .hole off => .hole off

/-- The failure is one of a check of Table 10.7: not of the alignment, not of the segment (R283), and no DEVC page that `vldff` alone
counts (R270). -/
def ElemFail.mapped (f : ElemFail) : Bool := f.code != 0x06 && f.code != 0x0C && !inNear f.addr.toNat

/-- The record of a precise vector-load fault (R269, R361). -/
def loadRecord (s : State) (e : VqEntry) (k : ElemFail) (fails : List ElemFail) : FaultRec :=
  let pg := k.addr.toNat / 65536
  let pages := (((fails.filter ElemFail.mapped).map (fun f => f.addr.toNat / 65536)).dedup).mergeSort (fun a b => decide (a ≤ b))
  let near := pages.filter (fun q => decide (q ≤ pg + 32767 ∧ pg ≤ q + 32767))
  let listed := near.take 6
  { time := s.hart.ln.headFound.getD s.clock.now, seq := e.seq, code := BitVec.ofNat 8 k.code, double := false, replay := false
    morePg := decide (listed.length < pages.length), moreEl := fails.any (fun f => decide (k.idx + 64 ≤ f.idx)), orig := 3
    source := s.hartid s.hart.id, x := 0, iaddr := e.addr, va := k.addr.setWidth 56, y := BitVec.ofNat 16 k.idx, z := 0
    pages := listed.map (fun q => BitVec.ofInt 16 ((q : Int) - (pg : Int)))
    mask := BitVec.ofNat 64 ((fails.filter (fun f => f.idx < k.idx + 64)).foldl (fun m f => m ||| 2 ^ (f.idx - k.idx)) 0) }

/-- VSTART is 0 after a trap of a load or of a copy (Table 11.1, R292); handler mode keeps the interrupted program's (R352). -/
def State.clearStart (s : State) : State :=
  s.withHart (if s.hart.tr.hm then s.hart else { s.hart with ln := { s.hart.ln with vstart := 0 } })

/-- The fault of the load at the head has been found, and its record waits (R361, R362). -/
def State.lateHead (s : State) (t : Word) : State :=
  s.withHart { s.hart with ln := { s.hart.ln with headFound := some t } }

/-- The trap of R269: one record, then the deciding element's cause. -/
def loadTrap (s : State) (e : VqEntry) (k : ElemFail) (fails : List ElemFail) : HeadRes :=
  let r := loadRecord s e k fails
  match writeRecord s r with
  | (s1, none) => .wait (s1.lateHead r.time)
  | (s1, some _) => .trap (clearDev s1 e.seq).clearStart (BitVec.ofNat 8 k.code) k.addr k.idx

/-- VL after a trim to k elements (R270, R281). -/
def Hart.trimTo (h : Hart) (k : Nat) : Hart := { h with ln := { h.ln with trim := BitVec.ofNat 15 k, tv := true } }

/-- The elements of a load read, and its result written by `k`. -/
def gathered (s : State) (e : VqEntry) (size : Nat → Nat) (w : Nat) (rs : List ElemRef) (k : Nat → Hart → Hart) : HeadRes :=
  match readElems e.seq size w rs 0 s with
  | .bits x s1 =>
    let s2 := clearDev s1 e.seq
    .commit (s2.withHart (k x s2.hart))
  | .wait s1 => .wait s1
  | .hole off => .stop off

/-- Load elements under R267 to R269 and hand their bits to `k`. -/
def loadElems (s : State) (e : VqEntry) (size : Nat → Nat) (w : Nat) (rs : List ElemRef) (k : Nat → Hart → Hart) : HeadRes :=
  match scanElems e.seq size false rs true [] s with
  | .wait s1 => .wait s1
  | .over s1 [] => gathered s1 e size w rs k
  | .over s1 (f :: rest) => loadTrap s1 e f (f :: rest)

/-- A vector register written whole by a load (R267). -/
def Hart.loaded (h : Hart) (d : VReg) (f : Fmt) (bits : Nat) : Hart := h.setReg d { bits := BitVec.ofNat 65536 bits, tag := f }

/-- A vector load of a format with the elements given (R267). -/
def loadVec (s : State) (e : VqEntry) (d : VReg) (f : Fmt) (rs : List ElemRef) : HeadRes :=
  loadElems s e (fun _ => elemBytes (width f)) (width f) rs (fun x h => h.loaded d f x)

/-- `vld` at issue (R265). -/
def execVld (d : VReg) (b x : GReg) (p : PReg) (f : Fmt) (s : State) : Out := issue (.vld d b x p f) (s.g b) (s.g x) s

/-- `vld` at the head (R265, R267). -/
def headVld (d : VReg) (_ _ : GReg) (p : PReg) (f : Fmt) (e : VqEntry) (s : State) : HeadRes :=
  granting s e (loadVec s e d f (unitElems s.hart (e.opa + e.opb) (width f) (s.hart.active p (width f))))

/-- `vlds` at issue (R265). -/
def execVlds (d : VReg) (b x : GReg) (p : PReg) (f : Fmt) (s : State) : Out := issue (.vlds d b x p f) (s.g b) (s.g x) s

/-- `vlds` at the head (R265, R267). -/
def headVlds (d : VReg) (_ _ : GReg) (p : PReg) (f : Fmt) (e : VqEntry) (s : State) : HeadRes :=
  granting s e <|
    if f == .e2m1 then formatTrap s e f .none .none
    else loadVec s e d f (strideElems s.hart e.opa e.opb (width f) (s.hart.active p (width f)))

/-- `vldx` at issue (R265). -/
def execVldx (d : VReg) (b : GReg) (x : VReg) (p : PReg) (f : Fmt) (s : State) : Out := issue (.vldx d b x p f) (s.g b) 0 s

/-- `vldx` at the head (R265 to R267). -/
def headVldx (d : VReg) (_ : GReg) (x : VReg) (p : PReg) (f : Fmt) (e : VqEntry) (s : State) : HeadRes :=
  granting s e <|
    if f == .e2m1 || !isInt (s.hart.tag x) then formatTrap s e f .none (s.hart.tag x)
    else loadVec s e d f (indexElems s.hart e.opa x (width f) (s.hart.active p (width f)))

/-- `vldff` at issue (R265). -/
def execVldff (d : VReg) (b x : GReg) (p : PReg) (f : Fmt) (s : State) : Out := issue (.vldff d b x p f) (s.g b) (s.g x) s

/-- `vldff` at the head (R270): a failure above the lowest active element trims VL instead of trapping. -/
def headVldff (d : VReg) (_ _ : GReg) (p : PReg) (f : Fmt) (e : VqEntry) (s : State) : HeadRes :=
  granting s e <|
    let w := width f
    let rs := unitElems s.hart (e.opa + e.opb) w (s.hart.active p w)
    let size := fun (_ : Nat) => elemBytes w
    match scanElems e.seq size true rs true [] s with
    | .wait s1 => .wait s1
    | .over s1 [] => gathered s1 e size w rs (fun x h => h.loaded d f x)
    | .over s1 (k :: rest) =>
      if (rs.head?.map (fun r => r.idx == k.idx)).getD true then loadTrap s1 e k (k :: rest)
      else gathered s1 e size w (rs.filter (fun r => r.idx < k.idx)) (fun x h => (h.loaded d f x).trimTo k.idx)

/-! ## Stores (R271 to R273) -/

/-- The first element or line that the head entry has still to do (R150, R352). -/
def Hart.startAt (h : Hart) : Nat := if h.tr.hm then h.ln.hmStart else h.ln.vstart.toNat

/-- Record how far the head entry has come (Table 11.1). -/
def Hart.progress (h : Hart) (k : Nat) : Hart :=
  { h with ln := if h.tr.hm then { h.ln with hmStart := k } else { h.ln with vstart := BitVec.ofNat 16 k } }

/-- One unit that a store entry retires: its element or line, its address, its data, the bits it writes. -/
structure StoreRef where
  idx : Nat
  addr : Word
  data : Nat
  mask : Nat

/-- Retire units in ascending order (R272, R273): a failure leaves VSTART at its unit, a full buffer waits there. -/
def retireUnits (e : VqEntry) (size : Nat) (nt : Bool) : List StoreRef → State → HeadRes
  | [], s => .commit s
  | r :: rest, s =>
    match storeUnit s r.addr size r.data r.mask r.idx true nt e.seq e.addr with
    | .ok s1 => retireUnits e size nt rest s1
    | .fault c => .trap (s.withHart (s.hart.progress r.idx)) (BitVec.ofNat 8 c) r.addr r.idx
    | .full => .wait (noteDevc (s.withHart (s.hart.progress r.idx)) e)
    | .wait s1 => .wait (noteDevc (s1.withHart (s1.hart.progress r.idx)) e)

/-- What a store entry retires for each element: E2M1 with a nibble mask (R272). -/
def storeRef (h : Hart) (v : VReg) (w : Nat) (r : ElemRef) : StoreRef :=
  let sh := 2 ^ (4 * r.nib)
  { idx := r.idx, addr := r.addr, data := (h.reg v).elem w r.idx * sh, mask := (2 ^ w - 1) * sh }

/-- A vector store with the elements given. -/
def storeVec (s : State) (e : VqEntry) (v : VReg) (nt : Bool) (rs : List ElemRef) : HeadRes :=
  let w := width (s.hart.tag v)
  let todo := rs.filter (fun r => s.hart.startAt ≤ r.idx)
  retireUnits e (elemBytes w) nt (todo.map (storeRef s.hart v w)) s

/-- `vst` at issue (R271). -/
def execVst (v : VReg) (b x : GReg) (p : PReg) (n : Bool) (s : State) : Out := issue (.vst v b x p n) (s.g b) (s.g x) s

/-- `vst` at the head (R271, R272). -/
def headVst (v : VReg) (_ _ : GReg) (p : PReg) (n : Bool) (e : VqEntry) (s : State) : HeadRes :=
  let t := s.hart.tag v
  granting s e <|
    if t == .none then formatTrap s e t .none .none
    else storeVec s e v n (unitElems s.hart (e.opa + e.opb) (width t) (s.hart.active p (width t)))

/-- `vsts` at issue (R271). -/
def execVsts (v : VReg) (b x : GReg) (p : PReg) (n : Bool) (s : State) : Out := issue (.vsts v b x p n) (s.g b) (s.g x) s

/-- `vsts` at the head (R271, R272). -/
def headVsts (v : VReg) (_ _ : GReg) (p : PReg) (n : Bool) (e : VqEntry) (s : State) : HeadRes :=
  let t := s.hart.tag v
  granting s e <|
    if t == .none || t == .e2m1 then formatTrap s e t .none .none
    else storeVec s e v n (strideElems s.hart e.opa e.opb (width t) (s.hart.active p (width t)))

/-- `vstx` at issue (R271). -/
def execVstx (v : VReg) (b : GReg) (x : VReg) (p : PReg) (n : Bool) (s : State) : Out := issue (.vstx v b x p n) (s.g b) 0 s

/-- `vstx` at the head (R266, R271, R272). -/
def headVstx (v : VReg) (_ : GReg) (x : VReg) (p : PReg) (n : Bool) (e : VqEntry) (s : State) : HeadRes :=
  let t := s.hart.tag v
  granting s e <|
    if t == .none || t == .e2m1 || !isInt (s.hart.tag x) then formatTrap s e t .none (s.hart.tag x)
    else storeVec s e v n (indexElems s.hart e.opa x (width t) (s.hart.active p (width t)))

/-! ## Atomics (R274, R275) -/

/-- The new value of an atomic element and its flags, from its format, the old value and the operand (Table 11.7). -/
abbrev VamoFn := Fmt → Nat → Nat → Nat × BitVec 5

/-- Perform the elements in ascending order: each old value stands in vd, its flags in FFLAGS; a failure traps at its
element, a wait resumes there (R275). -/
def atomicElems (e : VqEntry) (d : VReg) (f : Fmt) (fn : VamoFn) : List ElemRef → State → HeadRes
  | [], s => .commit s
  | r :: rest, s =>
    let w := width f
    let b := (s.hart.reg d).elem w r.idx
    match atomicUnit s r.addr (w / 8) (fun old => some (fn f old b).1) with
    | .done old s1 =>
      let h := s1.hart
      let h1 := (h.setReg d ((h.reg d).setElem w r.idx old)).raise (fn f old b).2
      atomicElems e d f fn rest (s1.withHart h1)
    | .fault c s1 => .trap (s1.withHart (s1.hart.progress r.idx)) (BitVec.ofNat 8 c) r.addr r.idx
    | .wait _ s1 => .wait (s1.withHart (s1.hart.progress r.idx))

/-- A vector atomic at the head; `tags` are the tags that it accepts (Table 11.7). -/
def vamo (tags : List Fmt) (fn : VamoFn) (d : VReg) (x : VReg) (p : PReg) (e : VqEntry) (s : State) : HeadRes :=
  let h := s.hart
  let f := h.tag d
  granting s e <|
    if !tags.contains f || !isInt (h.tag x) then formatTrap s e f .none (h.tag x)
    else
      let rs := indexElems h e.opa x (width f) (fun j => h.active p (width f) j && decide (h.startAt ≤ j))
      atomicElems e d f fn rs s

/-- The tags of the integer operations. -/
def vamoInts : List Fmt := [.i32, .n32, .i64, .n64]

/-- An operation on patterns that raises no flag. -/
def vamoPlain (g : Fmt → Nat → Nat → Nat) : VamoFn := fun f old b => (g f old b, 0)

/-- The smaller or larger of two patterns by s() for I and u() for N. -/
def vamoPick (wantMax : Bool) (f : Fmt) (a b : Nat) : Nat :=
  if (intVal f a ≤ intVal f b) == wantMax then b else a

/-- `vamo.add` at issue (R274). -/
def execVamoAdd (d : VReg) (b : GReg) (i : VReg) (p : PReg) (sc : Scope) (s : State) : Out :=
  issue (.vamoAdd d b i p sc) (s.g b) 0 s

/-- `vamo.add` at the head (Table 11.7). -/
def headVamoAdd (d : VReg) (_ : GReg) (i : VReg) (p : PReg) (_ : Scope) (e : VqEntry) (s : State) : HeadRes :=
  vamo vamoInts (vamoPlain (fun f a b => (a + b) % 2 ^ width f)) d i p e s

/-- `vamo.min` at issue (R274). -/
def execVamoMin (d : VReg) (b : GReg) (i : VReg) (p : PReg) (sc : Scope) (s : State) : Out :=
  issue (.vamoMin d b i p sc) (s.g b) 0 s

/-- `vamo.min` at the head (Table 11.7). -/
def headVamoMin (d : VReg) (_ : GReg) (i : VReg) (p : PReg) (_ : Scope) (e : VqEntry) (s : State) : HeadRes :=
  vamo vamoInts (vamoPlain (vamoPick false)) d i p e s

/-- `vamo.max` at issue (R274). -/
def execVamoMax (d : VReg) (b : GReg) (i : VReg) (p : PReg) (sc : Scope) (s : State) : Out :=
  issue (.vamoMax d b i p sc) (s.g b) 0 s

/-- `vamo.max` at the head (Table 11.7). -/
def headVamoMax (d : VReg) (_ : GReg) (i : VReg) (p : PReg) (_ : Scope) (e : VqEntry) (s : State) : HeadRes :=
  vamo vamoInts (vamoPlain (vamoPick true)) d i p e s

/-- `vamo.and` at issue (R274). -/
def execVamoAnd (d : VReg) (b : GReg) (i : VReg) (p : PReg) (sc : Scope) (s : State) : Out :=
  issue (.vamoAnd d b i p sc) (s.g b) 0 s

/-- `vamo.and` at the head (Table 11.7). -/
def headVamoAnd (d : VReg) (_ : GReg) (i : VReg) (p : PReg) (_ : Scope) (e : VqEntry) (s : State) : HeadRes :=
  vamo vamoInts (vamoPlain (fun _ a b => a &&& b)) d i p e s

/-- `vamo.or` at issue (R274). -/
def execVamoOr (d : VReg) (b : GReg) (i : VReg) (p : PReg) (sc : Scope) (s : State) : Out :=
  issue (.vamoOr d b i p sc) (s.g b) 0 s

/-- `vamo.or` at the head (Table 11.7). -/
def headVamoOr (d : VReg) (_ : GReg) (i : VReg) (p : PReg) (_ : Scope) (e : VqEntry) (s : State) : HeadRes :=
  vamo vamoInts (vamoPlain (fun _ a b => a ||| b)) d i p e s

/-- `vamo.xor` at issue (R274). -/
def execVamoXor (d : VReg) (b : GReg) (i : VReg) (p : PReg) (sc : Scope) (s : State) : Out :=
  issue (.vamoXor d b i p sc) (s.g b) 0 s

/-- `vamo.xor` at the head (Table 11.7). -/
def headVamoXor (d : VReg) (_ : GReg) (i : VReg) (p : PReg) (_ : Scope) (e : VqEntry) (s : State) : HeadRes :=
  vamo vamoInts (vamoPlain (fun _ a b => a ^^^ b)) d i p e s

/-- `vamo.swap` at issue (R274). -/
def execVamoSwap (d : VReg) (b : GReg) (i : VReg) (p : PReg) (sc : Scope) (s : State) : Out :=
  issue (.vamoSwap d b i p sc) (s.g b) 0 s

/-- `vamo.swap` at the head (Table 11.7). -/
def headVamoSwap (d : VReg) (_ : GReg) (i : VReg) (p : PReg) (_ : Scope) (e : VqEntry) (s : State) : HeadRes :=
  vamo (vamoInts ++ [.fp32, .fp64]) (vamoPlain (fun _ _ b => b)) d i p e s

/-- `vamo.fmin` at issue (R274). -/
def execVamoFmin (d : VReg) (b : GReg) (i : VReg) (p : PReg) (sc : Scope) (s : State) : Out :=
  issue (.vamoFmin d b i p sc) (s.g b) 0 s

/-- `vamo.fmin` at the head (Table 11.7). -/
def headVamoFmin (d : VReg) (_ : GReg) (i : VReg) (p : PReg) (_ : Scope) (e : VqEntry) (s : State) : HeadRes :=
  vamo [.fp32, .fp64] (fun f a b => fpMinMax f false a b) d i p e s

/-- `vamo.fadd` at issue (R274). -/
def execVamoFadd (d : VReg) (b : GReg) (i : VReg) (p : PReg) (sc : Scope) (s : State) : Out :=
  issue (.vamoFadd d b i p sc) (s.g b) 0 s

/-- `vamo.fadd` at the head (Table 11.7). -/
def headVamoFadd (d : VReg) (_ : GReg) (i : VReg) (p : PReg) (_ : Scope) (e : VqEntry) (s : State) : HeadRes :=
  vamo [.fp32, .fp64] (fun f a b => fpAddV f { mode := .rne } (unpack f a) (unpack f b)) d i p e s

/-! ## Images (R276 to R280) -/

/-- The 128-byte header of an image (Table 11.9). -/
def imageHeader (kind fmt logVl side dsize : Nat) : Nat :=
  0x0720 + kind * 2 ^ 16 + fmt * 2 ^ 24 + logVl * 2 ^ 32 + side * 2 ^ 40 + dsize * 2 ^ 64

/-- A number whose bit i is bit `f i` of another, for n bits. -/
def permuteBits (n : Nat) (f : Fin n → Fin n) (x : Nat) : Nat :=
  (List.finRange n).foldl (fun acc i => acc + (if natBit x (f i).val then 2 ^ i.val else 0)) 0

/-- The side s of a gang; none where VL is not a gang size (R210). -/
def gangSide (vl : Nat) : Option Nat :=
  if vl = 4096 then some 8 else if vl = 16384 then some 16 else if vl = 65536 then some 32 else none

/-- The side n of a tile of a source format (R211). -/
def tileSide (s : Nat) (f : Fmt) : Nat := if f == .none then 0 else 64 / width f * s

/-- log2 of VL.LEN. -/
def Hart.logVl (h : Hart) : Nat := Nat.log2 h.ln.len

/-- The lines of an image, from the first not retired: header and data as one number (R280). -/
def imageRefs (h : Hart) (a : Word) (n img : Nat) : List StoreRef :=
  ((List.range n).filter (fun i => h.startAt ≤ i)).map (fun i =>
    { idx := i, addr := a + BitVec.ofNat 64 (128 * i), data := natBits img (1024 * i) 1024, mask := 2 ^ 1024 - 1 })

/-- The last line of an image writes the bytes it has and no more. -/
def trimLast (n bytes : Nat) (r : StoreRef) : StoreRef :=
  if r.idx + 1 = n && bytes % 128 ≠ 0 then { r with mask := 2 ^ (bytes % 128 * 8) - 1 } else r

/-- Store the lines below `upto` of an image: its bytes and its contents (R276, R280). A misaligned image traps wherever VSTART stands,
with the image's address as TRAPVAL and VSTART as TRAPELEM (DESIGN CHOICE, log 35). -/
def storeLines (s : State) (e : VqEntry) (x : Nat × Nat) (upto : Nat) : HeadRes :=
  let a := e.opa + e.opb
  if a.toNat % 128 ≠ 0 then .trap (s.withHart (s.hart.progress s.hart.startAt)) 0x06 a s.hart.startAt
  else
    let n := ceilDiv x.1 128
    retireUnits e 128 false (((imageRefs s.hart a n x.2).map (trimLast n x.1)).filter (fun r => r.idx < upto)) s

/-- Store a whole image. -/
def storeImage (s : State) (e : VqEntry) (x : Nat × Nat) : HeadRes := storeLines s e x (ceilDiv x.1 128)

/-- The lines `lo` to `hi - 1` of an image as elements. -/
def imageElems (a : Word) (lo hi : Nat) : List ElemRef :=
  ((List.range hi).filter (fun i => lo ≤ i)).map (fun i => { idx := i, addr := a + BitVec.ofNat 64 (128 * i), nib := 0 })

/-- The bytes of line `i` of an image of `total` bytes: all 128, or what the last line has (R277). -/
def imageBytesAt (total i : Nat) : Nat := min 128 (total - 128 * i)

/-- Load an image: the header line first, then, where `ok` passes it, the data, the bytes it has and no more (R277, R278). `k` takes
the header and data as one number. -/
def loadImage (s : State) (e : VqEntry) (ok : Nat → Bool) (bytes : Nat → Nat) (k : Nat → Hart → Hart) : HeadRes :=
  let a := e.opa + e.opb
  let line := fun (_ : Nat) => 128
  match scanElems e.seq line false (imageElems a 0 1) true [] s with
  | .wait s1 => .wait s1
  | .over s1 (f :: rest) => loadTrap s1 e f (f :: rest)
  | .over s1 [] =>
    match readElems e.seq line 1024 (imageElems a 0 1) 0 s1 with
    | .wait s2 => .wait s2
    | .hole off => .stop off
    | .bits hd s2 =>
      if !ok hd then .trap (clearDev s2 e.seq).clearStart 0x03 a 0
      else
        let rs := imageElems a 1 (1 + ceilDiv (bytes hd) 128)
        let size := imageBytesAt (128 + bytes hd)
        match scanElems e.seq size false rs true [] s2 with
        | .wait s3 => .wait s3
        | .over s3 (f :: rest) => loadTrap s3 e f (f :: rest)
        | .over s3 [] => gathered s3 e size 1024 rs (fun x h => k (hd + x) h)

/-- The reserved bytes of a header are zero (Table 11.9). -/
def headerZeros (hd : Nat) : Bool := natBits hd 48 16 == 0 && natBits hd 96 928 == 0

/-- The image of a vector register or of a predicate: its bytes and its contents (R277, R278). -/
def Hart.imageR (h : Hart) (v : VReg) (k : Bool) : Nat × Nat :=
  if k then
    let data := packElems 1 ((List.range (h.elems 4)).map (fun i => bit (h.pbit (v.setWidth 3) i)))
    (128 + h.ln.len / 32, imageHeader 2 0 h.logVl 0 (h.ln.len / 32) + data * 2 ^ 1024)
  else
    let r := h.reg v
    let data := permuteBits h.ln.len (fun i => (Config.imageLayout h.ln.len).symm i) r.bits.toNat
    (128 + h.ln.len / 8, imageHeader 1 r.tag.code.toNat h.logVl 0 (h.ln.len / 8) + data * 2 ^ 1024)

/-- The image of a tile of a gang of side `side` (R277, R279). -/
def Hart.imageT (h : Hart) (t : TReg) (side : Nat) : Nat × Nat :=
  let r := h.tile t
  let n := tileSide side r.fmt
  let data := packElems 32 ((List.range (n * n)).map (fun i => (r.acc.getD i 0).toNat))
  (128 + 4 * n * n, imageHeader 3 r.fmt.code.toNat h.logVl side (4 * n * n) + data * 2 ^ 1024)

/-- `vst.r` at issue (R276). -/
def execVstR (v : VReg) (b x : GReg) (k : Bool) (s : State) : Out := issue (.vstR v b x k) (s.g b) (s.g x) s

/-- `vst.r` at the head (R277, R278, R280). -/
def headVstR (v : VReg) (_ _ : GReg) (k : Bool) (e : VqEntry) (s : State) : HeadRes :=
  granting s e (storeImage s e (s.hart.imageR v k))

/-- `vld.r` at issue (R276). -/
def execVldR (v : VReg) (b x : GReg) (k : Bool) (s : State) : Out := issue (.vldR v b x k) (s.g b) (s.g x) s

/-- `vld.r` at the head (R278). A vector image whose FMT byte is no tag's code raises Format too (DESIGN CHOICE, log 35: R278 names no
check of it). -/
def headVldR (v : VReg) (_ _ : GReg) (k : Bool) (e : VqEntry) (s : State) : HeadRes :=
  let h := s.hart
  let size := if k then h.ln.len / 32 else h.ln.len / 8
  let ok := fun (hd : Nat) => natBits hd 16 8 == (if k then 2 else 1) && natBits hd 32 8 == h.logVl
    && (if k then natBits hd 24 8 == 0 else natBits hd 0 16 == 0x0720 && decide (natBits hd 24 8 < 16))
    && natBits hd 40 8 == 0 && natBits hd 64 32 == size && headerZeros hd
  granting s e <| loadImage s e ok (fun _ => size) (fun x g =>
    let data := natBits x 1024 (size * 8)
    if k then g.setPred (v.setWidth 3) (BitVec.ofNat 16384 data)
    else g.setReg v { bits := BitVec.ofNat 65536 (permuteBits h.ln.len (fun i => Config.imageLayout h.ln.len i) data)
                      tag := Fmt.ofCode (BitVec.ofNat 4 (natBits x 24 8)) })

/-- A tile image needs a gang: Matrix shape after No-grant (R214, R279). VSTART stays as it was, for `vld.t` too (DESIGN CHOICE, log 55). -/
def needGang (s : State) (e : VqEntry) (k : Nat → HeadRes) : HeadRes :=
  granting s e <|
    match gangSide s.hart.ln.len with
    | some n => k n
    | none => .trap s 0x05 (BitVec.ofNat 64 (e.word.toNat + s.hart.ln.len * 2 ^ 32)) 0

/-- `vst.t` at issue (R276). -/
def execVstT (t : TReg) (b x : GReg) (s : State) : Out := issue (.vstT t b x) (s.g b) (s.g x) s

/-- `vst.t` at the head (R277, R279). -/
def headVstT (t : TReg) (_ _ : GReg) (e : VqEntry) (s : State) : HeadRes :=
  needGang s e (fun side => storeImage s e (s.hart.imageT t side))

/-- `vld.t` at issue (R276). -/
def execVldT (t : TReg) (b x : GReg) (s : State) : Out := issue (.vldT t b x) (s.g b) (s.g x) s

/-- A header byte names a format of Table 9.1, or none (R279). -/
def tileFmtOk (c : Nat) : Bool := c == 0 || (decide (c < 16) && matrixFmt (Fmt.ofCode (BitVec.ofNat 4 c)))

/-- `vld.t` at the head (R279). -/
def headVldT (t : TReg) (_ _ : GReg) (e : VqEntry) (s : State) : HeadRes :=
  needGang s e (fun side =>
    let fmtOf := fun (hd : Nat) => Fmt.ofCode (BitVec.ofNat 4 (natBits hd 24 8))
    let size := fun (hd : Nat) => 4 * tileSide side (fmtOf hd) * tileSide side (fmtOf hd)
    let ok := fun (hd : Nat) => natBits hd 16 8 == 3 && natBits hd 32 8 == s.hart.logVl && natBits hd 40 8 == side
      && tileFmtOk (natBits hd 24 8) && natBits hd 64 32 == size hd && headerZeros hd
    loadImage s e ok size (fun x h =>
      let n := tileSide side (fmtOf x)
      h.setTile t { fmt := fmtOf x, acc := (List.range (n * n)).map (fun i => BitVec.ofNat 32 (natBits x (1024 + 32 * i) 32)) }))

/-! ## Loads that follow copy arrival (R281, R302) -/

/-- The bytes that a row of an operation writes: its near row, or its memory row for `cpl`. -/
def rowDest (o : CopyOp) (r : CopyRow) : Word :=
  match o.kind with
  | .toMemory => r.mem
  | .gather | .toNear => BitVec.ofNat 64 (nearVa + r.near)

/-- Every byte of a range has arrived: it lies in no row of the stream that is not complete (R281, log 27). -/
def arrived (st : Stream) (a : Word) (size : Nat) : Bool :=
  st.queue.all (fun o => o.rows.all (fun r =>
    let d := rowDest o r
    r.complete || !(decide ((a - d).toNat < o.len) || decide ((d - a).toNat < size))))

/-- The stream that a `vld.av` or `vld.am` captured at push (R302). -/
def capturedStream (s : State) (e : VqEntry) : Stream := vget s.hart.streams (e.dim0.toNat % 16) Stream.empty

/-- The address of a `vld.av` or `vld.am`, which must be a multiple of 128 as that of every VMX instruction: Misaligned with the address
as TRAPVAL and element 0, and the record of R269, before any chunk is waited for (R276; the trap is DEDUCED, log 35). -/
def atLine (s : State) (e : VqEntry) (k : Word → HeadRes) : HeadRes :=
  let a := e.opa + e.opb
  if a.toNat % 128 = 0 then k a else loadTrap s e { idx := 0, code := 0x06, addr := a } [{ idx := 0, code := 0x06, addr := a }]

/-- `vld.av` at issue: it captures CPSTAT.SEL (R302). -/
def execVldAv (d : VReg) (b x : GReg) (f : Fmt) (s : State) : Out :=
  issueDims (.vldAv d b x f) (s.g b) (s.g x) (zext64 s.hart.sc.cpSel) 0 0 s

/-- `vld.av` at the head (R281): the elements that have arrived, VL trimmed to them. A is a multiple of 128 (R276; log 35). -/
def headVldAv (d : VReg) (_ _ : GReg) (f : Fmt) (e : VqEntry) (s : State) : HeadRes :=
  granting s e <|
    if f == .e2m1 then formatTrap s e f .none .none
    else atLine s e (fun a =>
      let w := width f
      let n := s.hart.cnt w
      let rs := unitElems s.hart a w (fun j => decide (j < n))
      let here := rs.takeWhile (fun r => arrived (capturedStream s e) r.addr (elemBytes w))
      if here.isEmpty && !rs.isEmpty then .wait s
      else loadElems s e (fun _ => elemBytes w) w here (fun x h =>
        let h1 := h.loaded d f x
        if here.length < n then h1.trimTo here.length else h1))

/-- `vld.am` at issue (R302). -/
def execVldAm (d : VReg) (b x : GReg) (f : Fmt) (s : State) : Out :=
  issueDims (.vldAm d b x f) (s.g b) (s.g x) (zext64 s.hart.sc.cpSel) 0 0 s

/-- `vld.am` at the head (R281): it waits for every body element. -/
def headVldAm (d : VReg) (_ _ : GReg) (f : Fmt) (e : VqEntry) (s : State) : HeadRes :=
  granting s e <|
    if f == .e2m1 then formatTrap s e f .none .none
    else atLine s e (fun a =>
      let w := width f
      let rs := unitElems s.hart a w (fun j => decide (j < s.hart.cnt w))
      if rs.all (fun r => arrived (capturedStream s e) r.addr (elemBytes w)) then loadVec s e d f rs else .wait s)

end Sys2Proof.Machine
end

