-- ==== Sys2Proof/Machine/Copy.lean ====
section
/-! DEFINITION. Copy streams and byte barriers: CP, CPC and the rows (R286 to R310). -/

namespace Sys2Proof.Machine

/-! ## The shape of a copy (R286, R292) -/

/-- LEN of a DIM register (Table 12.1). -/
def dimLen (d : Word) : Nat := natBits d.toNat 0 20

/-- STRIDE of a DIM register, signed (Table 12.1). -/
def dimStride (d : Word) : Int := (d.extractLsb' 20 40).toInt

/-- SWZ of DIM1 (Table 12.1). -/
def dimSwz (d : Word) : Nat := natBits d.toNat 60 2

/-- What a CP entry copies: its direction, its memory base, its near base and its captured DIM registers. -/
structure CopyShape where
  kind : CopyKind
  mem : Word
  near : Word
  dim0 : Word
  dim1 : Word
  dim2 : Word

/-- The shape of an entry: `gdst` is captured as OPA, `gsrc` as OPB (Table 12.2). -/
def shapeOf (kind : CopyKind) (e : VqEntry) : CopyShape :=
  { kind := kind, mem := if kind == .toMemory then e.opa else e.opb, near := if kind == .toMemory then e.opb else e.opa
    dim0 := e.dim0, dim1 := e.dim1, dim2 := e.dim2 }

/-- A check that failed: code, TRAPVAL, TRAPELEM. -/
abbrev CopyFail := BitVec 8 × Word × Nat

/-- Checks 3 to 7 of Table 12.3. -/
def CopyShape.check (c : CopyShape) : Option CopyFail :=
  let len := dimLen c.dim0
  let pitch := dimStride c.dim0
  let near := dimStride c.dim1
  let rows := dimLen c.dim2
  if len % 16 != 0 || len < 16 || 65536 < len then some (0x06, c.dim0, 0)
  else if near % 16 != 0 || near < len || len % (16 * 2 ^ dimSwz c.dim1) != 0 then some (0x06, c.dim1, 0)
  else if c.kind != .gather && (rows == 0 || 16384 < rows) then some (0x06, c.dim2, 0)
  else if c.mem.toNat % 16 != 0 then some (0x06, c.mem, 0)
  else if pitch % 16 != 0 || (c.kind == .toMemory && 1 < rows && pitch.natAbs < len) then some (0x06, c.dim0, 0)
  else if !inNear c.near.toNat then some (0x08, c.near, 0)
  else if inNear c.mem.toNat then some (0x08, c.mem, 0)
  else none

/-- The pieces of a memory row that lie in one line each: offset in the row and bytes. -/
def lineChunks (a len : Nat) : List (Nat × Nat) :=
  let k := a % 128
  (List.range ((k + len + 127) / 128)).map (fun i =>
    let lo := max k (128 * i) - k
    (lo, min len (128 * (i + 1) - k) - lo))

/-- The address of byte `off` of a memory row. -/
def CopyRow.at (r : CopyRow) (off : Nat) : Nat := (r.mem + BitVec.ofNat 64 off).toNat

/-- The first address of a row's memory side that fails R226 or R227; a row out of range accesses no memory. -/
def CopyRow.badAddress (s : State) (len : Nat) (r : CopyRow) : Option Nat :=
  if r.fill then none
  else ((lineChunks r.mem.toNat len).map (fun c => r.at c.1)).find? (fun a => !addressOk s s.sp s.pt a)

/-- The precise failure of a copy's addresses under R226 and R227: its memory base, then its memory rows in order (DEDUCED, log 27:
Table 12.3 names no check of them). -/
def CopyShape.badAddress (s : State) (c : CopyShape) (rows : List CopyRow) : Option CopyFail :=
  if !addressOk s s.sp s.pt c.mem.toNat then some (0x08, c.mem, 0)
  else rows.findSome? (fun r => (r.badAddress s (dimLen c.dim0)).map (fun a => (0x08, BitVec.ofNat 64 a, r.idx)))

/-- The snoop that those checks wait for (R252, R408). -/
def CopyShape.addressSnoop (s : State) (c : CopyShape) (rows : List CopyRow) : Option State :=
  (c.mem.toNat :: (rows.filter (fun r => !r.fill)).flatMap (fun r => (lineChunks r.mem.toNat (dimLen c.dim0)).map (fun x => r.at x.1))).findSome?
    (entrySnoop s s.sp)

/-- Row `i` of an operation, whose memory row has number `k` (R293, R294). -/
def CopyShape.row (c : CopyShape) (i : Nat) (k : Int) (num : Word) (fill : Bool) : CopyRow :=
  { idx := i, near := c.near.toNat - nearVa + i * (dimStride c.dim1).toNat
    mem := c.mem + BitVec.ofInt 64 (k * dimStride c.dim0), num := num, fill := fill, complete := false, held := false
    code := 0, delivered := false, replayed := false, sent := false, found := none }

/-- The rows of a block copy (R294). -/
def CopyShape.blockRows (c : CopyShape) : List CopyRow :=
  (List.range (dimLen c.dim2)).map (fun i => c.row i i 0 false)

/-- The row of element j of a gather: out of range below 0 or at or above a bound B that is not 0 (R293). -/
def CopyShape.gatherRow (c : CopyShape) (h : Hart) (v : VReg) (j : Nat) : CopyRow :=
  let f := h.tag v
  let k := intVal f ((h.reg v).elem (width f) j)
  let b := dimLen c.dim2
  c.row j k (BitVec.ofInt 64 k) (decide (k < 0) || (b != 0 && decide ((b : Int) ≤ k)))

/-- The rows of a gather: one for each active element (R293). -/
def CopyShape.gatherRows (c : CopyShape) (h : Hart) (v : VReg) (p : PReg) : List CopyRow :=
  let w := width (h.tag v)
  ((List.range (h.elems w)).filter (fun j => h.active p w j)).map (c.gatherRow h v)

/-- BMODE (Table 12.1). -/
def CopyShape.leave (c : CopyShape) : Bool := c.dim2.getLsbD 60

/-- Check 8 of Table 12.3: the first near row that the operation accesses outside the segment. -/
def CopyShape.outside (c : CopyShape) (seg : Nat) (rows : List CopyRow) : Option CopyFail :=
  (rows.find? (fun r => !(r.fill && c.leave) && decide (seg < r.near + dimLen c.dim0))).map
    (fun r => (0x08, BitVec.ofNat 64 (nearVa + max r.near seg), r.idx))

/-! ## Issue and hand-off (R288, R292) -/

/-- A stream of the current hart. -/
def Hart.stream (h : Hart) (n : BitVec 4) : Stream := vget h.streams n.toNat Stream.empty

/-- Replace a stream of a hart. -/
def Hart.setStream (h : Hart) (n : BitVec 4) (st : Stream) : Hart := { h with streams := vset h.streams n.toNat st }

/-- Issue a CP entry: it captures DIM0 to DIM2 (R287). -/
def issueCopy (i : Instr) (d a : GReg) (s : State) : Out :=
  issueDims i (s.g d) (s.g a) s.hart.sc.dim0 s.hart.sc.dim1 s.hart.sc.dim2 s

/-- A trap of a CP entry leaves VSTART at 0 (R292). -/
def copyTrap (s : State) (f : CopyFail) : HeadRes := .trap s.clearStart f.1 f.2.1 f.2.2

/-- The operation of a hand-off (R288, R293, R306). -/
def newOp (s : State) (e : VqEntry) (c : CopyShape) (rows : List CopyRow) (bar : Option Nat) : CopyOp :=
  { kind := c.kind, len := dimLen c.dim0, swz := dimSwz c.dim1, nt := c.dim0.getLsbD 60, leave := c.leave, rows := rows
    bar := bar, cls := s.hart.sc.prio, arrived := s.clock.ran, seq := e.seq, since := s.hart.sc.iseq, addr := e.addr, source := s.hartid s.hart.id
    handler := s.hart.tr.hm }

/-- A stream that has been handed an operation (R288). -/
def Stream.hand (st : Stream) (o : CopyOp) : Stream :=
  Stream.settle { st with queue := st.queue ++ [o], newest := some o, ops := st.ops + 1 }

/-- Hand the operation to its stream, or wait while it holds 16; an out-of-range row sets BND (R288, R293) at the commit, for all such rows
together (DESIGN CHOICE, log 27). -/
def handOff (s : State) (e : VqEntry) (c : CopyShape) (n : BitVec 4) (rows : List CopyRow) : HeadRes :=
  let h := s.hart
  let st := h.stream n
  if 16 ≤ st.queue.length then .wait s
  else
    let bnd := if rows.any (fun r => r.fill) then h.sc.cpBnd ||| (1 <<< n.toNat) else h.sc.cpBnd
    let h1 := h.setStream n (st.hand (newOp s e c rows st.bar))
    .commit (s.withHart { h1 with sc := { h1.sc with cpBnd := bnd } })

/-- The checks of Table 12.3 from the third on, then those of R226 and R227 on the addresses (log 27), then the hand-off. -/
def checkedCopy (s : State) (e : VqEntry) (c : CopyShape) (n : BitVec 4) (rows : List CopyRow) : HeadRes :=
  match c.check with
  | some f => copyTrap s f
  | none =>
    match c.outside s.segBytes rows with
    | some f => copyTrap s f
    | none =>
      match c.addressSnoop s rows with
      | some s1 => .wait s1
      | none =>
        match c.badAddress s rows with
        | some f => copyTrap s f
        | none => handOff s e c n rows

/-- `cpg` at issue (R291). -/
def execCpg (d a : GReg) (v : VReg) (n : BitVec 4) (p : PReg) (s : State) : Out := issueCopy (.cpg d a v n p) d a s

/-- `cpg` at the head of the queue (R292, R293). Its Format trap leaves VSTART as it stands, as R432 has it, where R292 leaves 0 at a
trap of a copy (DESIGN CHOICE, log 27). -/
def headCpg (_ _ : GReg) (v : VReg) (n : BitVec 4) (p : PReg) (e : VqEntry) (s : State) : HeadRes :=
  let c := shapeOf .gather e
  if s.hart.ln.len = 0 then copyTrap s (0x04, zext64 e.word, 0)
  else if !isInt (s.hart.tag v) then formatTrap s e .none .none (s.hart.tag v)
  else checkedCopy s e c n (c.gatherRows s.hart v p)

/-- `cpt` at issue (R291). -/
def execCpt (d a : GReg) (n : BitVec 4) (s : State) : Out := issueCopy (.cpt d a n) d a s

/-- `cpt` at the head of the queue (R292, R294). -/
def headCpt (_ _ : GReg) (n : BitVec 4) (e : VqEntry) (s : State) : HeadRes :=
  let c := shapeOf .toNear e
  checkedCopy s e c n c.blockRows

/-- `cpl` at issue (R291). -/
def execCpl (d a : GReg) (n : BitVec 4) (s : State) : Out := issueCopy (.cpl d a n) d a s

/-- `cpl` at the head of the queue (R292, R294). -/
def headCpl (_ _ : GReg) (n : BitVec 4) (e : VqEntry) (s : State) : HeadRes :=
  let c := shapeOf .toMemory e
  checkedCopy s e c n c.blockRows

/-! ## Watching arrival (R299 to R302) -/

/-- The newest operation handed to a stream (R301): the last not done, else one that is. -/
def Stream.rowsComplete (st : Stream) (i : Nat) : Bool :=
  match st.queue.getLast? with
  | some o => o.rows.any (fun r => r.idx == i && r.complete)
  | none => (st.newest.map (fun o => o.rows.any (fun r => r.idx == i))).getD false

/-- `cpmask` at issue (R301). -/
def execCpmask (p : PReg) (n : BitVec 4) (s : State) : Out := issue (.cpmask p n) 0 0 s

/-- `cpmask` at the head of the queue (R301). -/
def headCpmask (p : PReg) (n : BitVec 4) (e : VqEntry) (s : State) : HeadRes :=
  runPred p (fun i => (s.hart.stream n).rowsComplete i) e s

/-- `cpavail` (R299): OPS × 2^32 + DONE. -/
def execCpavail (d : GReg) (n : BitVec 4) (s : State) : Out :=
  afterQueue s (writeNext s d ((s.hart.stream n).ops ++ (s.hart.stream n).done))

/-- Operations of a stream that are not done, modulo 2^32. -/
def Stream.outstanding (st : Stream) : BitVec 32 := st.ops - st.done

/-- `cpwait` (R300). -/
def execCpwait (d a : GReg) (n : BitVec 4) (s : State) : Out :=
  let x := (s.hart.stream n).outstanding
  afterQueue s (if x.toNat ≤ (s.g a).toNat then writeNext s d (zext64 x) else waiting s .copy)

/-- `cpsel` (R302). -/
def execCpsel (n : BitVec 4) (s : State) : Out :=
  .next ((s.withHart { s.hart with sc := { s.hart.sc with cpSel := n } }).advance 4)

/-! ## Byte barriers (R304 to R308) -/

/-- A byte-barrier word after its count moves by `delta`; `exp`: an expectation is posted (R305). -/
def stepBarrier (w : Word) (delta : Int) (exp : Bool) : Word :=
  let count := BitVec.ofInt 48 ((w.extractLsb' 0 48).toInt + delta)
  let posted := exp || w.getLsbD 48
  let done := w.getLsbD 49 || (posted && decide (count.toInt ≤ 0))
  let over_ := w.getLsbD 50 || (posted && decide (count.toInt < 0))
  w.extractLsb' 51 13 ++ BitVec.ofBool over_ ++ BitVec.ofBool done ++ BitVec.ofBool posted ++ count

/-- The byte-barrier word at an offset of the current hart's segment. -/
def State.barrierWord (s : State) (off : Nat) : Word := BitVec.ofNat 64 (readLE s.seg off 8)

/-- Write a byte-barrier word. -/
def State.setBarrierWord (s : State) (off : Nat) (w : Word) : State := s.updSeg (fun m => writeLE m off 8 w.toNat)

/-- The checks of R306 on a barrier's address; `k` receives its offset. -/
def onBarrier (s : State) (a : Word) (k : Nat → Out) : Out :=
  let off := a.toNat - nearVa
  if a.toNat % 8 ≠ 0 then trapAt s 0x06 a
  else if a.toNat < nearVa || s.segBytes < off + 8 then trapAt s 0x08 a
  else k off

/-- Bind a stream of the current hart, or unbind it (R306). -/
def State.bindStream (s : State) (n : BitVec 4) (bar : Option Nat) : State :=
  s.withHart (s.hart.setStream n { s.hart.stream n with bar := bar })

/-- `bx.init` (R306). -/
def execBxInit (a : GReg) (k : Bool) (n : BitVec 4) (s : State) : Out :=
  afterQueue s <|
    if a = 0 && !k then .next ((s.bindStream n none).advance 4)
    else onBarrier s (s.g a) (fun off =>
      let s1 := if k then s.setBarrierWord off 0 else s
      .next ((s1.bindStream n (some off)).advance 4))

/-- `bx.exp` (R307): n is gn[39:0]. It writes the word, so it follows every earlier vector access (R316). -/
def execBxExp (n a : GReg) (s : State) : Out :=
  onBarrier s (s.g a) (fun off =>
    if s.hart.queueTouches then waiting s .queue
    else .next ((s.setBarrierWord off (stepBarrier (s.barrierWord off) (natBits (s.g n).toNat 0 40) true)).advance 4))

/-- `bx.wait` (R308). It reads the word after every earlier vector access of it, and after every earlier arrival acquire (R147, R314,
R319). -/
def execBxWait (d a : GReg) (s : State) : Out :=
  onBarrier s (s.g a) (fun off =>
    if s.hart.queueMeets (s.g a) 8 then waiting s .queue
    else if (s.barrierWord off).getLsbD 49 then writeNext s d (s.barrierWord off) else waiting s .copy)

/-! ## Rows: memory side (R289, R290, R297) -/

/-- The number under which a row's accesses of the host window stand. -/
def CopyRow.key (r : CopyRow) (off : Nat) : Nat := r.idx * 65536 + off / 8

/-- What one piece of a memory row answers. -/
inductive ChunkRes where
  | val (x : Nat) (s : State)
  | fault (code : Nat) (s : State)
  | stall (s : State)

/-- An address that no copy reaches: it fails R226 or R227, or lies in the near window (R297). -/
def copyAddressBad (s : State) (a : Nat) : Bool := !addressOk s s.sp s.pt a || inNear a

/-- `.nt` reads keep no line in the L2 (R286). -/
def forgetNt (s : State) (nt : Bool) (a : Nat) : State := if nt then forgetL2 s (cacheSpace s.sp a) (a / 128) else s

/-- A copy row's piece is refused for the class of its page, which is DEVC (R297), before A and D would be set: the class is one of the
checks that an access has to pass first (R236). The answer of the home's walk; none where the class refuses nothing. -/
def classRefuses (s : State) (a : Nat) (k : AccessKind) : Option State :=
  if !s.trans.en || (snoopReads s (walkReads s s.sp s.pt a)).isSome then none
  else
    match walkKept s s.sp s.pt a with
    | (some (pte, _), s1) =>
      if leafValid pte a && (leafChecks pte k).isNone && natBits pte 4 2 == 2 then some s1 else none
    | (none, _) => none

/-- Read a piece of a memory row: memory without the hart's own unperformed stores (R289), the host window included. -/
def readChunk (s : State) (o : CopyOp) (r : CopyRow) (off n : Nat) : ChunkRes :=
  let a := r.at off
  let own := s.hart.stores
  let back := fun (t : State) => t.withHart { t.hart with stores := own }
  match entrySnoop s s.sp a with
  | some t => .stall t
  | none =>
    if copyAddressBad s a then .fault 0x08 s
    else
      match (if (granted s a none (fun c => c.r)).isSome then none else classRefuses s a .load) with
      | some t => .fault 0x0C t
      | none =>
        match loadMapped (s.withHart { s.hart with stores := [] }) a n true with
        | .val x t => .val x (forgetNt (back t) o.nt a)
        | .fault c t => .fault c (back t)
        | .wait _ t => .stall (back t)
        | .device pa wc t =>
          if !wc then .fault 0x0C (back t)
          else
            match devPieces (back t) (pa / 64 * 64) 64 true o.seq (r.key off) (ceilDiv (pa % 64 + n) 64) with
            | .val x t1 => .val (natBits x (pa % 64 * 8) (n * 8)) t1
            | .wait t1 => .stall t1
            | .hole _ => .fault 0x0C (back t)

/-- The store line that writes a piece of a memory row. -/
def chunkLine (s : State) (o : CopyOp) (a n data : Nat) : StoreLine :=
  storeLineOf s a n data (2 ^ (8 * n) - 1) 0 true o.nt o.seq o.addr

/-- Translate a piece of a memory row for a write (R247, R297): a cached copy with W needs none, but the host's copy has to go
first (R408). -/
def checkChunk (s : State) (_ : CopyOp) (r : CopyRow) (off _ : Nat) : ChunkRes :=
  let a := r.at off
  match entrySnoop s s.sp a with
  | some t => .stall t
  | none =>
    if copyAddressBad s a then .fault 0x08 s
    else
      match granted s a none (fun c => c.w) with
      | some c =>
        match snoopLine s c.pline true with
        | some t => .stall t
        | none => .val 0 s
      | none =>
        match classRefuses s a .store with
        | some t => .fault 0x0C t
        | none =>
          match home s s.sp s.pt a .store with
          | (.fault c, t) => .fault c t
          | (.zeros, t) => .fault 0x0B t
          | (.mig, t) => .stall t
          | (.busy, t) => .stall t
          | (.ok pte, t) => if natBits pte 4 2 = 2 then .fault 0x0C t else .val 0 t

/-- Write a piece of a memory row that has been translated. `s0` is the device as the row's pieces found it: a copy with W that granted
this one grants it also where the fill of an earlier piece has taken the copy away, and the bytes go to the frame (R243, R288). -/
def writeChunk (s0 s : State) (o : CopyOp) (r : CopyRow) (off n data : Nat) : State :=
  let a := r.at off
  let l := chunkLine s o a n data
  match l.copy? s, l.copy? s0 with
  | some c, _ => performOn s l c
  | none, some c => performAt s l c.cspace c.pline false (fun _ => false)
  | none, none =>
    match home s s.sp s.pt a .store with
    | (.ok pte, s1) =>
      let pa := pteFrame pte + a % 65536
      if isHbm pa then
        if natBits pte 4 2 = 0 then performIdem s1 l (pa / 128 * 128) pte
        else performAt s1 l (cacheSpace s.sp a) (pa / 128) false (fun _ => false)
      else
        let ops := (windowWrites s l (pa / 128 * 128)).map (fun w => { w with idx := r.key off })
        { s1 with windowOps := s1.windowOps ++ ops }
    | (_, s1) => s1

/-- What a pass over a row's pieces answers: the row's bytes and the pieces that failed. -/
inductive RowPass where
  | over (x : Nat) (fails : List (Nat × Nat)) (s : State)
  | stall (s : State)

/-- Pass over the pieces in ascending order and collect the failures: offset and code. -/
def passChunks (f : State → Nat → Nat → ChunkRes) : List (Nat × Nat) → Nat → List (Nat × Nat) → State → RowPass
  | [], x, fails, s => .over x fails s
  | (off, n) :: rest, x, fails, s =>
    match f s off n with
    | .val y s1 => passChunks f rest (x + y * 2 ^ (8 * off)) fails s1
    | .fault c s1 => passChunks f rest x (fails ++ [(off, c)]) s1
    | .stall s1 => .stall s1

/-- Attempt a row's memory side: read it, or translate it for the write. -/
def attemptRow (s : State) (o : CopyOp) (r : CopyRow) : RowPass :=
  let chunks := lineChunks r.mem.toNat o.len
  if o.kind == .toMemory then passChunks (fun t => checkChunk t o r) chunks 0 [] s
  else passChunks (fun t => readChunk t o r) chunks 0 [] s

/-! ## Rows: near side (R293, R295) -/

/-- The order of 16-byte groups in a near row (R295). -/
def swizzle (o : CopyOp) (r : CopyRow) (g : Nat) : Nat := g ^^^ (r.idx % 2 ^ o.swz)

/-- The bytes of a near row, unswizzled. -/
def readNearRow (s : State) (o : CopyOp) (r : CopyRow) : Nat :=
  (List.range (o.len / 16)).foldl
    (fun x g => x + readLE s.seg (r.near + 16 * swizzle o r g) 16 * 2 ^ (128 * g)) 0

/-- Write the bytes of a near row, swizzled. -/
def writeNearRow (s : State) (o : CopyOp) (r : CopyRow) (x : Nat) : State :=
  s.updSeg (fun m => (List.range (o.len / 16)).foldl
    (fun m g => writeLE m (r.near + 16 * swizzle o r g) 16 (natBits x (128 * g) 128)) m)

/-! ## Rows: completion (R288, R289, R305, R309) -/

/-- Copies of a hart go on: its handler has not ended, and its team stays where it is, its segment in the scratchpad; neither in an
emergency nor in a parked partition (R309, R388). -/
def copiesRun (s : State) (h : Hart) : Bool :=
  !diesStill s && s.power.emergency.isNone && h.run.inHandler && !partParked s h.id.part &&
    ((s.team? h.id.ref.team).map (fun t => t.status == .resident || (t.status == .stopped .preempt && !t.segSaved))).getD false

/-- An earlier store line touches the memory of a row. -/
def CopyRow.meets (r : CopyRow) (len : Nat) (l : StoreLine) : Bool :=
  !r.fill && (lineChunks r.mem.toNat len).any (fun c => l.touches (r.at c.1) c.2)

/-- A store precedes the CP entry of an operation in program order: by its number, and a handler's that a trap has set the entry aside
for, though `eret` pushes the entry again under the number it had (R356, R357). -/
def StoreLine.precedes (l : StoreLine) (o : CopyOp) : Bool :=
  decide (l.seq.toNat < (if l.handler && !o.handler then o.since else o.seq).toNat)

/-- A row waits for the hart's earlier stores: one that touches its memory, held or not (R289), and every one that is not held: where it
reads memory or writes the segment (R327), and where it writes memory since that store may be a device-class one to the window it writes
(R316). -/
def rowBlocked (h : Hart) (o : CopyOp) (r : CopyRow) : Bool :=
  h.stores.any (fun l => l.precedes o && (r.meets o.len l || l.stage != .held))

/-- Change row `j` of operation `i` of a stream. -/
def Stream.updRow (st : Stream) (i j : Nat) (f : CopyRow → CopyRow) : Stream :=
  { st with queue := updAt st.queue i (fun o => { o with rows := updAt o.rows j f }) }

/-- A row arrives at its operation's barrier (R305, R306). -/
def arriveRow (s : State) (o : CopyOp) : State :=
  match o.bar with
  | none => s
  | some off => s.setBarrierWord off (stepBarrier (s.barrierWord off) (-(o.len : Int)) false)

/-- Answers of the host that the row has used. -/
def forgetRow (s : State) (o : CopyOp) (r : CopyRow) : State :=
  { s with windowOps := s.windowOps.filter (fun w =>
      !(w.hart == s.hart.id.ref && w.seq == o.seq && !w.write && w.idx / 65536 == r.idx)) }

/-- Row `j` of operation `i` is complete (R288). -/
def finishRow (s : State) (n : BitVec 4) (i j : Nat) (o : CopyOp) (r : CopyRow) : State :=
  let s1 := arriveRow (forgetRow s o r) o
  let st := ((s1.hart.stream n).updRow i j (fun x => { x with complete := true, held := false })).settle
  s1.withHart (s1.hart.setStream n st)

/-- Writes of a row to the host window are in flight (R407). -/
def rowInFlight (s : State) (o : CopyOp) (r : CopyRow) : Bool :=
  s.windowOps.any (fun w => w.hart == s.hart.id.ref && w.seq == o.seq && w.write && w.idx / 65536 == r.idx)

/-- Write the whole of a row that has been translated; its writes to the host window have still to be answered. -/
def writeRow (s : State) (n : BitVec 4) (i j : Nat) (o : CopyOp) (r : CopyRow) : State :=
  let x := readNearRow s o r
  let s1 := (lineChunks r.mem.toNat o.len).foldl (fun t c => writeChunk s t o r c.1 c.2 (natBits x (8 * c.1) (8 * c.2))) s
  if rowInFlight s1 o r then
    s1.withHart (s1.hart.setStream n ((s1.hart.stream n).updRow i j (fun x => { x with sent := true })))
  else finishRow s1 n i j o r

/-- A row of a hart that may be served now. -/
def rowReady (s : State) (h : Hart) (o : CopyOp) (r : CopyRow) : Bool :=
  copiesRun s h && !r.complete && !r.held && !rowBlocked h o r

/-- A row stalls: its page migrates, or the host has still to answer (R248, R407). -/
def rowStalls (s : State) (h : Hart) (o : CopyOp) (r : CopyRow) : Bool :=
  match s.activate h.id.ref with
  | none => true
  | some s1 =>
    match attemptRow s1 o r with
    | .stall _ => true
    | .over _ _ _ => false

/-- An operation of one hart is served before that of another: by class at hand-off, arrival, HARTID (R63, R290). -/
def opBefore (h : Hart) (o : CopyOp) (h' : Hart) (o' : CopyOp) : Bool :=
  servedBefore o.cls.toNat o.arrived h.id.phys.toNat o'.cls.toNat o'.arrived h'.id.phys.toNat

/-- How many rows that a copy engine could serve now come before those of an operation of the current hart, in its cluster. -/
def rowsAhead (s : State) (o : CopyOp) : Nat :=
  ((s.harts.filter (fun h => h.id.clusterKey == s.hart.id.clusterKey)).map (fun h =>
    ((h.streams.toList.flatMap (fun st => st.queue)).filter (fun p => opBefore h p s.hart o)).map (fun p =>
      (p.rows.filter (fun r => rowReady s h p r && !r.sent && (r.fill || !rowStalls s h p r))).length) |>.sum)).sum

/-- A row that may go on now, its operation and itself: one of the cluster's four engines takes it (R290). -/
def liveRow (s : State) (n : BitVec 4) (i j : Nat) : Option (CopyOp × CopyRow) :=
  match (s.hart.stream n).queue[i]? with
  | none => none
  | some o =>
    match o.rows[j]? with
    | none => none
    | some r => if rowReady s s.hart o r && (r.sent || decide (rowsAhead s o < 4)) then some (o, r) else none

/-- COPY_ROW_COMPLETE (R288): row `j` of operation `i` of a stream is served. -/
def execCopyRowComplete (h : HartRef) (n : BitVec 4) (i j : Nat) (s : State) : Out :=
  match s.activate h with
  | none => .next s
  | some s1 =>
    match liveRow s1 n i j with
    | none => .next s
    | some (o, r) =>
      if r.fill then
        let s2 := if o.leave then s1 else s1.updSeg (fun m => memClear m r.near o.len)
        .next (finishRow s2 n i j o r)
      else if r.sent then (if rowInFlight s1 o r then .next s else .next (finishRow s1 n i j o r))
      else
        match attemptRow s1 o r with
        | .stall s2 => .next s2
        | .over x [] s2 =>
          .next (if o.kind == .toMemory then writeRow s2 n i j o r
            else finishRow (writeNearRow s2 o r x) n i j o r)
        | .over _ _ _ => .next s

/-! ## Rows that fail (R297, R364) -/

/-- The record of a row whose first failing piece is at `off` (Table 15.6). -/
def rowRecord (now : Word) (o : CopyOp) (r : CopyRow) (fails : List (Nat × Nat)) (double : Bool) : FaultRec :=
  let off := (fails.head?.map (fun f => f.1)).getD 0
  let code := (fails.head?.map (fun f => f.2)).getD 0
  let va := r.at off
  let pages := (fails.map (fun f => r.at f.1 / 65536)).dedup
  { time := r.found.getD now, seq := o.seq, code := BitVec.ofNat 8 code, double := double, replay := r.replayed && !double, morePg := false, moreEl := false
    orig := if double then 3 else 2, source := o.source, x := BitVec.ofNat 16 off, iaddr := o.addr
    va := BitVec.ofNat 56 va, y := BitVec.ofNat 16 r.idx, z := if o.kind == .gather then r.num.setWidth 16 else 0
    pages := pages.map (fun p => BitVec.ofInt 16 ((p : Int) - (va / 65536 : Nat))), mask := 1 }

/-- A failing row is held with its record (R297); of a handler that has ended it is discarded; handed in handler mode it ends
the handler at the next boundary (R364). It is served again until its record is written. -/
def failRow (s : State) (n : BitVec 4) (i j : Nat) (o : CopyOp) (r : CopyRow) (fails : List (Nat × Nat)) : State :=
  let code := BitVec.ofNat 8 ((fails.head?.map (fun f => f.2)).getD 0)
  let hold := fun (s : State) =>
    s.withHart (s.hart.setStream n ((s.hart.stream n).updRow i j (fun x =>
      { x with held := true, code := code, delivered := false, found := none })))
  let rec_ := rowRecord s.clock.now o r fails false
  let late := fun (t : State) =>
    t.withHart (t.hart.setStream n ((t.hart.stream n).updRow i j (fun x => { x with found := some rec_.time })))
  let recorded := fun (k : State → Word → State) => afterRecord s rec_ late (fun s1 va => k (hold s1) va)
  if s.hart.run != .running then recorded (fun s1 _ => s1.withHart (s1.hart.setStream n (s1.hart.stream n).dropHeld))
  else if o.handler then
    let s1 := hold s
    let f := if s.hart.fatal.isSome then s.hart.fatal else some (rowRecord s.clock.now o r fails true)
    s1.withHart { s1.hart with fatal := f }
  else recorded (fun s1 va => s1.withHart { s1.hart with recs := s1.hart.recs ++ [va] })

/-- COPY_ROW_FAULT (R297): row `j` of operation `i` of a stream fails at its memory side. -/
def execCopyRowFault (h : HartRef) (n : BitVec 4) (i j : Nat) (s : State) : Out :=
  match s.activate h with
  | none => .next s
  | some s1 =>
    match liveRow s1 n i j with
    | none => .next s
    | some (o, r) =>
      if r.fill || r.sent then .next s
      else
        match attemptRow s1 o r with
        | .over _ (f :: rest) _ => .next (failRow (forgetRow s1 o r) n i j o r (f :: rest))
        | .over _ [] _ => .next s
        | .stall s2 => .next s2

end Sys2Proof.Machine
end

