-- ==== Sys2Proof/Machine/Causes.lean ====
section
/-! DEFINITION. The asynchronous causes that are pending on a hart, and when one can be taken (R85, R354, R363, R372, R374). -/

namespace Sys2Proof.Machine

/-- The vector queue of a hart goes on: its handler runs and its team is resident (R60, R372). -/
def queueRuns (s : State) : Bool := s.hart.run == .running && !isOut s s.hart.id.ref

/-- A held copy row whose record has not been delivered (R297, R363). -/
def Hart.undeliveredRow (h : Hart) : Bool :=
  h.streams.toList.any (fun st => st.queue.any (fun o => o.rows.any (fun r => r.held && !r.delivered)))

/-- A held line or row whose record has not been delivered (R363). -/
def Hart.undelivered (h : Hart) : Bool := h.stores.any (fun l => l.stage == .held && !l.delivered) || h.undeliveredRow

/-- A release waits for its stores alone, which all come to be performed or held: it takes 0x09 of held lines itself, with its own
TRAPVAL (R260, Table 15.9; log 31). That of a held row ends its wait (R303, R322), and so does that of a line while an entry of the
queue stands, which the held line may keep from its commit. -/
def Hart.takesHeld (h : Hart) : Bool := h.wait == .release && h.vq.isEmpty && !h.undeliveredRow

/-- The asynchronous cause to take first (R354), in the order 0x14, 0x13, 0x09, 0x15: its code, its TRAPVAL, and the notices without
it. 0x09 of held lines is left to a release that will take it itself, unless 0x15 is pending too, which may not pass it. -/
def Hart.pendingCause (h : Hart) : Option (BitVec 8 × Word × Notices) :=
  let n := h.notice
  match n.thermal, n.preempt, n.watchdog with
  | some t, _, _ => some (0x14, t, { n with thermal := none })
  | none, some t, _ => some (0x13, t, { n with preempt := none })
  | none, none, w =>
    if h.undelivered && !(h.takesHeld && w.isNone) then some (0x09, 0, n)
    else w.map (fun x => (0x15, x, { n with watchdog := none }))

/-- The current hart is at an instruction boundary where a cause may be taken: in no instruction that must complete or that has raised a
trap, with no device-class access of its head in flight (R66, R354, Table 6.5). -/
def atBoundary (s : State) : Bool :=
  let h := s.hart
  queueRuns s && !h.tr.hm && !h.wait.mustFinish && h.wait != .commitQueue && h.due.isNone && !headStarted s h

/-- The current hart can take a cause now. -/
def asyncReady (s : State) : Bool := atBoundary s && s.hart.pendingCause.isSome

end Sys2Proof.Machine
end

