-- ==== Sys2Proof/Machine/Matrix.lean ====
section
/-! DEFINITION. Matrix gangs: MX (R210 to R220). Timing, gating and pricing change no result (R221, R223). -/

namespace Sys2Proof.Machine

/-! ## Checks (R214) -/

/-- A Format trap of an MX instruction: the word, the tile's source format, the tags of va and vb. -/
def mxFormat (s : State) (e : VqEntry) (t : TReg) (a b : Fmt) : HeadRes := formatTrap s e (s.hart.tile t).fmt a b

/-- An MX instruction on a tile with a source format: No-grant, Matrix shape, then Format where the tile has none or `ok`
fails; `k` receives the gang's side and the tile's side (R211, R212, R214). -/
def onTile (s : State) (e : VqEntry) (t : TReg) (a b : Fmt) (ok : Bool) (k : Nat → Nat → HeadRes) : HeadRes :=
  needGang s e (fun side =>
    if (s.hart.tile t).fmt == .none || !ok then mxFormat s e t a b else k side (tileSide side (s.hart.tile t).fmt))

/-- The accumulator format of a source format (R211, R219). -/
def accFmt (f : Fmt) : Fmt := if isFloat f then .fp32 else .i32

/-- Rows or columns that one read or write moves: nr = 2s / epl (Table 9.2). -/
def rowsPer (side : Nat) (f : Fmt) : Nat := 2 * side / (64 / width f)

/-! ## Outer products (R216 to R218) -/

/-- One step of accumulation: the new accumulator and its flags. -/
abbrev AccFn := Fmt → Nat → Nat → Nat → FpRes

/-- The fused step of R217: RNE whatever FRM holds. -/
def fusedStep (minus : Bool) (f : Fmt) (t a b : Nat) : FpRes :=
  let x := unpack f a
  fpFmaV .fp32 { mode := .rne } (if minus then x.negate else x) (unpack f b) (unpack .fp32 t)

/-- The exact step of R218, modulo 2^32. -/
def wrapStep (minus : Bool) (f : Fmt) (t a b : Nat) : FpRes :=
  let p := intVal f a * intVal f b
  ((BitVec.ofInt 32 ((t : Int) + (if minus then -p else p))).toNat, 0)

/-- `oacc` and `osub`: floating-point or integer by the tile's source format (R217, R218). -/
def accStep (minus : Bool) : AccFn := fun f => if isFloat f then fusedStep minus f else wrapStep minus f

/-- One beat on one accumulator, where both of its elements are active (R216). -/
def beat (fn : AccFn) (h : Hart) (f : Fmt) (a b : VReg) (p : PReg) (n row col : Nat) (x : FpRes) (c : Nat) : FpRes :=
  let w := width f
  let ea := c * n + row
  let eb := c * n + col
  if h.active p w ea && h.active p w eb then
    let r := fn f x.1 ((h.reg a).elem w ea) ((h.reg b).elem w eb)
    (r.1, x.2 ||| r.2)
  else x

/-- An accumulator after every beat, in the order of depth, with the flags of its steps (R216). -/
def accumulate (fn : AccFn) (h : Hart) (f : Fmt) (a b : VReg) (p : PReg) (side n row col old : Nat) : FpRes :=
  (List.range side).foldl (beat fn h f a b p n row col) (old, 0)

/-- An outer product at the head; `accepts` are the source formats it takes (Table 9.1). -/
def outer (accepts : Fmt → Bool) (fn : AccFn) (t : TReg) (a b : VReg) (p : PReg) (e : VqEntry) (s : State) : HeadRes :=
  let h := s.hart
  let f := (h.tile t).fmt
  onTile s e t (h.tag a) (h.tag b) (h.tag a == f && h.tag b == f && accepts f) (fun side n =>
    let all := (List.range (n * n)).map (fun i =>
      accumulate fn h f a b p side n (i / n) (i % n) ((h.tile t).acc.getD i 0).toNat)
    let flags := all.foldl (fun x r => x ||| r.2) (0 : BitVec 5)
    commitHart s ((h.setTile t { fmt := f, acc := all.map (fun r => BitVec.ofNat 32 r.1) }).raise flags))

/-- The source formats of `oacc` and `osub` (Table 9.1). -/
def signedSource (f : Fmt) : Bool := matrixFmt f && !isUnsigned f

/-- The source formats of `oacc.n` (Table 9.1). -/
def unsignedSource (f : Fmt) : Bool := matrixFmt f && isUnsigned f

/-- `oacc` at issue (R213). -/
def execOacc (t : TReg) (a b : VReg) (p : PReg) (s : State) : Out := issue (.oacc t a b p) 0 0 s

/-- `oacc` at the head of the queue (R216 to R218). -/
def headOacc (t : TReg) (a b : VReg) (p : PReg) (e : VqEntry) (s : State) : HeadRes :=
  outer signedSource (accStep false) t a b p e s

/-- `osub` at issue (R213). -/
def execOsub (t : TReg) (a b : VReg) (p : PReg) (s : State) : Out := issue (.osub t a b p) 0 0 s

/-- `osub` at the head of the queue (R216 to R218). -/
def headOsub (t : TReg) (a b : VReg) (p : PReg) (e : VqEntry) (s : State) : HeadRes :=
  outer signedSource (accStep true) t a b p e s

/-- `oacc.n` at issue (R213). -/
def execOaccN (t : TReg) (a b : VReg) (p : PReg) (s : State) : Out := issue (.oaccN t a b p) 0 0 s

/-- `oacc.n` at the head of the queue (R216, R218). -/
def headOaccN (t : TReg) (a b : VReg) (p : PReg) (e : VqEntry) (s : State) : HeadRes :=
  outer unsignedSource (accStep false) t a b p e s

/-! ## Zeroing and moving accumulators (R215, R219, R220) -/

/-- `mzero` at issue (R213). -/
def execMzero (t : TReg) (f : Fmt) (s : State) : Out := issue (.mzero t f) 0 0 s

/-- `mzero` at the head of the queue (R215). -/
def headMzero (t : TReg) (f : Fmt) (e : VqEntry) (s : State) : HeadRes :=
  needGang s e (fun side =>
    let n := tileSide side f
    commitHart s (s.hart.setTile t { fmt := f, acc := List.replicate (n * n) 0 }))

/-- The accumulators that a read moves, row-major or column-major from ρ (R219). -/
def readAcc (r : TileReg) (n rho : Nat) (columns : Bool) (i : Nat) : Nat :=
  let q := rho + i / n
  let k := i % n
  if q < n then (r.acc.getD (if columns then k * n + q else q * n + k) 0).toNat else 0

/-- A read of accumulators at the head (R219): vd is written whole. -/
def readTile (columns : Bool) (t : TReg) (d : VReg) (e : VqEntry) (s : State) : HeadRes :=
  let h := s.hart
  let r := h.tile t
  onTile s e t (h.tag d) .none true (fun _ n =>
    commitHart s (h.setReg d (vecOf h (accFmt r.fmt) (readAcc r n e.opa.toNat columns))))

/-- `mrd` at issue (R213). -/
def execMrd (t : TReg) (d : VReg) (g : GReg) (s : State) : Out := issue (.mrd t d g) (s.g g) 0 s

/-- `mrd` at the head of the queue (R219). -/
def headMrd (t : TReg) (d : VReg) (_ : GReg) (e : VqEntry) (s : State) : HeadRes := readTile false t d e s

/-- `mrdc` at issue (R213). -/
def execMrdc (t : TReg) (d : VReg) (g : GReg) (s : State) : Out := issue (.mrdc t d g) (s.g g) 0 s

/-- `mrdc` at the head of the queue (R219). -/
def headMrdc (t : TReg) (d : VReg) (_ : GReg) (e : VqEntry) (s : State) : HeadRes := readTile true t d e s

/-- `mwr` at issue (R213). -/
def execMwr (t : TReg) (a : VReg) (g : GReg) (s : State) : Out := issue (.mwr t a g) (s.g g) 0 s

/-- `mwr` at the head of the queue (R220). -/
def headMwr (t : TReg) (a : VReg) (_ : GReg) (e : VqEntry) (s : State) : HeadRes :=
  let h := s.hart
  let r := h.tile t
  onTile s e t (h.tag a) .none (h.tag a == accFmt r.fmt) (fun side n =>
    let rho := e.opa.toNat
    let nr := rowsPer side r.fmt
    let put := fun (i : Nat) =>
      if rho ≤ i / n && i / n < rho + nr then BitVec.ofNat 32 ((h.reg a).elem 32 ((i / n - rho) * n + i % n))
      else r.acc.getD i 0
    commitHart s (h.setTile t { r with acc := (List.range (n * n)).map put }))

end Sys2Proof.Machine
end

