-- ==== Sys2Proof/Machine/SysReg.lean ====
section
/-! DEFINITION. The system registers: `sysrd` and `syswr` (R98, R365) over Tables 3.2, 6.3, 7.4, 7.7, 7.8, 12.1, 12.4, 15.3,
15.5, 15.7 and 17.2. -/

namespace Sys2Proof.Machine

/-! ## Reading -/

/-- VCP (Table 6.3): with an empty queue, the address of the instruction after the reading one. -/
def Hart.vcp (h : Hart) : Word :=
  let addr : BitVec 56 := (h.vq.head?.map (fun e => e.addr)).getD ((h.sc.pc + 4).setWidth 56)
  BitVec.ofNat 64 (addr.toNat + h.vq.length * 2 ^ 56)

/-- VSTAT.GST (Table 6.3). -/
def Lanes.gst (l : Lanes) : Nat := if l.len = 0 then 0 else if l.released then 3 else if l.fold = 0 then 1 else 2

/-- VSTAT (Table 6.3). -/
def Lanes.stat (l : Lanes) : Word :=
  let b := fun (x : Bool) (i : Nat) => if x then 2 ^ i else 0
  BitVec.ofNat 64 (l.groups.length + l.fold * 2 ^ 8 + b l.sq 10 + l.gst * 2 ^ 11 + b l.pwr 13 + b l.cont 14
    + l.folds.toNat * 2 ^ 16)

/-- VL (Table 6.3). -/
def Lanes.vl (l : Lanes) : Word := BitVec.ofNat 64 (l.len + l.trim.toNat * 2 ^ 32 + (if l.tv then 2 ^ 63 else 0))

/-- Streams that hold a faulted row (Table 12.4). -/
def Hart.heldStreams (h : Hart) : Nat :=
  (List.range 16).foldl (fun m i =>
    if (vget h.streams i Stream.empty).queue.any (fun o => o.rows.any (fun r => r.held)) then m + 2 ^ i else m) 0

/-- CPSTAT (Table 12.4). -/
def Hart.cpstat (h : Hart) : Word :=
  BitVec.ofNat 64 (h.sc.cpBnd.toNat + h.heldStreams * 2 ^ 16 + h.sc.cpSel.toNat * 2 ^ 32)

/-- TSTAT (Table 15.3). -/
def Hart.tstat (h : Hart) : Word :=
  BitVec.ofNat 64 ((if h.tr.voff then 1 else 0) + (h.stores.filter (fun l => l.stage == .held)).length * 2 ^ 8
    + h.tr.nrec.toNat * 2 ^ 16)

/-- TRAPCAUSE (Table 15.3). -/
def TrapRegs.cause (t : TrapRegs) : Word :=
  BitVec.ofNat 64 (t.code.toNat + (if t.async then 2 ^ 8 else 0) + (if t.vq then 2 ^ 9 else 0))

/-- Doubleword k of the image entry that VQSEL shows (Table 15.5). -/
def TrapRegs.vqd (t : TrapRegs) (k : Nat) : Word :=
  let e := vget t.image t.vqsel.toNat VqEntry.zero
  match k with
  | 0 => zext64 e.word | 1 => zext64 e.addr | 2 => e.seq | 3 => e.opa | 4 => e.opb | 5 => e.dim0 | 6 => e.dim1
  | _ => e.dim2

/-- FLOGBASE, FLOGHEAD and FLOGTAIL (Table 15.7). -/
def Space.flog (x : Space) (k : Nat) : Word :=
  match k with
  | 0 => BitVec.ofNat 64 (x.logsz.toNat + x.logBase.toNat * 2 ^ 12)
  | 1 => BitVec.ofNat 64 (x.logHead.toNat + (if x.logLost then 2 ^ 32 else 0))
  | _ => zext64 x.logTail

/-- A register outside the trap and privileged groups (Table 4.12). -/
def readUser (s : State) (n : Nat) : Word :=
  let h := s.hart
  match n with
  | 0x000 => zext64 (s.hartid h.id)
  | 0x001 => zext64 h.id.teamId
  | 0x002 => zext64 h.id.teamSize
  | 0x003 => BitVec.ofNat 64 (h.id.space.toNat + h.id.part.toNat * 2 ^ 14)
  | 0x004 => zext64 h.sc.prio
  | 0x008 => s.clock.now
  | 0x009 => vget s.clock.cycle h.id.facet 0
  | 0x010 => h.ln.vl
  | 0x011 => BitVec.ofNat 64 h.ln.vlmax
  | 0x012 => zext64 h.ln.vstart
  | 0x013 => h.vcp
  | 0x014 => h.ln.stat
  | 0x018 => zext64 h.sc.frm
  | 0x019 => zext64 h.sc.fflags
  | 0x01A => h.sc.srseed
  | 0x01B => h.sc.srctr
  | 0x020 => h.sc.dim0
  | 0x021 => h.sc.dim1
  | 0x022 => h.sc.dim2
  | 0x028 => h.cpstat
  | _ => BitVec.ofNat 64 capBase

/-- A trap, fault-log or privileged register (Tables 15.3, 15.5, 15.7). -/
def readSuper (s : State) (n : Nat) : Word :=
  let t := s.hart.tr
  match n with
  | 0x030 => t.cause
  | 0x031 => t.pc
  | 0x032 => t.val
  | 0x033 => zext64 t.elem
  | 0x034 => (s.space s.sp).flog 0
  | 0x035 => (s.space s.sp).flog 1
  | 0x036 => (s.space s.sp).flog 2
  | 0x037 => s.hart.sc.iseq
  | 0x100 => s.hart.tstat
  | 0x101 => t.npc
  | 0x102 => zext64 t.record
  | 0x108 => zext64 t.vqn
  | 0x109 => zext64 t.vqsel
  | _ => if n < 0x110 then vget t.save (n - 0x104) 0 else t.vqd (n - 0x110)

/-- The value of a register that Table 4.12 assigns. -/
def readSys (s : State) (n : Nat) : Word :=
  if (0x030 ≤ n && n ≤ 0x037) || 0x100 ≤ n then readSuper s n else readUser s n

/-! ## Writing -/

/-- Change the scalar registers of the current hart. -/
def State.onSc (s : State) (f : Scalars → Scalars) : State := s.withHart { s.hart with sc := f s.hart.sc }

/-- Change the trap registers of the current hart. -/
def State.onTr (s : State) (f : TrapRegs → TrapRegs) : State := s.withHart { s.hart with tr := f s.hart.tr }

/-- Change the lane registers of the current hart. -/
def State.onLn (s : State) (f : Lanes → Lanes) : State := s.withHart { s.hart with ln := f s.hart.ln }

/-- A write outside the trap and privileged groups; a register or field that accepts none is unchanged (R5, R52, R166,
R286, R296). -/
def writeUser (s : State) (n : Nat) (v : Word) : State :=
  match n with
  | 0x004 => if natBits v.toNat 0 2 < s.hart.sc.prio.toNat then s else s.onSc (fun c => { c with prio := v.setWidth 2 })
  | 0x010 => s.onLn (fun l => { l with trim := v.extractLsb' 32 15, tv := v.getLsbD 63 })
  | 0x012 => s.onLn (fun l => { l with vstart := v.setWidth 16 })
  | 0x018 => if 5 ≤ natBits v.toNat 0 3 then s else s.onSc (fun c => { c with frm := v.setWidth 3 })
  | 0x019 => s.onSc (fun c => { c with fflags := v.setWidth 5 })
  | 0x01A => s.onSc (fun c => { c with srseed := v })
  | 0x01B => s.onSc (fun c => { c with srctr := v })
  | 0x020 => s.onSc (fun c => { c with dim0 := (v.setWidth 61).setWidth 64 })
  | 0x021 => s.onSc (fun c => { c with dim1 := (v.setWidth 62).setWidth 64 })
  | 0x022 => s.onSc (fun c => { c with dim2 := (v.setWidth 61).setWidth 64 })
  | 0x028 => s.onSc (fun c => { c with cpBnd := c.cpBnd &&& ~~~(v.setWidth 16) })
  | _ => s

/-- An image entry with a doubleword written (Table 15.5). -/
def VqEntry.write (e : VqEntry) (k : Nat) (v : Word) : VqEntry :=
  match k with
  | 0 => { e with word := v.setWidth 32 }
  | 1 => { e with addr := v.setWidth 56 }
  | 2 => { e with seq := v }
  | 3 => { e with opa := v }
  | 4 => { e with opb := v }
  | 5 => { e with dim0 := v }
  | 6 => { e with dim1 := v }
  | _ => { e with dim2 := v }

/-- A write of the fault-log registers (Table 15.7): a write of FLOGBASE sets HEAD and TAIL to 0. -/
def writeFlog (s : State) (k : Nat) (v : Word) : State :=
  let x := s.space s.sp
  match k with
  | 0 => s.setSpace { x with logsz := v.setWidth 4, logBase := v.extractLsb' 12 44, logHead := 0, logTail := 0 }
  | 1 => s.setSpace { x with logLost := x.logLost && !v.getLsbD 32 }
  | _ => s.setSpace { x with logTail := v.setWidth 32 }

/-- A write of a trap, fault-log or privileged register in handler mode (R352, R355). -/
def writeSuper (s : State) (n : Nat) (v : Word) : State :=
  match n with
  | 0x030 => s.onTr (fun t => { t with code := v.setWidth 8, async := v.getLsbD 8, vq := v.getLsbD 9 })
  | 0x031 => s.onTr (fun t => { t with pc := v })
  | 0x032 => s.onTr (fun t => { t with val := v })
  | 0x033 => s.onTr (fun t => { t with elem := v.setWidth 16 })
  | 0x034 => writeFlog s 0 v
  | 0x035 => writeFlog s 1 v
  | 0x036 => writeFlog s 2 v
  | 0x037 => s
  | 0x100 => s.onTr (fun t => { t with voff := v.getLsbD 0 })
  | 0x101 => s.onTr (fun t => { t with npc := v })
  | 0x102 => s.onTr (fun t => { t with record := v.setWidth 56 })
  | 0x108 => if 64 < natBits v.toNat 0 7 then s else s.onTr (fun t => { t with vqn := v.setWidth 7 })
  | 0x109 => s.onTr (fun t => { t with vqsel := v.setWidth 6 })
  | _ =>
    if n < 0x110 then s.onTr (fun t => { t with save := vset t.save (n - 0x104) v })
    else s.onTr (fun t =>
      { t with image := vset t.image t.vqsel.toNat ((vget t.image t.vqsel.toNat VqEntry.zero).write (n - 0x110) v) })

/-- A write of a register that Table 4.12 assigns. Outside handler mode the trap and fault-log registers accept no write
but that of LOST (R355, R362). -/
def writeSys (s : State) (n : Nat) (v : Word) : State :=
  if (0x030 ≤ n && n ≤ 0x037) || 0x100 ≤ n then
    (if s.hart.tr.hm || n == 0x035 then writeSuper s n v else s)
  else writeUser s n v

/-! ## The instructions (R365) -/

/-- The registers whose accesses wait for the vector queue (R365). -/
def sysWaits (n : Nat) : Bool := n == 0x010 || n == 0x012 || (0x018 ≤ n && n ≤ 0x01B)

/-- A number that raises Illegal at decode: unassigned, or 0x100 to 0x1FF outside handler mode (R98, R365). -/
def sysRefused (s : State) (n : BitVec 11) : Bool :=
  !sysRegAssigned n || (0x100 ≤ n.toNat && n.toNat ≤ 0x1FF && !s.hart.tr.hm)

/-- Illegal raised at decode: the instruction takes no number (R356). -/
def illegalWord (s : State) (val : Nat) : Out :=
  .next (takeTrap s { code := 0x01, pc := s.hart.sc.pc, val := BitVec.ofNat 64 val, seq := s.hart.sc.iseq, counted := false })

/-- The word of a SYS instruction (R365). -/
def sysWord (d a f3 imm : Nat) : Nat := 0x34000000 + d * 2 ^ 20 + a * 2 ^ 14 + f3 * 2 ^ 11 + imm

/-- Go on at once, or when every earlier entry of the queue has committed. -/
def afterQueueIf (w : Bool) (s : State) (k : Out) : Out := if w then afterQueue s k else k

/-- `sysrd` (R365). -/
def execSysrd (d : GReg) (n : BitVec 11) (s : State) : Out :=
  if sysRefused s n then illegalWord s (sysWord d.toNat 0 0 n.toNat)
  else afterQueueIf (sysWaits n.toNat) s (writeNext s d (readSys s n.toNat))

/-- `syswr` (R365). -/
def execSyswr (a : GReg) (n : BitVec 11) (s : State) : Out :=
  if sysRefused s n then illegalWord s (sysWord 0 a.toNat 1 n.toNat)
  else afterQueueIf (sysWaits n.toNat) s (.next ((writeSys s n.toNat (s.g a)).advance 4))

end Sys2Proof.Machine
end

