-- ==== Sys2Proof/Machine/VecCmp.lean ====
section
/-! DEFINITION. Vector compares: VCMP (R201, R202). -/

namespace Sys2Proof.Machine

/-- An ordering or equality of two elements, with NV (R202): `nan` is its value for a NaN operand. -/
def elemRel (ordering nan : Bool) (test : Int → Bool) (f : Fmt) (a b : Nat) : Bool × BitVec 5 :=
  if isFloat f then
    let x := unpack f a
    let y := unpack f b
    if isNan x || isNan y then (nan, if ordering || isSnan x || isSnan y then flagNV else 0) else (test (fpCompare x y), 0)
  else (test (intVal f a - intVal f b), 0)

/-- Either element is a NaN (R202). -/
def elemUnordered (f : Fmt) (a b : Nat) : Bool × BitVec 5 :=
  let x := unpack f a
  let y := unpack f b
  (isNan x || isNan y, if isSnan x || isSnan y then flagNV else 0)

/-- The classes are equal (R202). -/
def elemSameClass (f : Fmt) (a b : Nat) : Bool × BitVec 5 := (fpClass f a == fpClass f b, 0)

/-- The bit of a mask for the class of a (R202). -/
def elemClassBit (f : Fmt) (a mask : Nat) : Bool × BitVec 5 := (fpClass f a &&& mask != 0, 0)

/-- Execute a compare (R201): `b j` is the second operand of element j, `tb` the tag for R191's TRAPVAL. -/
def runCmp (s : State) (e : VqEntry) (d : PReg) (a : VReg) (tb : Fmt) (ok : Bool) (b : Nat → Nat) (p : PReg) (z : Bool)
    (rel : Fmt → Nat → Nat → Bool × BitVec 5) : HeadRes :=
  let h := s.hart
  let t := h.tag a
  let w := width t
  granting s e <|
    if ok then
      let res := fun (j : Nat) => rel t ((h.reg a).elem w j) (b j)
      let act := (List.range (h.elems w)).filter (fun j => h.active p w j)
      let flags := act.foldl (fun f j => f ||| (res j).2) (0 : BitVec 5)
      let bits := predOf h (fun j =>
        if h.elems w ≤ j then false
        else if h.active p w j then (res j).1
        else if z then false
        else h.pbit d j)
      commitHart s ((h.setPred d bits).raise flags)
    else formatTrap s e .none t tb

/-- The V3 form: the tags must be equal (R201). -/
def cmpV (set : Fmt → Bool) (rel : Fmt → Nat → Nat → Bool × BitVec 5) (d : PReg) (a b : VReg) (p : PReg) (z : Bool)
    (e : VqEntry) (s : State) : HeadRes :=
  let t := s.hart.tag a
  runCmp s e d a (s.hart.tag b) (set t && s.hart.tag b == t) (fun j => (s.hart.reg b).elem (width t) j) p z rel

/-- The VX form (R192, R201). -/
def cmpX (set : Fmt → Bool) (rel : Fmt → Nat → Nat → Bool × BitVec 5) (d : PReg) (a : VReg) (p : PReg) (z : Bool)
    (e : VqEntry) (s : State) : HeadRes :=
  let t := s.hart.tag a
  runCmp s e d a .none (set t) (fun _ => lowBits e.opa (width t)) p z rel

/-- `vcmpeq` at issue (R202). -/
def execVcmpeq (d : PReg) (a b : VReg) (p : PReg) (z : Bool) (s : State) : Out := issue (.vcmpeq d a b p z) 0 0 s

/-- `vcmpeq` at the head of the queue (R202). -/
def headVcmpeq (d : PReg) (a b : VReg) (p : PReg) (z : Bool) (e : VqEntry) (s : State) : HeadRes :=
  cmpV tagA (elemRel false false (fun c => c == 0)) d a b p z e s

/-- `vcmpne` at issue (R202). -/
def execVcmpne (d : PReg) (a b : VReg) (p : PReg) (z : Bool) (s : State) : Out := issue (.vcmpne d a b p z) 0 0 s

/-- `vcmpne` at the head of the queue (R202). -/
def headVcmpne (d : PReg) (a b : VReg) (p : PReg) (z : Bool) (e : VqEntry) (s : State) : HeadRes :=
  cmpV tagA (elemRel false true (fun c => c != 0)) d a b p z e s

/-- `vcmplt` at issue (R202). -/
def execVcmplt (d : PReg) (a b : VReg) (p : PReg) (z : Bool) (s : State) : Out := issue (.vcmplt d a b p z) 0 0 s

/-- `vcmplt` at the head of the queue (R202). -/
def headVcmplt (d : PReg) (a b : VReg) (p : PReg) (z : Bool) (e : VqEntry) (s : State) : HeadRes :=
  cmpV tagA (elemRel true false (fun c => decide (c < 0))) d a b p z e s

/-- `vcmple` at issue (R202). -/
def execVcmple (d : PReg) (a b : VReg) (p : PReg) (z : Bool) (s : State) : Out := issue (.vcmple d a b p z) 0 0 s

/-- `vcmple` at the head of the queue (R202). -/
def headVcmple (d : PReg) (a b : VReg) (p : PReg) (z : Bool) (e : VqEntry) (s : State) : HeadRes :=
  cmpV tagA (elemRel true false (fun c => decide (c ≤ 0))) d a b p z e s

/-- `vcmpgt` at issue (R202). -/
def execVcmpgt (d : PReg) (a b : VReg) (p : PReg) (z : Bool) (s : State) : Out := issue (.vcmpgt d a b p z) 0 0 s

/-- `vcmpgt` at the head of the queue (R202). -/
def headVcmpgt (d : PReg) (a b : VReg) (p : PReg) (z : Bool) (e : VqEntry) (s : State) : HeadRes :=
  cmpV tagA (elemRel true false (fun c => decide (0 < c))) d a b p z e s

/-- `vcmpge` at issue (R202). -/
def execVcmpge (d : PReg) (a b : VReg) (p : PReg) (z : Bool) (s : State) : Out := issue (.vcmpge d a b p z) 0 0 s

/-- `vcmpge` at the head of the queue (R202). -/
def headVcmpge (d : PReg) (a b : VReg) (p : PReg) (z : Bool) (e : VqEntry) (s : State) : HeadRes :=
  cmpV tagA (elemRel true false (fun c => decide (0 ≤ c))) d a b p z e s

/-- `vcmpuo` at issue (R202). -/
def execVcmpuo (d : PReg) (a b : VReg) (p : PReg) (z : Bool) (s : State) : Out := issue (.vcmpuo d a b p z) 0 0 s

/-- `vcmpuo` at the head of the queue (R202). -/
def headVcmpuo (d : PReg) (a b : VReg) (p : PReg) (z : Bool) (e : VqEntry) (s : State) : HeadRes :=
  cmpV isFloat elemUnordered d a b p z e s

/-- `vcmpcls` at issue (R202). -/
def execVcmpcls (d : PReg) (a b : VReg) (p : PReg) (z : Bool) (s : State) : Out := issue (.vcmpcls d a b p z) 0 0 s

/-- `vcmpcls` at the head of the queue (R202). -/
def headVcmpcls (d : PReg) (a b : VReg) (p : PReg) (z : Bool) (e : VqEntry) (s : State) : HeadRes :=
  cmpV isFloat elemSameClass d a b p z e s

/-- `vcmpeq` at issue (R192, R202). -/
def execVcmpeqVx (d : PReg) (a : VReg) (g : GReg) (p : PReg) (z : Bool) (s : State) : Out := issue (.vcmpeqVx d a g p z) (s.g g) 0 s

/-- `vcmpeq` at the head of the queue (R192, R202). -/
def headVcmpeqVx (d : PReg) (a : VReg) (_ : GReg) (p : PReg) (z : Bool) (e : VqEntry) (s : State) : HeadRes :=
  cmpX tagA (elemRel false false (fun c => c == 0)) d a p z e s

/-- `vcmpne` at issue (R192, R202). -/
def execVcmpneVx (d : PReg) (a : VReg) (g : GReg) (p : PReg) (z : Bool) (s : State) : Out := issue (.vcmpneVx d a g p z) (s.g g) 0 s

/-- `vcmpne` at the head of the queue (R192, R202). -/
def headVcmpneVx (d : PReg) (a : VReg) (_ : GReg) (p : PReg) (z : Bool) (e : VqEntry) (s : State) : HeadRes :=
  cmpX tagA (elemRel false true (fun c => c != 0)) d a p z e s

/-- `vcmplt` at issue (R192, R202). -/
def execVcmpltVx (d : PReg) (a : VReg) (g : GReg) (p : PReg) (z : Bool) (s : State) : Out := issue (.vcmpltVx d a g p z) (s.g g) 0 s

/-- `vcmplt` at the head of the queue (R192, R202). -/
def headVcmpltVx (d : PReg) (a : VReg) (_ : GReg) (p : PReg) (z : Bool) (e : VqEntry) (s : State) : HeadRes :=
  cmpX tagA (elemRel true false (fun c => decide (c < 0))) d a p z e s

/-- `vcmple` at issue (R192, R202). -/
def execVcmpleVx (d : PReg) (a : VReg) (g : GReg) (p : PReg) (z : Bool) (s : State) : Out := issue (.vcmpleVx d a g p z) (s.g g) 0 s

/-- `vcmple` at the head of the queue (R192, R202). -/
def headVcmpleVx (d : PReg) (a : VReg) (_ : GReg) (p : PReg) (z : Bool) (e : VqEntry) (s : State) : HeadRes :=
  cmpX tagA (elemRel true false (fun c => decide (c ≤ 0))) d a p z e s

/-- `vcmpgt` at issue (R192, R202). -/
def execVcmpgtVx (d : PReg) (a : VReg) (g : GReg) (p : PReg) (z : Bool) (s : State) : Out := issue (.vcmpgtVx d a g p z) (s.g g) 0 s

/-- `vcmpgt` at the head of the queue (R192, R202). -/
def headVcmpgtVx (d : PReg) (a : VReg) (_ : GReg) (p : PReg) (z : Bool) (e : VqEntry) (s : State) : HeadRes :=
  cmpX tagA (elemRel true false (fun c => decide (0 < c))) d a p z e s

/-- `vcmpge` at issue (R192, R202). -/
def execVcmpgeVx (d : PReg) (a : VReg) (g : GReg) (p : PReg) (z : Bool) (s : State) : Out := issue (.vcmpgeVx d a g p z) (s.g g) 0 s

/-- `vcmpge` at the head of the queue (R192, R202). -/
def headVcmpgeVx (d : PReg) (a : VReg) (_ : GReg) (p : PReg) (z : Bool) (e : VqEntry) (s : State) : HeadRes :=
  cmpX tagA (elemRel true false (fun c => decide (0 ≤ c))) d a p z e s

/-- `vcmpuo` at issue (R192, R202). -/
def execVcmpuoVx (d : PReg) (a : VReg) (g : GReg) (p : PReg) (z : Bool) (s : State) : Out := issue (.vcmpuoVx d a g p z) (s.g g) 0 s

/-- `vcmpuo` at the head of the queue (R192, R202). -/
def headVcmpuoVx (d : PReg) (a : VReg) (_ : GReg) (p : PReg) (z : Bool) (e : VqEntry) (s : State) : HeadRes :=
  cmpX isFloat elemUnordered d a p z e s

/-- `vcmpcls` at issue (R202). -/
def execVcmpclsVx (d : PReg) (a : VReg) (g : GReg) (p : PReg) (z : Bool) (s : State) : Out := issue (.vcmpclsVx d a g p z) (s.g g) 0 s

/-- `vcmpcls` at the head of the queue (R202). -/
def headVcmpclsVx (d : PReg) (a : VReg) (_ : GReg) (p : PReg) (z : Bool) (e : VqEntry) (s : State) : HeadRes :=
  runCmp s e d a .none (isFloat (s.hart.tag a)) (fun _ => e.opa.toNat % 1024) p z elemClassBit

end Sys2Proof.Machine
end

