-- ==== Sys2Proof/Machine/VecCvt.lean ====
section
/-! DEFINITION. Conversions: VCVT (R177 to R180, R206, R207). -/

namespace Sys2Proof.Machine

/-- conv of R207 for KIND 0: R177, R178, R179 or R180 by the kinds of the two formats. -/
def convert (src dst : Fmt) (rd : Rounding) (sat : Bool) (x : Nat) : FpRes :=
  if isFloat src then (if isFloat dst then cvtFloat src dst rd sat x else cvtToInt src dst rd x)
  else if isFloat dst then cvtFromInt dst rd sat (intVal src x)
  else (cvtInt src dst sat x, 0)

/-- Where a conversion reads and writes (R207): for destination index j of part `part`, its source index; none where
the part does not reach it. -/
def cvtSource (ws wt part m j : Nat) : Option Nat :=
  if wt < ws then (if part * m ≤ j && j < part * m + m then some (j - part * m) else none)
  else if ws < wt then (if j < m then some (part * m + j) else none)
  else if j < m then some j else none

/-- Execute VCVT (R207). `same`: KIND = 1, which requires equal widths. A destination element is active by body and predicate alone
(R189), also outside the part: one that rounds stochastically advances SRCTR then (R194). -/
def runCvt (d a : VReg) (t : Fmt) (p : PReg) (z : Bool) (part : Nat) (same : Bool) (conv : Fmt → Nat → Nat → FpRes)
    (stochastic : Bool) (e : VqEntry) (s : State) : HeadRes :=
  let h := s.hart
  let src := h.tag a
  let ws := width src
  let wt := width t
  let old := h.reg d
  let partOk := (wt != ws || part == 0) && (!(wt < ws) || part < ws / wt) && (!(ws < wt) || part < wt / ws)
  let mergeOk := (z && !(wt < ws)) || old.tag == t || old.tag == .none
  granting s e <|
    if tagA src && (!same || wt == ws) && partOk && mergeOk then
      let m := h.ln.len / max ws wt
      let res := fun (j : Nat) => match cvtSource ws wt part m j with
        | some k => if h.active p wt j then some (conv src j ((h.reg a).elem ws k)) else none
        | none => none
      let all := (List.range (h.elems wt)).map res
      let flags := all.foldl (fun f r => f ||| (r.map (fun x => x.2)).getD 0) (0 : BitVec 5)
      let r := vecOf h t (fun j => match all[j]? with
        | some (some x) => x.1
        | _ => if z && (cvtSource ws wt part m j).isSome then 0 else old.elem wt j)
      commitHart s (((h.setReg d r).raise flags).drew (stochastic && (List.range (h.elems wt)).any (h.active p wt)))
    else formatTrap s e old.tag src .none

/-- The mode of a VCVT (R166, R207): RM 0 to 2, or FRM. -/
def cvtMode (h : Hart) (r : BitVec 2) : Rnd :=
  match r.toNat with
  | 0 => .rne | 1 => .rtz | 2 => .sr | _ => h.mode

/-- `vcvt` at issue (R206). -/
def execVcvt (d a : VReg) (t : Fmt) (p : PReg) (z : Bool) (k : BitVec 2) (sat : Bool) (r : BitVec 2) (s : State) : Out :=
  issue (.vcvt d a t p z k sat r) 0 0 s

/-- `vcvt` at the head of the queue (R207). -/
def headVcvt (d a : VReg) (t : Fmt) (p : PReg) (z : Bool) (k : BitVec 2) (sat : Bool) (r : BitVec 2) (e : VqEntry)
    (s : State) : HeadRes :=
  let m := cvtMode s.hart r
  runCvt d a t p z k.toNat false (fun src j x => convert src t (vecRounding s.hart m j) sat x) (m == .sr) e s

/-- `vcvt.bits` at issue (R206). -/
def execVcvtBits (d a : VReg) (t : Fmt) (p : PReg) (z : Bool) (s : State) : Out := issue (.vcvtBits d a t p z) 0 0 s

/-- `vcvt.bits` at the head of the queue (R207). -/
def headVcvtBits (d a : VReg) (t : Fmt) (p : PReg) (z : Bool) (e : VqEntry) (s : State) : HeadRes :=
  runCvt d a t p z 0 true (fun _ _ x => (x, 0)) false e s

end Sys2Proof.Machine
end

