-- ==== Sys2Proof/Machine/VecPerm.lean ====
section
/-! DEFINITION. Permutes: VPERM (R204, R205). -/

namespace Sys2Proof.Machine

/-- Element k of a register's body; a position outside the body supplies 0 (R205). -/
def bodyElem (h : Hart) (a : VReg) (w k : Nat) : Nat := if k < h.cnt w then (h.reg a).elem w k else 0

/-- A permute that writes vd in the format of vs1 (R204). -/
def runPerm (s : State) (e : VqEntry) (d a : VReg) (tb : Fmt) (ok : Bool) (p : PReg) (z : Bool) (f : Nat → Nat) : HeadRes :=
  let t := s.hart.tag a
  runVec s e d t tb { ok := tagA t && ok, fmt := t, zero := z, pred := p, result := fun j => (f j, 0) }

/-- For each index up to n, how many of the indices below it satisfy a test. -/
def countsBelow (n : Nat) (f : Nat → Bool) : Array Nat :=
  ((List.range n).foldl (fun acc j => (acc.1.push acc.2, if f j then acc.2 + 1 else acc.2)) (#[], 0)).1

/-- The indices below n that satisfy a test, in order. -/
def selected (n : Nat) (f : Nat → Bool) : Array Nat := ((List.range n).filter f).toArray

/-- `vslideup` at issue (R205). -/
def execVslideup (d a : VReg) (g : GReg) (p : PReg) (z : Bool) (s : State) : Out := issue (.vslideup d a g p z) (s.g g) 0 s

/-- `vslideup` at the head of the queue (R205). -/
def headVslideup (d a : VReg) (_ : GReg) (p : PReg) (z : Bool) (e : VqEntry) (s : State) : HeadRes :=
  let w := width (s.hart.tag a)
  runPerm s e d a .none true p z (fun j => if e.opa.toNat ≤ j then bodyElem s.hart a w (j - e.opa.toNat) else 0)

/-- `vslidedn` at issue (R205). -/
def execVslidedn (d a : VReg) (g : GReg) (p : PReg) (z : Bool) (s : State) : Out := issue (.vslidedn d a g p z) (s.g g) 0 s

/-- `vslidedn` at the head of the queue (R205). -/
def headVslidedn (d a : VReg) (_ : GReg) (p : PReg) (z : Bool) (e : VqEntry) (s : State) : HeadRes :=
  let w := width (s.hart.tag a)
  runPerm s e d a .none true p z (fun j => bodyElem s.hart a w (j + e.opa.toNat))

/-- `vrgather` at issue (R205). -/
def execVrgather (d a b : VReg) (p : PReg) (z : Bool) (s : State) : Out := issue (.vrgather d a b p z) 0 0 s

/-- `vrgather` at the head of the queue (R205). -/
def headVrgather (d a b : VReg) (p : PReg) (z : Bool) (e : VqEntry) (s : State) : HeadRes :=
  let w := width (s.hart.tag a)
  let tb := s.hart.tag b
  runPerm s e d a tb (isUnsigned tb && width tb == w) p z (fun j => bodyElem s.hart a w ((s.hart.reg b).elem w j))

/-- `vcompress` at issue (R205). -/
def execVcompress (d a : VReg) (p : PReg) (s : State) : Out := issue (.vcompress d a p) 0 0 s

/-- `vcompress` at the head of the queue (R205). -/
def headVcompress (d a : VReg) (p : PReg) (e : VqEntry) (s : State) : HeadRes :=
  let h := s.hart
  let w := width (h.tag a)
  let src := selected (h.cnt w) (fun j => h.pbit p j)
  runPerm s e d a .none true 0 false (fun j => match src[j]? with
    | some k => (h.reg a).elem w k
    | none => 0)

/-- `vexpand` at issue (R205). -/
def execVexpand (d a : VReg) (p : PReg) (z : Bool) (s : State) : Out := issue (.vexpand d a p z) 0 0 s

/-- `vexpand` at the head of the queue (R205). -/
def headVexpand (d a : VReg) (p : PReg) (z : Bool) (e : VqEntry) (s : State) : HeadRes :=
  let h := s.hart
  let w := width (h.tag a)
  let below := countsBelow (h.cnt w) (fun j => h.active p w j)
  runPerm s e d a .none true p z (fun j => bodyElem h a w (below[j]?.getD 0))

/-- `viota` at issue (R205). -/
def execViota (d : VReg) (p : PReg) (z : Bool) (s : State) : Out := issue (.viota d p z) 0 0 s

/-- `viota` at the head of the queue (R205). -/
def headViota (d : VReg) (p : PReg) (z : Bool) (e : VqEntry) (s : State) : HeadRes :=
  let h := s.hart
  let t := h.tag d
  let w := width t
  let below := countsBelow (h.cnt w) (fun j => h.active p w j)
  runVec s e d .none .none
    { ok := isInt t, fmt := t, zero := z, pred := p, result := fun j => (below[j]?.getD 0 % 2 ^ w, 0) }

/-- `vzip` at issue (R205). -/
def execVzip (d a b : VReg) (p : PReg) (z : Bool) (s : State) : Out := issue (.vzip d a b p z) 0 0 s

/-- `vzip` at the head of the queue (R205). -/
def headVzip (d a b : VReg) (p : PReg) (z : Bool) (e : VqEntry) (s : State) : HeadRes :=
  let w := width (s.hart.tag a)
  let tb := s.hart.tag b
  runPerm s e d a tb (tb == s.hart.tag a) p z (fun j =>
    if j % 2 = 0 then bodyElem s.hart a w (j / 2) else bodyElem s.hart b w ((j - 1) / 2))

/-- `vunzip` at issue (R205). -/
def execVunzip (d a b : VReg) (p : PReg) (z : Bool) (s : State) : Out := issue (.vunzip d a b p z) 0 0 s

/-- `vunzip` at the head of the queue (R205). -/
def headVunzip (d a b : VReg) (p : PReg) (z : Bool) (e : VqEntry) (s : State) : HeadRes :=
  let w := width (s.hart.tag a)
  let tb := s.hart.tag b
  let half := (s.hart.cnt w + 1) / 2
  runPerm s e d a tb (tb == s.hart.tag a) p z (fun j =>
    if j < half then bodyElem s.hart a w (2 * j) else bodyElem s.hart b w (2 * (j - half)))

/-- `vrev` at issue (R205). -/
def execVrev (d a : VReg) (p : PReg) (z : Bool) (s : State) : Out := issue (.vrev d a p z) 0 0 s

/-- `vrev` at the head of the queue (R205). -/
def headVrev (d a : VReg) (p : PReg) (z : Bool) (e : VqEntry) (s : State) : HeadRes :=
  let w := width (s.hart.tag a)
  runPerm s e d a .none true p z (fun j => bodyElem s.hart a w (s.hart.cnt w - 1 - j))

end Sys2Proof.Machine
end

