-- ==== Sys2Proof/Machine/VecRed.lean ====
section
/-! DEFINITION. Reductions: VRED (R183 to R187, R203). -/

namespace Sys2Proof.Machine

/-- The tree of R183: pairs half the list apart, with the flags of every operation. -/
def redTree (op : Nat → Nat → FpRes) : Nat → List Nat → BitVec 5 → FpRes
  | 0, xs, fl => (xs.headD 0, fl)
  | k + 1, xs, fl =>
    let h := xs.length / 2
    let ys := List.zipWith op (xs.take h) (xs.drop h)
    redTree op k (ys.map (fun y => y.1)) (ys.foldl (fun f y => f ||| y.2) fl)

/-- The source of a reduction: the active elements, an identity for the others (R183, R184). -/
def redSource (h : Hart) (a : VReg) (p : PReg) (w ident : Nat) : List Nat :=
  (List.range (h.elems w)).map (fun j => if h.active p w j then (h.reg a).elem w j else ident)

/-- Write the result of a reduction (R203). -/
def redWrite (s : State) (d : VReg) (t : Fmt) (r : FpRes) : HeadRes :=
  commitHart s ((s.hart.setReg d (vecOf s.hart t (fun j => if j = 0 then r.1 else 0))).raise r.2)

/-- A tree reduction (R183, R203). -/
def runRed (set : Fmt → Bool) (ident : Fmt → Nat) (op : Fmt → Rounding → Nat → Nat → FpRes) (d a : VReg) (p : PReg)
    (e : VqEntry) (s : State) : HeadRes :=
  let h := s.hart
  let t := h.tag a
  let w := width t
  granting s e <|
    if set t then
      redWrite s d t (redTree (op t (scalarRounding s)) (Nat.log2 (h.elems w)) (redSource h a p w (ident t)) 0)
    else formatTrap s e (h.tag d) t .none

/-- The identity of a sum: −0.0, or 0 (Table 7.11). -/
def sumIdent (f : Fmt) : Nat := if isFloat f then signed f true 0 else 0

/-- The identity of a minimum (Table 7.11). -/
def minIdent (f : Fmt) : Nat := if isFloat f then infinity f false else intPat (width f) (intMax f)

/-- The identity of a maximum (Table 7.11). -/
def maxIdent (f : Fmt) : Nat := if isFloat f then infinity f true else intPat (width f) (intMin f)

/-- All ones (Table 7.11). -/
def onesIdent (f : Fmt) : Nat := 2 ^ width f - 1

/-- The sum in element order (R185). -/
def ordSum (op : Nat → Nat → FpRes) (xs : List Nat) (acc : FpRes) : FpRes :=
  xs.foldl (fun r x => ((op r.1 x).1, r.2 ||| (op r.1 x).2)) acc

/-- The wider format of `vredsum.w`; none where the source raises Format (R186). -/
def widerFmt (f : Fmt) : Option Fmt :=
  match f with
  | .e2m1 | .e4m3 | .e5m2 | .fp16 | .bf16 => some .fp32
  | .fp32 => some .fp64
  | .i8 | .i16 | .i32 => some .i64
  | .n8 | .n16 | .n32 => some .n64
  | _ => none

/-- One element converted exactly to the wider format (R186). -/
def widen (src dst : Fmt) (x : Nat) : FpRes :=
  if isFloat src then cvtFloat src dst { mode := .rne } false x else (intPat (width dst) (intVal src x), 0)

/-- `vredsum` at issue (R203). -/
def execVredsum (d a : VReg) (p : PReg) (s : State) : Out := issue (.vredsum d a p) 0 0 s

/-- `vredsum` at the head of the queue (R203). -/
def headVredsum (d a : VReg) (p : PReg) (e : VqEntry) (s : State) : HeadRes :=
  runRed tagA sumIdent elemAdd d a p e s

/-- `vredmin` at issue (R203). -/
def execVredmin (d a : VReg) (p : PReg) (s : State) : Out := issue (.vredmin d a p) 0 0 s

/-- `vredmin` at the head of the queue (R203). -/
def headVredmin (d a : VReg) (p : PReg) (e : VqEntry) (s : State) : HeadRes :=
  runRed tagA minIdent (elemMinMax false) d a p e s

/-- `vredmax` at issue (R203). -/
def execVredmax (d a : VReg) (p : PReg) (s : State) : Out := issue (.vredmax d a p) 0 0 s

/-- `vredmax` at the head of the queue (R203). -/
def headVredmax (d a : VReg) (p : PReg) (e : VqEntry) (s : State) : HeadRes :=
  runRed tagA maxIdent (elemMinMax true) d a p e s

/-- `vredand` at issue (R203). -/
def execVredand (d a : VReg) (p : PReg) (s : State) : Out := issue (.vredand d a p) 0 0 s

/-- `vredand` at the head of the queue (R203). -/
def headVredand (d a : VReg) (p : PReg) (e : VqEntry) (s : State) : HeadRes :=
  runRed isInt onesIdent (elemBits (fun a b => a &&& b)) d a p e s

/-- `vredor` at issue (R203). -/
def execVredor (d a : VReg) (p : PReg) (s : State) : Out := issue (.vredor d a p) 0 0 s

/-- `vredor` at the head of the queue (R203). -/
def headVredor (d a : VReg) (p : PReg) (e : VqEntry) (s : State) : HeadRes :=
  runRed isInt (fun _ => 0) (elemBits (fun a b => a ||| b)) d a p e s

/-- `vredxor` at issue (R203). -/
def execVredxor (d a : VReg) (p : PReg) (s : State) : Out := issue (.vredxor d a p) 0 0 s

/-- `vredxor` at the head of the queue (R203). -/
def headVredxor (d a : VReg) (p : PReg) (e : VqEntry) (s : State) : HeadRes :=
  runRed isInt (fun _ => 0) (elemBits (fun a b => a ^^^ b)) d a p e s

/-- `vredosum` at issue (R185, R203). -/
def execVredosum (d a : VReg) (p : PReg) (s : State) : Out := issue (.vredosum d a p) 0 0 s

/-- `vredosum` at the head of the queue (R185, R203). -/
def headVredosum (d a : VReg) (p : PReg) (e : VqEntry) (s : State) : HeadRes :=
  let h := s.hart
  let t := h.tag a
  let w := width t
  let xs := ((List.range (h.elems w)).filter (fun j => h.active p w j)).map (fun j => (h.reg a).elem w j)
  granting s e <|
    if tagA t then redWrite s d t (ordSum (elemAdd t (scalarRounding s)) xs (sumIdent t, 0))
    else formatTrap s e (h.tag d) t .none

/-- `vredsum.w` at issue (R186, R203). -/
def execVredsumW (d a : VReg) (p : PReg) (s : State) : Out := issue (.vredsumW d a p) 0 0 s

/-- `vredsum.w` at the head of the queue (R186, R203). -/
def headVredsumW (d a : VReg) (p : PReg) (e : VqEntry) (s : State) : HeadRes :=
  let h := s.hart
  let t := h.tag a
  let w := width t
  granting s e <|
    match widerFmt t with
    | none => formatTrap s e (h.tag d) t .none
    | some u =>
      let ys := (List.range (h.elems w)).map (fun j =>
        if h.active p w j then widen t u ((h.reg a).elem w j) else (sumIdent u, 0))
      let flags := ys.foldl (fun f y => f ||| y.2) (0 : BitVec 5)
      redWrite s d u (redTree (elemAdd u (scalarRounding s)) (Nat.log2 (h.elems w)) (ys.map (fun y => y.1)) flags)

end Sys2Proof.Machine
end

