-- ==== Sys2Proof/Machine/Head.lean ====
section
/-! DEFINITION. The head of the vector queue: the instruction of an entry executes there, and commits or traps (R84, R143,
R145, R357, R359). -/

namespace Sys2Proof.Machine

/-- Execute the instruction of an entry at the head. Only instructions of R144 come here: a word that is none raises Illegal
(R359). -/
def runHead (i : Instr) (e : VqEntry) (s : State) : HeadRes :=
  match i with
  | .vadd x0 x1 x2 x3 x4 => headVadd x0 x1 x2 x3 x4 e s
  | .vsub x0 x1 x2 x3 x4 => headVsub x0 x1 x2 x3 x4 e s
  | .vmul x0 x1 x2 x3 x4 => headVmul x0 x1 x2 x3 x4 e s
  | .vdiv x0 x1 x2 x3 x4 => headVdiv x0 x1 x2 x3 x4 e s
  | .vmin x0 x1 x2 x3 x4 => headVmin x0 x1 x2 x3 x4 e s
  | .vmax x0 x1 x2 x3 x4 => headVmax x0 x1 x2 x3 x4 e s
  | .vfma x0 x1 x2 x3 x4 => headVfma x0 x1 x2 x3 x4 e s
  | .vfms x0 x1 x2 x3 x4 => headVfms x0 x1 x2 x3 x4 e s
  | .vnfma x0 x1 x2 x3 x4 => headVnfma x0 x1 x2 x3 x4 e s
  | .vabs x0 x1 x2 x3 => headVabs x0 x1 x2 x3 e s
  | .vneg x0 x1 x2 x3 => headVneg x0 x1 x2 x3 e s
  | .vsqrt x0 x1 x2 x3 => headVsqrt x0 x1 x2 x3 e s
  | .vand x0 x1 x2 x3 x4 => headVand x0 x1 x2 x3 x4 e s
  | .vor x0 x1 x2 x3 x4 => headVor x0 x1 x2 x3 x4 e s
  | .vxor x0 x1 x2 x3 x4 => headVxor x0 x1 x2 x3 x4 e s
  | .vsll x0 x1 x2 x3 x4 => headVsll x0 x1 x2 x3 x4 e s
  | .vsrl x0 x1 x2 x3 x4 => headVsrl x0 x1 x2 x3 x4 e s
  | .vsra x0 x1 x2 x3 x4 => headVsra x0 x1 x2 x3 x4 e s
  | .vmulh x0 x1 x2 x3 x4 => headVmulh x0 x1 x2 x3 x4 e s
  | .vsadd x0 x1 x2 x3 x4 => headVsadd x0 x1 x2 x3 x4 e s
  | .vssub x0 x1 x2 x3 x4 => headVssub x0 x1 x2 x3 x4 e s
  | .vmov x0 x1 x2 x3 => headVmov x0 x1 x2 x3 e s
  | .vsel x0 x1 x2 x3 => headVsel x0 x1 x2 x3 e s
  | .vexp2 x0 x1 x2 x3 => headVexp2 x0 x1 x2 x3 e s
  | .vlog2 x0 x1 x2 x3 => headVlog2 x0 x1 x2 x3 e s
  | .vrcp x0 x1 x2 x3 => headVrcp x0 x1 x2 x3 e s
  | .vrsqrt x0 x1 x2 x3 => headVrsqrt x0 x1 x2 x3 e s
  | .vclz x0 x1 x2 x3 => headVclz x0 x1 x2 x3 e s
  | .vpopc x0 x1 x2 x3 => headVpopc x0 x1 x2 x3 e s
  | .vaddVx x0 x1 x2 x3 x4 => headVaddVx x0 x1 x2 x3 x4 e s
  | .vsubVx x0 x1 x2 x3 x4 => headVsubVx x0 x1 x2 x3 x4 e s
  | .vmulVx x0 x1 x2 x3 x4 => headVmulVx x0 x1 x2 x3 x4 e s
  | .vdivVx x0 x1 x2 x3 x4 => headVdivVx x0 x1 x2 x3 x4 e s
  | .vminVx x0 x1 x2 x3 x4 => headVminVx x0 x1 x2 x3 x4 e s
  | .vmaxVx x0 x1 x2 x3 x4 => headVmaxVx x0 x1 x2 x3 x4 e s
  | .vfmaVx x0 x1 x2 x3 x4 => headVfmaVx x0 x1 x2 x3 x4 e s
  | .vfmsVx x0 x1 x2 x3 x4 => headVfmsVx x0 x1 x2 x3 x4 e s
  | .vnfmaVx x0 x1 x2 x3 x4 => headVnfmaVx x0 x1 x2 x3 x4 e s
  | .vandVx x0 x1 x2 x3 x4 => headVandVx x0 x1 x2 x3 x4 e s
  | .vorVx x0 x1 x2 x3 x4 => headVorVx x0 x1 x2 x3 x4 e s
  | .vxorVx x0 x1 x2 x3 x4 => headVxorVx x0 x1 x2 x3 x4 e s
  | .vsllVx x0 x1 x2 x3 x4 => headVsllVx x0 x1 x2 x3 x4 e s
  | .vsrlVx x0 x1 x2 x3 x4 => headVsrlVx x0 x1 x2 x3 x4 e s
  | .vsraVx x0 x1 x2 x3 x4 => headVsraVx x0 x1 x2 x3 x4 e s
  | .vmulhVx x0 x1 x2 x3 x4 => headVmulhVx x0 x1 x2 x3 x4 e s
  | .vsaddVx x0 x1 x2 x3 x4 => headVsaddVx x0 x1 x2 x3 x4 e s
  | .vssubVx x0 x1 x2 x3 x4 => headVssubVx x0 x1 x2 x3 x4 e s
  | .vselVx x0 x1 x2 x3 => headVselVx x0 x1 x2 x3 e s
  | .vbcast x0 x1 x2 x3 => headVbcast x0 x1 x2 x3 e s
  | .vaddi x0 x1 x2 x3 x4 => headVaddi x0 x1 x2 x3 x4 e s
  | .vslli x0 x1 x2 x3 x4 => headVslli x0 x1 x2 x3 x4 e s
  | .vsrli x0 x1 x2 x3 x4 => headVsrli x0 x1 x2 x3 x4 e s
  | .vsrai x0 x1 x2 x3 x4 => headVsrai x0 x1 x2 x3 x4 e s
  | .vandi x0 x1 x2 x3 x4 => headVandi x0 x1 x2 x3 x4 e s
  | .vori x0 x1 x2 x3 x4 => headVori x0 x1 x2 x3 x4 e s
  | .vxori x0 x1 x2 x3 x4 => headVxori x0 x1 x2 x3 x4 e s
  | .vcmpeq x0 x1 x2 x3 x4 => headVcmpeq x0 x1 x2 x3 x4 e s
  | .vcmpne x0 x1 x2 x3 x4 => headVcmpne x0 x1 x2 x3 x4 e s
  | .vcmplt x0 x1 x2 x3 x4 => headVcmplt x0 x1 x2 x3 x4 e s
  | .vcmple x0 x1 x2 x3 x4 => headVcmple x0 x1 x2 x3 x4 e s
  | .vcmpgt x0 x1 x2 x3 x4 => headVcmpgt x0 x1 x2 x3 x4 e s
  | .vcmpge x0 x1 x2 x3 x4 => headVcmpge x0 x1 x2 x3 x4 e s
  | .vcmpuo x0 x1 x2 x3 x4 => headVcmpuo x0 x1 x2 x3 x4 e s
  | .vcmpcls x0 x1 x2 x3 x4 => headVcmpcls x0 x1 x2 x3 x4 e s
  | .vcmpeqVx x0 x1 x2 x3 x4 => headVcmpeqVx x0 x1 x2 x3 x4 e s
  | .vcmpneVx x0 x1 x2 x3 x4 => headVcmpneVx x0 x1 x2 x3 x4 e s
  | .vcmpltVx x0 x1 x2 x3 x4 => headVcmpltVx x0 x1 x2 x3 x4 e s
  | .vcmpleVx x0 x1 x2 x3 x4 => headVcmpleVx x0 x1 x2 x3 x4 e s
  | .vcmpgtVx x0 x1 x2 x3 x4 => headVcmpgtVx x0 x1 x2 x3 x4 e s
  | .vcmpgeVx x0 x1 x2 x3 x4 => headVcmpgeVx x0 x1 x2 x3 x4 e s
  | .vcmpuoVx x0 x1 x2 x3 x4 => headVcmpuoVx x0 x1 x2 x3 x4 e s
  | .vcmpclsVx x0 x1 x2 x3 x4 => headVcmpclsVx x0 x1 x2 x3 x4 e s
  | .vredsum x0 x1 x2 => headVredsum x0 x1 x2 e s
  | .vredosum x0 x1 x2 => headVredosum x0 x1 x2 e s
  | .vredmin x0 x1 x2 => headVredmin x0 x1 x2 e s
  | .vredmax x0 x1 x2 => headVredmax x0 x1 x2 e s
  | .vredand x0 x1 x2 => headVredand x0 x1 x2 e s
  | .vredor x0 x1 x2 => headVredor x0 x1 x2 e s
  | .vredxor x0 x1 x2 => headVredxor x0 x1 x2 e s
  | .vredsumW x0 x1 x2 => headVredsumW x0 x1 x2 e s
  | .vslideup x0 x1 x2 x3 x4 => headVslideup x0 x1 x2 x3 x4 e s
  | .vslidedn x0 x1 x2 x3 x4 => headVslidedn x0 x1 x2 x3 x4 e s
  | .vrgather x0 x1 x2 x3 x4 => headVrgather x0 x1 x2 x3 x4 e s
  | .vcompress x0 x1 x2 => headVcompress x0 x1 x2 e s
  | .vexpand x0 x1 x2 x3 => headVexpand x0 x1 x2 x3 e s
  | .viota x0 x1 x2 => headViota x0 x1 x2 e s
  | .vzip x0 x1 x2 x3 x4 => headVzip x0 x1 x2 x3 x4 e s
  | .vunzip x0 x1 x2 x3 x4 => headVunzip x0 x1 x2 x3 x4 e s
  | .vrev x0 x1 x2 x3 => headVrev x0 x1 x2 x3 e s
  | .vcvt x0 x1 x2 x3 x4 x5 x6 x7 => headVcvt x0 x1 x2 x3 x4 x5 x6 x7 e s
  | .vcvtBits x0 x1 x2 x3 x4 => headVcvtBits x0 x1 x2 x3 x4 e s
  | .setvl x0 x1 x2 => headSetvl x0 x1 x2 e s
  | .vcfg x0 x1 => headVcfg x0 x1 e s
  | .vmvg x0 x1 x2 => headVmvg x0 x1 x2 e s
  | .vins x0 x1 x2 => headVins x0 x1 x2 e s
  | .vfree => headVfree e s
  | .vld x0 x1 x2 x3 x4 => headVld x0 x1 x2 x3 x4 e s
  | .vlds x0 x1 x2 x3 x4 => headVlds x0 x1 x2 x3 x4 e s
  | .vldx x0 x1 x2 x3 x4 => headVldx x0 x1 x2 x3 x4 e s
  | .vldff x0 x1 x2 x3 x4 => headVldff x0 x1 x2 x3 x4 e s
  | .vst x0 x1 x2 x3 x4 => headVst x0 x1 x2 x3 x4 e s
  | .vsts x0 x1 x2 x3 x4 => headVsts x0 x1 x2 x3 x4 e s
  | .vstx x0 x1 x2 x3 x4 => headVstx x0 x1 x2 x3 x4 e s
  | .vldT x0 x1 x2 => headVldT x0 x1 x2 e s
  | .vstT x0 x1 x2 => headVstT x0 x1 x2 e s
  | .vldR x0 x1 x2 x3 => headVldR x0 x1 x2 x3 e s
  | .vstR x0 x1 x2 x3 => headVstR x0 x1 x2 x3 e s
  | .vldAv x0 x1 x2 x3 => headVldAv x0 x1 x2 x3 e s
  | .vldAm x0 x1 x2 x3 => headVldAm x0 x1 x2 x3 e s
  | .vamoAdd x0 x1 x2 x3 x4 => headVamoAdd x0 x1 x2 x3 x4 e s
  | .vamoMin x0 x1 x2 x3 x4 => headVamoMin x0 x1 x2 x3 x4 e s
  | .vamoMax x0 x1 x2 x3 x4 => headVamoMax x0 x1 x2 x3 x4 e s
  | .vamoAnd x0 x1 x2 x3 x4 => headVamoAnd x0 x1 x2 x3 x4 e s
  | .vamoOr x0 x1 x2 x3 x4 => headVamoOr x0 x1 x2 x3 x4 e s
  | .vamoXor x0 x1 x2 x3 x4 => headVamoXor x0 x1 x2 x3 x4 e s
  | .vamoSwap x0 x1 x2 x3 x4 => headVamoSwap x0 x1 x2 x3 x4 e s
  | .vamoFmin x0 x1 x2 x3 x4 => headVamoFmin x0 x1 x2 x3 x4 e s
  | .vamoFadd x0 x1 x2 x3 x4 => headVamoFadd x0 x1 x2 x3 x4 e s
  | .pand x0 x1 x2 => headPand x0 x1 x2 e s
  | .por x0 x1 x2 => headPor x0 x1 x2 e s
  | .pxor x0 x1 x2 => headPxor x0 x1 x2 e s
  | .pandn x0 x1 x2 => headPandn x0 x1 x2 e s
  | .pnot x0 x1 => headPnot x0 x1 e s
  | .pset x0 x1 => headPset x0 x1 e s
  | .pcnt x0 x1 x2 => headPcnt x0 x1 x2 e s
  | .pffs x0 x1 x2 => headPffs x0 x1 x2 e s
  | .pbrk x0 x1 x2 => headPbrk x0 x1 x2 e s
  | .pmov x0 x1 => headPmov x0 x1 e s
  | .oacc x0 x1 x2 x3 => headOacc x0 x1 x2 x3 e s
  | .osub x0 x1 x2 x3 => headOsub x0 x1 x2 x3 e s
  | .mzero x0 x1 => headMzero x0 x1 e s
  | .mrd x0 x1 x2 => headMrd x0 x1 x2 e s
  | .mrdc x0 x1 x2 => headMrdc x0 x1 x2 e s
  | .mwr x0 x1 x2 => headMwr x0 x1 x2 e s
  | .oaccN x0 x1 x2 x3 => headOaccN x0 x1 x2 x3 e s
  | .cpg x0 x1 x2 x3 x4 => headCpg x0 x1 x2 x3 x4 e s
  | .cpt x0 x1 x2 => headCpt x0 x1 x2 e s
  | .cpl x0 x1 x2 => headCpl x0 x1 x2 e s
  | .cpmask x0 x1 => headCpmask x0 x1 e s
  | _ => .trap s 0x01 (zext64 e.word) 0

/-- An MX instruction (R213). -/
def mxInstr (i : Instr) : Bool :=
  match i with
  | .oacc _ _ _ _ | .osub _ _ _ _ | .oaccN _ _ _ _ | .mzero _ _ | .mrd _ _ _ | .mrdc _ _ _ | .mwr _ _ _ => true
  | _ => false

/-- A `setvl` (R136). -/
def setvlInstr (i : Instr) : Bool :=
  match i with
  | .setvl _ _ _ => true
  | _ => false

/-- An entry that runs on a hart in the released state as it is: `setvl` makes its own grant, `vfree` has no effect (R142,
R143). -/
def needsNoBacking (i : Instr) : Bool :=
  match i with
  | .setvl _ _ _ | .vfree => true
  | _ => false

/-- The hart after the commit of its head: the entry leaves, VSTART is 0 outside handler mode (R150, R352), the groups' clocks
run (R224, R381). -/
def Hart.commitHead (h : Hart) (mx : Bool) : Hart :=
  let l := h.ln
  { h with vq := h.vq.tail
           ln := { l with vstart := if h.tr.hm then l.vstart else 0, headDevc := false, hmStart := 0, headFound := none, laneIdle := 0
                          clockGated := l.clockGated && l.groups.isEmpty
                          mxIdle := if mx then 0 else l.mxIdle, awake := if mx then l.groups else l.awake } }

/-! ## The head of the queue -/

/-- A trap at the head waits: the instruction at the PC has to finish, or an asynchronous cause that is ready at this boundary is taken
in its place (R66, R354). -/
def holdsTrap (s : State) : Bool := s.hart.wait.mustFinish || asyncReady s

/-- What the head's answer makes of the device. -/
def headOutcome (s : State) (e : VqEntry) (mx : Bool) (r : HeadRes) : Out :=
  match r with
  | .commit s1 => .next (s1.withHart (s1.hart.commitHead mx))
  | .trap s1 code val elem => if holdsTrap s then .next s else .next (trapHead s1 e code val elem)
  | .wait s1 => .next s1
  | .stop off => .fault (.hubUnassigned off)

/-- The entry at the head of the current hart's queue executes (R145): a word that is no instruction of R144 raises Illegal, a
released hart is rebound first. -/
def stepHead (s : State) : Out :=
  match s.hart.vq with
  | [] => .next s
  | e :: _ =>
    match e.instr with
    | none => headOutcome s e false (.trap s 0x01 (zext64 e.word) 0)
    | some i =>
      if s.hart.ln.released && !needsNoBacking i then
        match rebindNow s e.cls with
        | (s1, false) => .next s1
        | (s1, true) => headOutcome s1 e (mxInstr i) (runHead i e s1)
      else headOutcome s e (mxInstr i) (runHead i e s)

/-- VQ_ENTRY_COMMIT (R145): the entry at the head of a hart's queue executes, and commits, traps or waits. -/
def execVqEntryCommit (r : HartRef) (s : State) : Out :=
  match s.activate r with
  | none => .next s
  | some s1 => if queueRuns s1 then stepHead s1 else .next s

end Sys2Proof.Machine
end

