-- ==== Sys2Proof/Machine/Grants.lean ====
section
/-! DEFINITION. What the lane allocator does by itself: waiting requests age and are granted, released harts are rebound,
harts are folded and unfolded (R64, R135, R136, R143, R148 to R155, R380). -/

namespace Sys2Proof.Machine

/-! ## Waiting requests -/

/-- LANE_REQUEST_AGE (R64): a waiting request's class rises by one for each full 256 µs it has waited. -/
def execLaneRequestAge (r : HartRef) (s : State) : Out :=
  let old := fun (q : GrantReq) => decide (256000 * (q.raised + 1) ≤ s.clock.ran - q.arrived) && decide (0 < q.effective)
  .next (s.updHarts (fun h => h.id.ref == r && (h.ln.req.map old).getD false)
    (fun h => { h with ln := { h.ln with req := h.ln.req.map (fun q => { q with raised := q.raised + 1 }) } }))

/-- The instruction at the head of a hart's queue. -/
def Hart.headInstr (h : Hart) : Option Instr := h.vq.head?.bind VqEntry.instr

/-- SETVL_GRANT (R136): a `setvl` that waits at the head is granted once a value fits. -/
def execSetvlGrant (r : HartRef) (s : State) : Out :=
  match s.activate r with
  | none => .next s
  | some s1 =>
    if queueRuns s1 && s1.hart.ln.req.isSome && (s1.hart.headInstr.map setvlInstr).getD false then stepHead (askPreempt s1)
    else .next s

/-- REBIND (R143): a released hart is rebound at its VL before the entry at its head starts. -/
def execRebind (r : HartRef) (s : State) : Out :=
  match s.activate r with
  | none => .next s
  | some s1 =>
    let wants := ((s1.hart.headInstr.map (fun i => !needsNoBacking i)).getD false)
    match s1.hart.vq.head? with
    | some e => if queueRuns s1 && s1.hart.ln.released && wants then .next (rebindNow (askPreempt s1) e.cls).1 else .next s
    | none => .next s

/-! ## Folding (R134, R135, R148, R380) -/

/-- One victim comes before another: the lowest class first, then the most recently granted (R135, R380). -/
def victimBefore (a b : Hart) : Bool :=
  decide (b.sc.prio.toNat < a.sc.prio.toNat) || (a.sc.prio == b.sc.prio && decide (b.ln.grantSeq < a.ln.grantSeq))

/-- No hart of the cluster that may be folded now, but for the one that asks, comes before this one. -/
def firstVictim (s : State) (h : Hart) (asker : Option HartRef) : Bool :=
  !s.harts.any (fun k => k.id.clusterKey == h.id.clusterKey && some k.id.ref != asker && foldableNow s k && victimBefore k h)

/-- A request waits on the victim's cluster whose class is above the victim's, and folds would serve it (R135). -/
def foldAsked (s : State) (v : Hart) : Bool :=
  s.harts.any (fun h => h.id.clusterKey == v.id.clusterKey && h.id.ref != v.id.ref && firstVictim s v (some h.id.ref) &&
    ((h.ln.req.map (fun q => decide (q.effective < v.sc.prio.toNat) &&
      ((s.activate h.id.ref).map (fun t => foldsWanted t q)).getD false)).getD false))

/-- The governor's fold is still needed for a cluster: the facet draws more than FBUD, or the cluster is priced above its allowance (R160,
R379). -/
def foldNeeded (s : State) (f c : Nat) : Bool :=
  let g := s.gov f
  g.excess || decide (vget g.allow c 0 < clusterCost s f c g.ratio)

/-- The governor folds on the victim's facet (R379); an RT hart only when no other hart of the cluster can be (R380). -/
def foldByGovernor (s : State) (v : Hart) : Bool :=
  governorFolds s v.id.facet && foldNeeded s v.id.facet v.id.cluster && firstVictim s v none &&
    (v.sc.prio != 0 ||
      !s.harts.any (fun k => k.id.clusterKey == v.id.clusterKey && k.sc.prio != 0 && foldable k && !isOut s k.id.ref))

/-- The current hart after a fold by a factor of 2 (R134, R148): it keeps half of its groups and spills what they cannot hold (R154). -/
def foldHart (s : State) : State :=
  let l := s.hart.ln.rebind (s.hart.ln.groups.take (s.hart.ln.groups.length / 2))
  let f : BitVec 16 := if l.folds = BitVec.allOnes 16 then l.folds else l.folds + 1
  let s1 := s.squashHead.withHart { s.hart with ln := { l with fold := l.fold + 1, sq := false, folds := f, foldSeq := s.nextUid } }
  placeSpill { s1 with nextUid := s.nextUid + 1 }

/-- An entry that restarts at an element (Table 6.5): a store, or an atomic. -/
def restarts (i : Instr) : Bool :=
  match i with
  | .vst _ _ _ _ _ | .vsts _ _ _ _ _ | .vstx _ _ _ _ _ => true
  | .vamoAdd _ _ _ _ _ | .vamoMin _ _ _ _ _ | .vamoMax _ _ _ _ _ | .vamoAnd _ _ _ _ _ | .vamoOr _ _ _ _ _
  | .vamoXor _ _ _ _ _ | .vamoSwap _ _ _ _ _ | .vamoFmin _ _ _ _ _ | .vamoFadd _ _ _ _ _ => true
  | _ => false

/-- The elements below `k` of the entry at the head, or the lines below `k` of an image, are retired or performed; none where the
entry is not one that restarts (Table 6.5). -/
def runBelow (s : State) (e : VqEntry) (i : Instr) (k : Nat) : Option HeadRes :=
  match i with
  | .vstR v _ _ pr => some (granting s e (storeLines s e (s.hart.imageR v pr) k))
  | .vstT t _ _ => some (needGang s e (fun side => storeLines s e (s.hart.imageT t side) k))
  | _ =>
    if !restarts i then none
    else
      let l := s.hart.ln
      let cut := if l.tv then min k l.trim.toNat else k
      match runHead i e (s.withHart { s.hart with ln := { l with tv := true, trim := BitVec.ofNat 15 cut } }) with
      | .commit s1 => some (.commit (s1.withHart { s1.hart with ln := { s1.hart.ln with tv := l.tv, trim := l.trim } }))
      | r => some r

/-- The head has come to element or line `k` (R149): what is below `k` is done, and VSTART is `k`. None where the head is no entry that
restarts, stops before `k`, or has begun on a DEVC page. -/
def partialHead (s : State) (k : Nat) : Option State :=
  if k ≤ s.hart.startAt then some s
  else if 16384 < k then none
  else
    match s.hart.vq.head? with
    | none => none
    | some e =>
      match e.instr.bind (fun i => runBelow s e i k) with
      | some (.commit s1) => if retiresDevc s1 e then none else some (s1.withHart (s1.hart.progress k))
      | _ => none

/-- The store or atomic at the head of a hart's queue comes to element `k`, as it does on its way to its commit (R145, R149). -/
def headPart (r : HartRef) (k : Nat) (s : State) : State :=
  match s.activate r with
  | none => s
  | some s1 => if queueRuns s1 && !s1.hart.ln.released then (partialHead s1 k).getD s else s

/-- FOLD (R135, R148, R380): the allocator folds a hart for a request of a higher class, or the governor does. `elems` is how far
a store or atomic at the head had come. -/
def execFold (r : HartRef) (elems : Nat) (s : State) : Out :=
  match s.activate r with
  | none => .next s
  | some s1 =>
    let h := s1.hart
    let asked := foldAsked s1 h
    if !foldableNow s1 h || !(asked || foldByGovernor s1 h) then .next s
    else
      match partialHead s1 elems with
      | none => .next s
      | some s2 =>
        let s3 := foldHart s2
        .next (if asked then s3 else s3.updGov h.id.facet (fun g => { g with gfold := true }))

/-! ## Unfolding (R155) -/

/-- One hart unfolds before another: by class, then the one folded last goes last (R155). -/
def unfoldBefore (a b : Hart) : Bool :=
  decide (a.sc.prio.toNat < b.sc.prio.toNat) || (a.sc.prio == b.sc.prio && decide (a.ln.foldSeq < b.ln.foldSeq))

/-- Another hart of the cluster that can unfold comes first, or a request of a higher class waits. -/
def unfoldHeld (s : State) : Bool :=
  s.others.any (fun k => k.id.clusterKey == s.hart.id.clusterKey &&
    (((k.ln.req.map (fun q => decide (q.effective < s.hart.sc.prio.toNat))).getD false) ||
      (unfoldBefore k s.hart && ((s.activate k.id.ref).map canUnfold).getD false)))

/-- The current hart after an unfold by a factor of 2. -/
def unfoldHart (s : State) : State :=
  let l := s.hart.ln
  let gs := (usableGroups s).take (2 * l.groups.length)
  placeSpill (s.squashHead.withHart { s.hart with ln := { l.rebind gs with fold := l.fold - 1, sq := l.fold == 1 && isSquare l.len gs } })

/-- UNFOLD (R155): the allocator unfolds a folded hart while groups and budget allow; GCUT shows that the budget does not (R379). -/
def execUnfold (r : HartRef) (s : State) : Out :=
  match s.activate r with
  | none => .next s
  | some s1 =>
    if canUnfold s1 && !unfoldHeld s1 then .next (unfoldHart s1)
    else .next (noteCut s1 (roomToUnfold s1 && !budgetAllows s1 (2 * s1.hart.ln.groups.length) s1.hart.ln.square))

end Sys2Proof.Machine
end

