-- ==== Sys2Proof/Machine/Sys.lean ====
section
/-! DEFINITION. SYS and SYNC: traps, the end of a handler, launches, replays (R45, R366 to R368, R395 to R397), and the
instructions that order or clean memory (R322, R348, R369, R370). -/

namespace Sys2Proof.Machine

/-! ## trap, eret, done, yield -/

/-- `trap` (R366): cause 0x0D with TRAPPC the next instruction. -/
def execTrap (i : BitVec 11) (s : State) : Out :=
  .next (takeTrap s { code := 0x0D, pc := s.hart.sc.pc + 4, val := zext64 i, seq := s.hart.sc.iseq
                      iaddr := some s.hart.sc.pc })

/-- `eret` (R367): Illegal outside handler mode. What a load set aside at the trap had read of a WC page is read again (R357, Table
6.5). -/
def execEret (s : State) : Out :=
  if !s.hart.tr.hm then illegalWord s 0x34002800
  else afterQueue s (.next ((s.squashReads (fun o => o.hart == s.hart.id.ref)).withHart (leaveTrap s.hart)))

/-- In handler mode `done` discards the queue image (R396). -/
def discardImage (s : State) : State := if s.hart.tr.hm then s.onTr (fun t => { t with vqn := 0 }) else s

/-- Every copy stream of a hart holds no operation (R310). -/
def Hart.copiesOver (h : Hart) : Bool := h.streams.toList.all (fun x => x.queue.isEmpty)

/-- `done` (R396). -/
def execDone (s : State) : Out :=
  let s1 := discardImage s
  withRelease s1 .package 0 (if s1.hart.copiesOver then .next (finishHandler (s1.advance 4) true) else waiting s1 .copy)

/-- CYCLE of the current hart's core. -/
def State.cycle (s : State) : Word := vget s.clock.cycle s.hart.id.facet 0

/-- CYCLE has reached a value, modulo 2^64. -/
def State.cyclePast (s : State) (t : Word) : Bool := decide ((s.cycle - t).toNat < 2 ^ 63)

/-- A `yield` that waits for a value of CYCLE is over: that has come, or an asynchronous cause is pending in handler mode, where none is
taken (R354, R397). -/
def yieldOver (s : State) (t : Word) : Bool := s.cyclePast t || (s.hart.tr.hm && s.hart.pendingCause.isSome)

/-- `yield` (R397): it waits for 256 scalar cycles. -/
def execYield (s : State) : Out :=
  match s.hart.wait with
  | .yield t => if yieldOver s t then .next (s.advance 4) else .next s
  | _ => waiting s (.yield (s.cycle + 256))

/-- YIELD_TIMEOUT (R397): the 256 cycles of a hart's `yield` are over. -/
def execYieldTimeout (r : HartRef) (s : State) : Out :=
  match s.activate r with
  | none => .next s
  | some s1 =>
    match s1.hart.wait with
    | .yield t => if queueRuns s1 && yieldOver s1 t then .next (s1.advance 4) else .next s
    | _ => .next s

/-! ## launch (R45) -/

/-- How an instruction that completes once issued waits: while earlier vector entries stand, a trap of theirs still ends it (R354). -/
def Hart.commitWait (h : Hart) : Wait := if h.vq.isEmpty then .committed else .commitQueue

/-- Every line that the hart may hold stands in its deferred-store buffer: a vector store waits there for what a `replay` gives back
(R151, R368). -/
def Hart.heldFull (h : Hart) : Bool := decide (64 ≤ (h.stores.filter (fun l => l.stage == .held)).length)

/-- Read 64 bytes at an address inside an instruction that completes once issued (R45, R354, R368): load rules, an uncached read
begun when no earlier vector entry can end the instruction. `free`: the read waits for no entry of the queue. -/
def readImage (s : State) (a : Word) (free : Bool) (k : Nat → State → Out) : Out :=
  let seq := s.hart.sc.iseq
  let dev := fun (pa : Nat) (wc : Bool) (s' : State) =>
    match devRead s' pa 64 wc seq 0 with
    | .val x s2 => k (s2.overHeld a 64 x) s2
    | .wait s2 => waiting s2 .committed
    | .hole off => .fault (.hubUnassigned off)
  match devBegun s a seq 0 64 with
  | some (pa, wc) => dev pa wc s
  | none =>
    if !free && s.hart.queueMeets a 64 then waiting s .commitQueue
    else
      match loadUnit s a 64 false with
      | .val x s1 => k x s1
      | .fault code s1 => trapAt s1 (BitVec.ofNat 8 code) a
      | .wait _ s1 => waiting s1 s1.hart.commitWait
      | .device pa wc s1 => if free || s.hart.vq.isEmpty then dev pa wc s1 else waiting s1 .commitQueue

/-- The disposition of a launch: MALFORMED where gd's bits [63:24] are not zero (R45). -/
def launchTo (s : State) (dest : Word) (m : BitVec 512) : BitVec 8 × State :=
  let w : Sender := { origin := .launch, owner := some (s.hart.id.space, s.hart.id.part), hart := some s.hart.id.ref }
  if natBits dest.toNat 24 40 ≠ 0 then (4, s)
  else dispose s w (natBits dest.toNat 16 8) (natBits dest.toNat 0 16) m

/-- The snoop that a launch to a queue of this device waits for (R252, R408). -/
def launchWaits (s : State) (dest : Word) (m : BitVec 512) : Option State :=
  let w : Sender := { origin := .launch, owner := some (s.hart.id.space, s.hart.id.part), hart := some s.hart.id.ref }
  if natBits dest.toNat 24 40 ≠ 0 || natBits dest.toNat 16 8 ≠ s.devnum.toNat || malformed m then none
  else ringWaits s w (natBits dest.toNat 0 16) m false

/-- `launch` (R45): the release is at package scope for this device, at system scope for another. -/
def execLaunch (d a : GReg) (i : BitVec 11) (s : State) : Out :=
  let at_ := s.ea a i
  let dest := s.g d
  if at_.toNat % 64 ≠ 0 then trapAt s 0x06 at_
  else readImage s at_ false (fun m s1 =>
    let sc : Scope := if natBits dest.toNat 16 8 = s.devnum.toNat then .package else .system
    if !s1.hart.vq.isEmpty then waiting s1 .commitQueue
    else if s1.hart.holds then trapAt (clearDev s1 s.hart.sc.iseq) 0x09 at_
    else if (s1.hart.releaseWaits sc).isSome then waiting s1 .committed
    else if let some s2 := launchWaits s1 dest (BitVec.ofNat 512 m) then waiting s2 .committed
    else
      let (code, s2) := launchTo (clearDev s1 s.hart.sc.iseq) dest (BitVec.ofNat 512 m)
      writeNext s2 d (zext64 code))

/-! ## replay (R368) -/

/-- What a record selects: every held line, or those of an instruction whose elements or rows fall in Y .. Y + 63. -/
structure ReplaySel where
  any : Bool
  seq : Nat
  y : Nat

/-- The selection that a record of 64 bytes names (Table 15.6). -/
def ReplaySel.ofRecord (x : Nat) : ReplaySel := { any := false, seq := natBits x 64 48, y := natBits x 320 16 }

/-- An index falls in Y .. Y + 63. -/
def ReplaySel.covers (q : ReplaySel) (i : Nat) : Bool := decide (q.y ≤ i ∧ i < q.y + 64)

/-- A held line is named by the selection. -/
def ReplaySel.line (q : ReplaySel) (l : StoreLine) : Bool :=
  l.stage == .held && (q.any || (l.seq.toNat % 2 ^ 48 == q.seq && (owners l.elems).any (fun e => q.covers e.idx)))

/-- A held row is named by the selection. -/
def ReplaySel.row (q : ReplaySel) (o : CopyOp) (r : CopyRow) : Bool :=
  r.held && (q.any || (o.seq.toNat % 2 ^ 48 == q.seq && q.covers r.idx))

/-- L is empty. -/
def ReplaySel.isEmpty (q : ReplaySel) (h : Hart) : Bool :=
  !h.stores.any q.line && !h.streams.toList.any (fun st => st.queue.any (fun o => o.rows.any (q.row o)))

/-- Re-issue the rows of L on their streams (R297, R363). -/
def replayRows (q : ReplaySel) (h : Hart) : Hart :=
  { h with streams := h.streams.map (fun st => { st with queue := st.queue.map (fun o =>
      { o with rows := o.rows.map (fun r => if q.row o r then { r with held := false, replayed := true } else r) }) }) }

/-- Lines that were held only behind an older line that is no longer held go on by themselves (R326, log 26). -/
def unblock (ls : List StoreLine) : List StoreLine :=
  ls.foldl (fun older l =>
    let go := l.stage == .held && l.behind && !older.any (fun k => k.meets l && k.stage == .held)
    older ++ [if go then { l with stage := .retired, behind := false, delivered := false } else l]) []

/-- The lines of L that the `replay` under way has still to be done with: where the first of them stands. -/
def nextReplay (h : Hart) : Option Nat := h.stores.findIdx? (fun l => l.again)

/-- A `replay` is done with line `i`, which stays held with a record of its own. -/
def State.keepHeld (s : State) (i : Nat) (c : BitVec 8) : State :=
  s.setLine i (fun x => { x with again := false, behind := false, code := c, found := none })

/-- One line of L at its home: it is performed, or refused; one that an older held line precedes is translated as well, and stays held
with that line's code where its home would take it (R326, R368; DEDUCED, log 26). -/
def replayLine (s : State) (i : Nat) (l : StoreLine) : LineRes :=
  match heldBefore s i l with
  | some k => atHome s i l (fun _ s1 => .refused k.code s1)
  | none => attemptLine s i l

/-- A `replay` comes to the end of L: gd is the number of its lines still held, and lines held only behind performed ones go on. -/
def replayOver (s : State) (d : GReg) (held : Nat) : Out :=
  writeNext (s.withHart { s.hart with stores := unblock s.hart.stores }) d (BitVec.ofNat 64 held)

/-- Replay the lines of L in the order they retired (R326, R368): each is performed, or refused with a record, before the next, and
the instruction stays at a line whose page migrates, that has not left its hart's buffers yet, or that an older one still precedes. `held`: those found to stay
held; `n` bounds the lines left. -/
def replayFrom (d : GReg) : Nat → Nat → State → Out
  | 0, held, s => replayOver s d held
  | n + 1, held, s =>
    match nextReplay s.hart with
    | none => replayOver s d held
    | some i =>
      match s.hart.stores[i]? with
      | none => replayOver s d held
      | some l =>
        if l.stage != .held || olderWaits s i l then waiting s (.replay held)
        else
          match replayLine s i l with
          | .done s1 => replayFrom d n held s1
          | .stays s1 => waiting s1 (.replay held)
          | .hole off => .fault (.hubUnassigned off)
          | .refused c s0 =>
            let r := lineRecord s0.clock.now l c true false
            match writeRecord s0 r with
            | (s1, none) => waiting (s1.lateLine i r) (.replay held)
            | (s1, some _) => replayFrom d n (held + 1) (s1.keepHeld i c)
          | .moved s1 =>
            if (s1.hart.stores[i]?.map (fun x => x.stage == .migrating)).getD false then waiting s (.replay held)
            else waiting s1 (.replay held)

/-- Begin the `replay` of what a selection names: its lines are L, its rows go back to their streams. -/
def replaySel (q : ReplaySel) (d : GReg) (s : State) : Out :=
  if q.isEmpty s.hart then writeNext s d (BitVec.allOnes 64)
  else
    let h := replayRows q s.hart
    let s1 := s.withHart { h with stores := upd h.stores q.line (fun l => { l with again := true }) }
    replayFrom d s1.hart.stores.length 0 s1

/-- `replay` (R368). It waits for no entry of the queue, but its read of a record follows those that may access the record's bytes (R147).
Where all 64 lines are held it does not wait for them either, since an entry that waits for room could not commit before it (R151, R368;
DESIGN CHOICE, log 26). -/
def execReplay (d a : GReg) (s : State) : Out :=
  let x := s.g a
  match s.hart.wait with
  | .replay held => replayFrom d s.hart.stores.length held s
  | _ =>
    if x ≠ 0 && x.toNat % 64 ≠ 0 then trapAt s 0x06 x
    else if x = 0 then replaySel { any := true, seq := 0, y := 0 } d s
    else readImage s x s.hart.heldFull (fun m s1 => replaySel (ReplaySel.ofRecord m) d (clearDev s1 s.hart.sc.iseq))

/-! ## fence and vsync (R322, R348) -/

/-- Wait until every earlier entry has committed and every earlier store of the hart is performed or held, as a release waits; a held
one traps with TRAPVAL 0. -/
def afterStores (s : State) (k : Out) : Out :=
  if !s.hart.vq.isEmpty || !s.hart.settled then waiting s .release
  else if s.hart.holds then trapAt s 0x09 0
  else k

/-- `fence` (R322, R323). An acquire part needs no wait: the hart's loads are performed in order (log 7). A sequentially consistent
one waits until every earlier store is performed, whatever its scope. -/
def execFence (o : BitVec 3) (sc : Scope) (s : State) : Out :=
  let go : Out := .next (s.advance 4)
  if o = 1 then afterQueue s go else if o = 4 then afterStores s go else withRelease s sc 0 go

/-- `vsync` (R348). -/
def execVsync (k : Bool) (s : State) : Out :=
  if k then afterStores s (.next (s.advance 4)) else afterQueue s (.next (s.advance 4))

/-! ## ptsync (R369) -/

/-- `ptsync` (R369): its checks and its waits; the drop is PTSYNC_DROP_COMPLETE. -/
def execPtsync (a : GReg) (k : Bool) (s : State) : Out :=
  let x := (s.g a).toNat
  let sp := if a = 0 then s.sp else x
  if 2 ^ 14 ≤ x || (sp ≠ s.sp && s.sp ≠ 0) || (k && a ≠ 0) then trapAt s 0x07 (s.g a)
  else afterQueue s (if s.hart.settled then waiting s (.ptsync sp k) else waiting s .stores)

/-- Drop the cached entries of a space, or of a partition's global slice (R369). -/
def dropTables (s : State) (key : Nat) (global : Bool) : State :=
  { s with walks := s.walks.filter (fun w => !(w.global == global && w.space == key)) }

/-- PTSYNC_DROP_COMPLETE (R369): every controller has dropped the named entries, and the waiting `ptsync` completes. -/
def execPtsyncDropComplete (r : HartRef) (s : State) : Out :=
  match s.activate r with
  | none => .next s
  | some s1 =>
    match s1.hart.wait with
    | .ptsync sp g =>
      if s1.hart.run == .running then .next ((dropTables s1 (if g then s1.pt else sp) g).advance 4) else .next s
    | _ => .next s

/-! ## inval (R370) -/

/-- The partition that a space's table entry names (Table 10.2). -/
def spacePart (s : State) (sp : Nat) : Nat := natBits (spaceEntry s sp) 2 3

/-- The first page of a range that fails R226 or R227 for a space. -/
def badPage (s : State) (sp : Nat) (va : Word) (n : Nat) : Option Word :=
  ((List.range n).map (fun i => va + BitVec.ofNat 64 (65536 * i))).find? (fun a =>
    !addressOk s sp (spacePart s sp) a.toNat)

/-- The snoop that those checks of a range wait for (R252, R408). -/
def rangeSnoop (s : State) (sp : Nat) (va : Word) (n : Nat) : Option State :=
  ((List.range n).map (fun i => va + BitVec.ofNat 64 (65536 * i))).findSome? (fun a => entrySnoop s sp a.toNat)

/-- `inval` (R370): its checks and its wait; the removal is INVAL_COMPLETE. -/
def execInval (n a : GReg) (i : BitVec 11) (s : State) : Out :=
  let va := s.g a
  let other := s.g n
  let count := i.toNat + 1
  if va.toNat % 65536 ≠ 0 then trapAt s 0x06 va
  else if n ≠ 0 && (s.sp ≠ 0 || 2 ^ 14 ≤ other.toNat) then trapAt s 0x07 other
  else
    let sp := if n = 0 then s.sp else other.toNat
    match rangeSnoop s sp va count with
    | some s1 => waiting s1 .stall
    | none =>
      match badPage s sp va count with
      | some x => trapAt s 0x08 x
      | none => afterQueue s (waiting s (.inval sp (va.toNat / 65536) count))

/-- INVAL_COMPLETE (R251, R370): every copy of the named pages is gone, and the waiting `inval` completes. -/
def execInvalComplete (r : HartRef) (s : State) : Out :=
  match s.activate r with
  | none => .next s
  | some s1 =>
    match s1.hart.wait with
    | .inval sp page count =>
      if s1.hart.run == .running then
        .next (((List.range count).foldl (fun t i => invalPage t (cacheSpace sp ((page + i) * 65536)) (page + i)) s1).advance 4)
      else .next s
    | _ => .next s

end Sys2Proof.Machine
end

