-- ==== Sys2Proof/Machine/Interrupt.lean ====
section
/-! DEFINITION. Asynchronous causes (R85, R354, R363, R372, R374) and the traps of words that are no instruction (R71, R72,
R82). -/

namespace Sys2Proof.Machine

/-! ## Asynchronous causes -/

/-- Take the first pending cause of the current hart (R351, R354): TRAPPC is the instruction next to be fetched. -/
def takeCause (s : State) : State :=
  match s.hart.pendingCause with
  | none => s
  | some (code, val, rest) =>
    let s1 := takeTrap s { code := code, async := true, pc := s.hart.sc.pc, val := val, seq := s.hart.sc.iseq
                           counted := s.hart.waitsInside }
    if s1.hart.tr.hm || s1.hart.run != .running then s1.withHart { s1.hart with notice := rest } else s1

/-- ASYNC_CAUSE_TAKE (R354). -/
def execAsyncCauseTake (r : HartRef) (s : State) : Out :=
  match s.activate r with
  | none => .next s
  | some s1 => if asyncReady s1 then .next (takeCause s1) else .next s

/-- WATCHDOG (R374): the handler has run a further WDOG ms since its entry. -/
def execWatchdog (r : HartRef) (s : State) : Out :=
  .next (s.updHarts (fun h => h.id.ref == r && h.dogDue (s.space h.id.space.toNat).wdog.toNat) Hart.bark)

/-! ## Words that are no instruction -/

/-- ILLEGAL_WORD (R71, R82): TRAPVAL holds the word, or the pair of a broken long form. -/
def execIllegalWord (w : BitVec 32) (second : Option (BitVec 32)) (s : State) : Out :=
  illegalWord s (w.toNat + (second.map (fun x => x.toNat * 2 ^ 32)).getD 0)

/-- CONTINUATION (R72). -/
def execContinuation (w : BitVec 32) (s : State) : Out :=
  .next (takeTrap s { code := 0x02, pc := s.hart.sc.pc, val := zext64 w, seq := s.hart.sc.iseq, counted := false })

end Sys2Proof.Machine
end

