-- ==== Sys2Proof/Machine/Loader.lean ====
section
/-! DEFINITION. jxload: the container (R21, Tables 1.3 to 1.6), the checks of R24 in order, installation and removal (R14,
R16, R19, R22, R25, R26, R38). The addresses, frames and tables that jxload chooses come with the event (log 19). -/

namespace Sys2Proof.Machine

/-! ## Reading the file -/

/-- `n` bytes of a file at an offset, little-endian. -/
def fileLE (f : List Byte) (off n : Nat) : Nat := ((f.drop off).take n).foldr (fun b acc => b.toNat + acc * 256) 0

/-- One byte into a CRC-32 (IEEE 802.3, reflected). -/
def crcByte (crc : Nat) (b : Byte) : Nat :=
  (List.range 8).foldl (fun c _ => if c % 2 = 1 then (c / 2) ^^^ 0xEDB88320 else c / 2) (crc ^^^ b.toNat)

/-- CRC-32 of a file with its CRC field taken as zero (Table 1.3). -/
def fileCrc (f : List Byte) : Nat :=
  let g := f.take 0x20 ++ [0, 0, 0, 0] ++ f.drop 0x24
  (g.foldl crcByte 0xFFFFFFFF) ^^^ 0xFFFFFFFF

/-- A section entry (Table 1.4). -/
structure SectionEnt where
  idx : Nat
  kind : Nat
  align : Nat
  flags : Nat
  foff : Nat
  fsize : Nat
  msize : Nat
  lva : Nat
  recvl : Nat
  rsv : Nat

/-- A handler entry (Table 1.5). -/
structure HandlerEnt where
  type : Nat
  tsec : Nat
  initvl : Nat
  entry : Nat
  ff : Nat
  fv : Nat
  sv : Nat
  sf : Nat
  rsv : Nat

/-- Section entry `i`. -/
def sectionAt (f : List Byte) (i : Nat) : SectionEnt :=
  let o := fileLE f 0x14 4 + i * 32
  { idx := i, kind := fileLE f o 1, align := fileLE f (o + 1) 1, flags := fileLE f (o + 2) 2, foff := fileLE f (o + 4) 4
    fsize := fileLE f (o + 8) 4, msize := fileLE f (o + 12) 4, lva := fileLE f (o + 16) 8, recvl := fileLE f (o + 24) 1
    rsv := fileLE f (o + 25) 7 }

/-- Handler entry `i`. -/
def handlerAt (f : List Byte) (i : Nat) : HandlerEnt :=
  let o := fileLE f 0x10 4 + i * 32
  { type := fileLE f o 2, tsec := fileLE f (o + 2) 1, initvl := fileLE f (o + 3) 1, entry := fileLE f (o + 4) 4
    ff := fileLE f (o + 8) 4, fv := fileLE f (o + 12) 2, sv := fileLE f (o + 14) 2, sf := fileLE f (o + 16) 4
    rsv := fileLE f (o + 20) 12 }

/-- The sections of a file. -/
def fileSections (f : List Byte) : List SectionEnt := (List.range (fileLE f 0x0C 2)).map (sectionAt f)

/-- The handlers of a file. -/
def fileHandlers (f : List Byte) : List HandlerEnt := (List.range (fileLE f 0x0A 2)).map (handlerAt f)

/-- SFLAGS.LDEP. -/
def SectionEnt.ldep (x : SectionEnt) : Bool := natBit x.flags 0
/-- SFLAGS.ZEROFILL. -/
def SectionEnt.zerofill (x : SectionEnt) : Bool := natBit x.flags 1
/-- SFLAGS.GLOBAL. -/
def SectionEnt.glob (x : SectionEnt) : Bool := natBit x.flags 2

/-- Offset of a hint-block byte (Table 1.6). -/
def hint (f : List Byte) (off n : Nat) : Nat := fileLE f (fileLE f 0x18 4 + off) n

/-! ## The checks of R24 -/

/-- Step 1: MAGIC, VERSION, LENGTH and CRC. -/
def headerOk (f : List Byte) : Bool :=
  fileLE f 0 4 == 0x314D584A && fileLE f 4 2 == 1 && fileLE f 0x1C 4 == f.length && decide (64 ≤ f.length)
    && fileLE f 0x20 4 == fileCrc f

/-- A table lies in the file at a multiple of 8 (Table 1.3). That one which reaches past LENGTH is refused, and at step 2, is a DESIGN
CHOICE (log 45: Table 1.3 states the multiple only). -/
def tableIn (f : List Byte) (off bytes : Nat) : Bool := off % 8 == 0 && decide (off + bytes ≤ f.length)

/-- The ranges and zeros of a section entry (Table 1.4). That a NEAR section without ZEROFILL and a TEXT section with LDEP (R22) are
refused at this step is a DESIGN CHOICE (log 45): R24 names none. -/
def SectionEnt.ok (x : SectionEnt) : Bool :=
  decide (1 ≤ x.kind ∧ x.kind ≤ 3) && decide (2 ≤ x.align ∧ x.align ≤ 16) && natBits x.flags 3 13 == 0 && x.rsv == 0
    && (!x.zerofill || (x.foff == 0 && x.fsize == 0)) && decide (x.fsize ≤ x.msize)
    && (x.ldep || x.recvl == 0)
    && (x.kind != 3 || x.zerofill) && !(x.kind == 1 && x.ldep)
    && (!x.glob || (x.lva != 0 && x.lva % 65536 == 0))

/-- Bytes of the NEAR sections as laid out from offset 0 of the segment (R22). -/
def nearBytes (xs : List SectionEnt) : Nat :=
  (xs.filter (fun x => x.kind == 3)).foldl (fun at_ x => roundUp at_ (2 ^ x.align) + x.msize) 0

/-- The ranges and zeros of a handler entry (Table 1.5). -/
def HandlerEnt.ok (h : HandlerEnt) (f : List Byte) : Bool :=
  decide (fileLE f 8 1 ≤ h.initvl ∧ h.initvl ≤ fileLE f 9 1) && h.rsv == 0

/-- Step 2: the field ranges and reserved zeros of Tables 1.3 to 1.6. Every NEARSEG that does not cover the NEAR sections as laid out
is refused here, even where SEGMIN would cover them (DESIGN CHOICE, log 45: Table 1.6 refuses 0 alone). -/
def rangesOk (f : List Byte) : Bool :=
  let lo := fileLE f 8 1
  let hi := fileLE f 9 1
  let nh := fileLE f 0x0A 2
  let ns := fileLE f 0x0C 2
  let xs := fileSections f
  let hs := fileHandlers f
  natBits (fileLE f 6 2) 1 15 == 0 && decide (9 ≤ lo ∧ lo ≤ hi ∧ hi ≤ 16) && decide (1 ≤ nh ∧ nh ≤ 1024)
    && decide (1 ≤ ns ∧ ns ≤ 64) && fileLE f 0x0E 2 == 0 && fileLE f 0x24 28 == 0
    && tableIn f (fileLE f 0x10 4) (32 * nh) && tableIn f (fileLE f 0x14 4) (32 * ns) && tableIn f (fileLE f 0x18 4) 32
    && xs.all SectionEnt.ok && natBit (fileLE f 6 2) 0 == xs.any SectionEnt.ldep
    && hs.all (fun h => h.ok f)
    && decide (1 ≤ hint f 0 2 ∧ hint f 0 2 ≤ 512) && decide (hint f 2 1 < 4) && decide (hint f 3 1 < 4)
    && hint f 6 26 == 0 && decide (nearBytes xs ≤ hint f 5 1 * 4096)

/-- The pages a section occupies: first page and number (R22). -/
def pagesOf (base msize : Nat) : Nat × Nat := (base / 65536, ceilDiv (base + msize) 65536 - base / 65536)

/-- Two page ranges meet. -/
def rangesMeet (a b : Nat × Nat) : Bool := decide (0 < a.2 ∧ 0 < b.2 ∧ a.1 < b.1 + b.2 ∧ b.1 < a.1 + a.2)

/-- A section occupies pages of the VA space (R22). -/
def SectionEnt.paged (x : SectionEnt) : Bool := x.kind != 3 && x.msize != 0

/-- The sections that occupy pages, each with its address: LVA, or the next that the plan gives (R22); none where the plan gives
too few. -/
def placedSections : List SectionEnt → List Nat → Option (List (SectionEnt × Nat))
  | [], _ => some []
  | x :: xs, bs =>
    if !x.paged then placedSections xs bs
    else if x.lva ≠ 0 then (placedSections xs bs).map (fun r => (x, x.lva) :: r)
    else
      match bs with
      | [] => none
      | b :: bs' => (placedSections xs bs').map (fun r => (x, b) :: r)

/-- A GLOBAL section's pages are already mapped for the same section in another space of the partition (R22). -/
def sharedSection (s : State) (space part crc : Nat) (x : SectionEnt) : Bool :=
  s.spaces.any (fun sp => sp.id != space && natBits (spaceEntry s sp.id) 2 3 == part && sp.modules.any (fun m =>
    m.crc.toNat == crc && m.sections.any (fun y => y.glob && y.index == x.idx && y.base == x.lva && y.msize == x.msize)))

/-- A page of a space is taken: its leaf entry is valid. -/
def pageTaken (s : State) (space part page : Nat) : Bool :=
  match walkLeaf s space part (page * 65536) with
  | some (pte, _) => natBit pte 0
  | none => false

/-- The LVA rules of R22 for a section at an address. An address with any of bits [63:56], and a section whose bytes run past the private
half or its partition's slice, is refused too, and so is one whose pages would map address 0, which no loader maps (R10; DESIGN CHOICE,
log 45: R22 tests bit 55 and bits [54:52] of LVA). -/
def lvaOk (s : State) (space part : Nat) (x : SectionEnt) (base : Nat) : Bool :=
  base % 2 ^ x.align == 0 && decide (base + x.msize ≤ 2 ^ 56) && (!x.paged || decide (65536 ≤ base))
    && (if x.glob then natBit base 55 && natBits base 52 3 == part && natBits (base + max x.msize 1 - 1) 52 4 == 8 + part
          && natBit (spaceEntry s space) 1
        else !natBit base 55 && decide (base + x.msize ≤ 2 ^ 55))

/-- The contents of the sections lie in the file and do not overlap there. Contents that reach past LENGTH are refused at this step
(DESIGN CHOICE, log 45: R24 names none). -/
def inFileOk (f : List Byte) : Bool :=
  let bytes := (fileSections f).filter (fun x => x.fsize != 0)
  bytes.all (fun x => decide (x.foff + x.fsize ≤ f.length) && bytes.all (fun y =>
    x.idx == y.idx || decide (x.foff + x.fsize ≤ y.foff ∨ y.foff + y.fsize ≤ x.foff)))

/-- A section at an address meets no page of the sections `others`, of an installed module, or that is taken in the space; pages of the
same GLOBAL section of another space are shared (R22, R24). -/
def pagesFree (s : State) (space part crc : Nat) (others : List (SectionEnt × Nat)) (p : SectionEnt × Nat) : Bool :=
  let r := pagesOf p.2 p.1.msize
  let installed := (s.space space).modules.flatMap (fun m => m.sections.map (fun y => pagesOf y.base y.msize))
  others.all (fun q => p.1.idx == q.1.idx || !rangesMeet r (pagesOf q.2 q.1.msize))
    && installed.all (fun q => !rangesMeet r q)
    && (sharedSection s space part crc p.1 && p.1.glob || (List.range r.2).all (fun i => !pageTaken s space part (r.1 + i)))

/-- Step 3: overlap in the file and in the VA space, and the LVA rules of R22, of every section whose address the file gives. -/
def overlapOk (s : State) (space part : Nat) (f : List Byte) : Bool :=
  let given := (fileSections f).filter (fun x => x.lva != 0)
  let paged := (given.filter SectionEnt.paged).map (fun x => (x, x.lva))
  inFileOk f && given.all (fun x => lvaOk s space part x x.lva) && paged.all (pagesFree s space part (fileLE f 0x20 4) paged)

/-- Step 4: the handler-entry rules of Table 1.5. The bytes of the section beyond FSIZE are zero (Table 1.4). -/
def entriesOk (f : List Byte) : Bool :=
  let hs := fileHandlers f
  decide (hs.map (fun h => h.type)).Nodup && hs.all (fun h =>
    match (fileSections f)[h.tsec]? with
    | none => false
    | some x => x.kind == 1 && h.entry % 4 == 0 && decide (h.entry < x.fsize)
        && natBits (fileLE ((f.drop x.foff).take x.fsize) h.entry 4) 26 6 != 0x3F)

/-- VLC for a partition (R14); none without a valid VLP or below VLMIN. -/
def clampedMax (s : State) (part : Nat) (f : List Byte) : Option Nat :=
  let p := (s.part part).logVlp.toNat
  let c := min (fileLE f 9 1) p
  if 9 ≤ p && p ≤ 16 && fileLE f 8 1 ≤ c then some (2 ^ c) else none

/-- Step 6: the LDEP rule (R19). -/
def ldepOk (f : List Byte) (vlc : Nat) : Bool :=
  ((fileSections f).filter SectionEnt.ldep).all (fun x =>
    fileLE f 8 1 == fileLE f 9 1 && 2 ^ fileLE f 9 1 == vlc && x.recvl == fileLE f 8 1)

/-- STACK of a handler at a clamped maximum (R16). -/
def stackOf (h : HandlerEnt) (vlc : Nat) : Nat := roundUp (h.ff + h.fv * (vlc / 8) + (h.sf + h.sv * (vlc / 8))) 128

/-- The region size of a module: the largest STACK of its handlers (R16). -/
def stackSize (f : List Byte) (vlc : Nat) : Nat := ((fileHandlers f).map (fun h => stackOf h vlc)).foldl max 0

/-- The lowest module number that a space does not use (R26). -/
def freeModule (x : Space) : Option Nat := (List.range 64).find? (fun n => !x.modules.any (fun m => m.num == n))

/-- The step of R24 at which jxload refuses a module: 0 for a space without a free number, none where it accepts. -/
def loadRefusal (s : State) (space part : Nat) (f : List Byte) : Option Nat :=
  if (freeModule (s.space space)).isNone then some 0
  else if !headerOk f then some 1
  else if !rangesOk f then some 2
  else if !overlapOk s space part f then some 3
  else if !entriesOk f then some 4
  else
    match clampedMax s part f with
    | none => some 5
    | some vlc =>
      if !ldepOk f vlc then some 6
      else if 0x1000000 < stackSize f vlc then some 7
      else if (s.part part).facets = 0 then some 8
      else none

/-! ## Mapping -/

/-- Frames and tables that a plan has left, and the ranges of HBM that hold something: a base and a number of bytes each. -/
structure Stock where
  frames : List Nat
  tables : List Nat
  taken : List (Nat × Nat)

/-- Nothing stands in a range of HBM. -/
def Stock.free (k : Stock) (a n : Nat) : Bool := k.taken.all (fun r => decide (a + n ≤ r.1 ∨ r.1 + r.2 ≤ a))

/-- The tables that a walk for a VA reads in memory, as far as it gets, and the frame of its page. -/
def walkRanges (s : State) (space part va : Nat) : List (Nat × Nat) :=
  match walkRoot s space part va with
  | none => []
  | some root =>
    (root, 2 ^ 17) ::
    match nextTable (readLE s.mem (root + natBits va 42 14 * 8) 8) 0x1000 with
    | none => []
    | some l1 =>
      (l1, 0x1000) ::
      match nextTable (readLE s.mem (l1 + natBits va 33 9 * 8) 8) 0x1000 with
      | none => []
      | some l2 =>
        (l2, 0x1000) ::
        match nextTable (readLE s.mem (l2 + natBits va 24 9 * 8) 8) 0x800 with
        | none => []
        | some l3 =>
          let pte := readLE s.mem (l3 + natBits va 16 8 * 8) 8
          (l3, 0x800) :: (if natBit pte 0 then [(pteFrame pte, 0x10000)] else [])

/-- The pages of an installed module: its sections' and its stack regions'. -/
def Module.pages (m : Module) : List Nat :=
  (pagesOf m.stackBase.toNat m.stackBytes :: m.sections.map (fun y => pagesOf y.base y.msize)).flatMap (fun r => (List.range r.2).map (fun i => r.1 + i))

/-- The ranges of HBM that jxload leaves alone: the space table, the frames that have an owner (R241), and the tables and frames of the
pages of every installed module and of the pages to be mapped (R24, R25). -/
def takenRanges (s : State) (space part : Nat) (pages : List Nat) : List (Nat × Nat) :=
  let of := fun (sp pt : Nat) (ps : List Nat) => ps.flatMap (fun p => walkRanges s sp pt (p * 65536))
  (s.trans.stpa.toNat * 2 ^ 17, 2 ^ 17) :: s.frames.map (fun o => (o.frame * 65536, 65536))
    ++ s.spaces.flatMap (fun x => of x.id (natBits (spaceEntry s x.id) 2 3) (x.modules.flatMap Module.pages)) ++ of space part pages

/-- The table that an entry names, or a new zeroed one from the plan where nothing stands (R233). -/
def tableFor (s : State) (at_ align bytes : Nat) (k : Stock) : Option (Nat × State × Stock) :=
  match nextTable (readLE s.mem at_ 8) align with
  | some t => some (t, s, k)
  | none =>
    if natBit (readLE s.mem at_ 8) 0 then none
    else
      match k.tables with
      | [] => none
      | t :: rest =>
        if tableOk t align && k.free t bytes then
          some (t, frameWrite (hostFill s t bytes []) at_ 8 (t + 1) (2 ^ 64 - 1), { k with tables := rest, taken := (t, bytes) :: k.taken })
        else none

/-- The physical address of the leaf entry of a page, tables made on the way (R232). jxload maps through the roots as a walk finds
them, so it installs nothing while TCFG0.EN = 0 (DESIGN CHOICE, log 19: R229 speaks of fills and walks). -/
def leafPlace (s : State) (space part va : Nat) (k : Stock) : Option (Nat × State × Stock) := do
  let root ← walkRoot s space part va
  let (l1, s1, k1) ← tableFor s (root + natBits va 42 14 * 8) 0x1000 0x1000 k
  let (l2, s2, k2) ← tableFor s1 (l1 + natBits va 33 9 * 8) 0x1000 0x1000 k1
  let (l3, s3, k3) ← tableFor s2 (l2 + natBits va 24 9 * 8) 0x800 0x800 k2
  some (l3 + natBits va 16 8 * 8, s3, k3)

/-- Permission bits of a section's pages: TEXT R and X, DATA R and W (R22). -/
def sectionPerms (kind : Nat) : Nat := if kind = 1 then 0b1010 else 0b0110

/-- Map one page on the next frame of the plan, where nothing stands, and fill it (R22, R235): `contents` start at its first byte. -/
def mapPage (s : State) (k : Stock) (space part va perms : Nat) (contents : List Byte) : Option (State × Stock) :=
  match k.frames with
  | [] => none
  | fr :: rest => do
    let (at_, s1, k1) ← leafPlace s space part va k
    let pte := fr + perms + (if globalHalf va then 2 ^ 10 else 0) + 1
    if fr % 65536 = 0 && leafValid pte va && isHbm fr && k1.free fr 65536 then
      let s2 := frameWrite s1 at_ 8 pte (2 ^ 64 - 1)
      some (hostFill s2 fr 65536 contents, { k1 with frames := rest, taken := (fr, 65536) :: k1.taken })
    else none

/-- Map consecutive pages. -/
def mapPages (s : State) (k : Stock) (space part va perms n : Nat) (bytes : List Byte) : Option (State × Stock) :=
  match n with
  | 0 => some (s, k)
  | m + 1 => do
    let (s1, k1) ← mapPage s k space part va perms (bytes.take 65536)
    mapPages s1 k1 space part (va + 65536) perms m (bytes.drop 65536)

/-- Map a section at its address (R22). -/
def mapSection (s : State) (k : Stock) (space part : Nat) (f : List Byte) (x : SectionEnt) (base : Nat) :
    Option (State × Stock) :=
  if x.glob && sharedSection s space part (fileLE f 0x20 4) x then some (s, k)
  else
    let (page, n) := pagesOf base x.msize
    let bytes := List.replicate (base % 65536) (0 : Byte) ++ (f.drop x.foff).take x.fsize
    mapPages s k space part (page * 65536) (sectionPerms x.kind) n bytes

/-- Map every section of a module, then its stack regions, readable and writable (R16). -/
def mapModule (s : State) (space part : Nat) (f : List Byte) (placed : List (SectionEnt × Nat)) (plan : LoadPlan) :
    Option State := do
  let ranges := (plan.stackBase / 65536, plan.stackPages) :: placed.map (fun p => pagesOf p.2 p.1.msize)
  let pages := ranges.flatMap (fun r => (List.range r.2).map (fun i => r.1 + i))
  let k : Stock := { frames := plan.frames, tables := plan.tables, taken := takenRanges s space part pages }
  let (s1, k1) ← placed.foldl (fun o p => o.bind (fun x => mapSection x.1 x.2 space part f p.1 p.2)) (some (s, k))
  let (s2, _) ← mapPages s1 k1 space part plan.stackBase 0b0110 plan.stackPages []
  some s2

/-- The module record of an accepted file (R26). -/
def moduleOf (num : Nat) (f : List Byte) (placed : List (SectionEnt × Nat)) (vlc : Nat) (plan : LoadPlan) : Module :=
  let base := fun (i : Nat) => ((placed.find? (fun p => p.1.idx == i)).map (fun p => p.2)).getD 0
  { num := num, crc := BitVec.ofNat 32 (fileLE f 0x20 4), vlmin := 2 ^ fileLE f 8 1, vlmax := 2 ^ fileLE f 9 1, vlc := vlc
    handlers := (fileHandlers f).map (fun h =>
      { msgType := BitVec.ofNat 16 h.type, entry := BitVec.ofNat 64 (base h.tsec + h.entry), request := 2 ^ h.initvl })
    sections := placed.map (fun p => { index := p.1.idx, base := p.2, msize := p.1.msize, glob := p.1.glob })
    teamSize := hint f 0 2, gang := natBit (hint f 2 1) 0, stream := natBit (hint f 2 1) 1
    cls := BitVec.ofNat 2 (hint f 3 1), facets := BitVec.ofNat 8 (hint f 4 1), nearseg := hint f 5 1
    stackBase := BitVec.ofNat 64 plan.stackBase, stackSize := stackSize f vlc, stackBytes := plan.stackPages * 65536 }

/-- How many harts of a partition can run a handler of a module at once (R16, R57): as many whole teams as its clusters hold. -/
def stackRegions (s : State) (part : Nat) (f : List Byte) : Nat :=
  (s.part part).list.length * 32 * (512 / hint f 0 2 * hint f 0 2)

/-- The pages of the near window, in which no mapping is ever used (R282). -/
def nearPages : Nat × Nat := (nearVa / 65536, 64)

/-- A plan keeps R10, R16 and R22: the addresses that it chooses, and free pages of the private half for a stack region of every hart
that can run a handler (log 25); neither at address 0 nor in the near window (R10, R282). -/
def planOk (s : State) (space part : Nat) (f : List Byte) (placed : List (SectionEnt × Nat)) (plan : LoadPlan) : Bool :=
  let stack := stackSize f (((clampedMax s part f)).getD 0)
  placed.all (fun p => p.1.lva != 0 || (lvaOk s space part p.1 p.2 && pagesFree s space part (fileLE f 0x20 4) placed p
      && !rangesMeet (pagesOf p.2 p.1.msize) nearPages))
    && plan.stackBase % 65536 == 0 && plan.stackBase != 0 && !rangesMeet (plan.stackBase / 65536, plan.stackPages) nearPages && decide (plan.stackBase + plan.stackPages * 65536 ≤ 2 ^ 55)
    && decide (stackRegions s part f * stack ≤ plan.stackPages * 65536)
    && placed.all (fun p => !rangesMeet (pagesOf p.2 p.1.msize) (plan.stackBase / 65536, plan.stackPages))
    && (List.range plan.stackPages).all (fun i => !pageTaken s space part (plan.stackBase / 65536 + i))

/-- jxload's answer to the host. -/
def State.report (s : State) (space : Nat) (a : LoadAnswer) : State := { s with loadReport := some { space := space, answer := a } }

/-- Install an accepted file on a plan; none where no jxload would choose the plan (log 19). -/
def installModule (s : State) (space part : Nat) (f : List Byte) (plan : LoadPlan) : Option (Nat × State) := do
  let placed ← placedSections (fileSections f) plan.bases
  let vlc ← clampedMax s part f
  let num ← freeModule (s.space space)
  let s1 ← if planOk s space part f placed plan then mapModule s space part f placed plan else none
  let x := s1.space space
  some (num, s1.setSpace { x with modules := moduleOf num f placed vlc plan :: x.modules })

/-- MODULE_LOAD (R24, R26): the module is installed in full or not at all; jxload reports its number, or the step that refuses it. It
works through the host's accesses of HBM, so nothing changes where none is served (R390, R415, R416). -/
def execModuleLoad (space part : Nat) (file : List Byte) (plan : LoadPlan) (s : State) : Out :=
  if !hdmServed s then .next (s.report space .unchanged)
  else
  match loadRefusal s space part file with
  | some n => .next (s.report space (.refused n))
  | none =>
    match installModule s space part file plan with
    | some (num, s1) => .next (s1.report space (.installed num))
    | none => .next (s.report space .unchanged)

/-! ## Removal (R25, R38) -/

/-- A module may be removed: its queues are off and empty, no team runs its handlers, no timed message is held for its
queues (R38). -/
def removable (s : State) (space modNo : Nat) : Bool :=
  let mine := fun (q : Queue) => q.space.toNat == space && q.modNo.toNat == modNo
  s.queues.all (fun q => !mine q || (!q.en && q.held.isEmpty && !s.timers.any (fun t => t.queue == q.num)))
    && !s.teams.any (fun t => t.space.toNat == space && t.modNo == modNo)

/-- Unmap a page and remove its copies (R251). -/
def unmapPage (s : State) (space part page : Nat) : State :=
  let cs := cacheSpace space (page * 65536)
  match walkLeaf s space part (page * 65536) with
  | none => s
  | some (_, at_) => invalPage (dropPageLeaves (frameWrite s at_ 8 0 (2 ^ 64 - 1)) cs page) cs page

/-- A GLOBAL section stays mapped while another installed module shares it (R22). -/
def stillShared (s : State) (space part : Nat) (m : Module) (y : SectionMap) : Bool :=
  y.glob && s.spaces.any (fun sp => sp.id != space && natBits (spaceEntry s sp.id) 2 3 == part && sp.modules.any (fun n =>
    n.crc == m.crc && n.sections.any (fun z => z == y)))

/-- MODULE_REMOVE (R38), through the host's accesses of HBM as a load. -/
def execModuleRemove (space modNo : Nat) (s : State) : Out :=
  let x := s.space space
  match x.modules.find? (fun m => m.num == modNo) with
  | none => .next (s.report space .unchanged)
  | some m =>
    if hdmServed s && removable s space modNo then
      let part := natBits (spaceEntry s space) 2 3
      let gone := m.sections.filter (fun y => !stillShared s space part m y)
      let s1 := gone.foldl (fun s y =>
        let (page, n) := pagesOf y.base y.msize
        (List.range n).foldl (fun s i => unmapPage s space part (page + i)) s) s
      let x1 := s1.space space
      .next ((s1.setSpace { x1 with modules := x1.modules.filter (fun k => k.num != modNo) }).report space (.removed modNo))
    else .next (s.report space .unchanged)

end Sys2Proof.Machine
end

