-- ==== Sys2Proof/Machine/MemInstr.lean ====
section
/-! DEFINITION. Scalar loads, stores and atomics (R254 to R264). -/

namespace Sys2Proof.Machine

/-- The checks of R254 on an access of `size` bytes: the wait for the host's copy of the space-table entry (R408), the trap of a check
that fails, or `k`. -/
def withCheck (s : State) (a : Word) (size : Nat) (k : State → Out) : Out :=
  match checkSnoop s a.toNat size with
  | some s1 => waiting s1 .stall
  | none =>
    match preCheck s a.toNat size with
    | some code => trapAt s (BitVec.ofNat 8 code) a
    | none => k s

/-! ## Loads -/

/-- A scalar load of `size` bytes at an address: the checks of R254, the wait of R147, the access (R258), an uncached read
in flight completed. One of the hub or host window follows every earlier vector access, which may be a device-class one to that window
(R246, R316). `k` receives the bytes. -/
def scalarLoad (s : State) (a : Word) (size : Nat) (k : Nat → State → Out) : Out :=
  match devBegun s a s.hart.sc.iseq 0 size with
  | some (pa, wc) => onDevice s a pa size wc k
  | none => withCheck s a size (fun s1 =>
    if s1.hart.queueMeets a size then waiting s1 .queue
    else onLoad (loadUnit s1 a size false) a k (fun pa wc s' =>
      if s'.hart.queueTouches then waiting s' .queue else onDevice s' a pa size wc k))

/-- A load that writes a general register: sign- or zero-extended from its size (Table 11.2). -/
def loadTo (g : GReg) (a : Word) (size : Nat) (isSext : Bool) (s : State) : Out :=
  scalarLoad s a size (fun x s' =>
    let v : Word := if isSext && natBit x (8 * size - 1) then BitVec.ofInt 64 ((x : Int) - (2 ^ (8 * size) : Nat))
      else BitVec.ofNat 64 x
    writeNext s' g v)

/-- `ld.b` (R258). -/
def execLdB (g b : GReg) (i : BitVec 11) (s : State) : Out := loadTo g (s.ea b i) 1 true s

/-- `ld.h` (R258). -/
def execLdH (g b : GReg) (i : BitVec 11) (s : State) : Out := loadTo g (s.ea b i) 2 true s

/-- `ld.w` (R258). -/
def execLdW (g b : GReg) (i : BitVec 11) (s : State) : Out := loadTo g (s.ea b i) 4 true s

/-- `ld.d` (R258). -/
def execLdD (g b : GReg) (i : BitVec 11) (s : State) : Out := loadTo g (s.ea b i) 8 false s

/-- `ld.bu` (R258). -/
def execLdBu (g b : GReg) (i : BitVec 11) (s : State) : Out := loadTo g (s.ea b i) 1 false s

/-- `ld.hu` (R258). -/
def execLdHu (g b : GReg) (i : BitVec 11) (s : State) : Out := loadTo g (s.ea b i) 2 false s

/-- `ld.wu` (R258). -/
def execLdWu (g b : GReg) (i : BitVec 11) (s : State) : Out := loadTo g (s.ea b i) 4 false s

/-- `ld.acq.w` (R259): loads like `ld.wu`; the hart's later accesses follow because it holds until the value is
written. -/
def execLdAcqW (g b : GReg) (_ : Scope) (s : State) : Out := loadTo g (s.g b) 4 false s

/-- `ld.acq.d` (R259): loads like `ld.d`. -/
def execLdAcqD (g b : GReg) (_ : Scope) (s : State) : Out := loadTo g (s.g b) 8 false s

/-! ## Stores -/

/-- The copy of a line in the hart's own data L1 with W set, where a scalar store may be performed at once (R258): no own store to the
same bits waits or is held (R326), and the host holds no copy of the line, which a snoop takes away first (R252, R408). -/
def directCopy (s : State) (va size : Nat) : Option CacheLine :=
  if s.hart.stores.any (fun l => l.touches va size) then none
  else (copyAt s (.l1d s.hart.id.core) (cacheSpace s.sp va) (va / 128)).filter (fun c => c.w && !hostHolds s c.pline)

/-- Perform or retire a scalar store whose checks have passed; `k` goes on (R151, R258). -/
def placeStore (s : State) (a : Word) (size data : Nat) (k : State → Out) : Out :=
  let va := a.toNat
  let mask := 2 ^ (8 * size) - 1
  match (if inNear va then none else directCopy s va size) with
  | some c =>
    let l := storeLineOf s va size data mask 0 false false s.hart.sc.iseq (s.hart.sc.pc.setWidth 56)
    k (performAt s l c.cspace c.pline true (ownPlaces s false))
  | none =>
    match storeUnit s a size data mask 0 false false s.hart.sc.iseq (s.hart.sc.pc.setWidth 56) with
    | .ok s' => k s'
    | .fault code => trapAt s (BitVec.ofNat 8 code) a
    | .full => waiting s .stores
    | .wait s1 => waiting s1 .stall

/-- A scalar store of the low `size` bytes of a register (R258): the checks of R254, the wait for earlier vector accesses, the store.
R147 has it wait for those of its own bytes, and R316 keeps it from being performed before any earlier load; it waits for every entry
that may access memory, and so retires behind none that a trap could set aside (DESIGN CHOICE, log 10). -/
def scalarStore (s : State) (a : Word) (size : Nat) (x : Word) (k : State → Out) : Out :=
  withCheck s a size (fun s1 =>
    if s1.hart.queueTouches then waiting s1 .queue else placeStore s1 a size (x.toNat % 2 ^ (8 * size)) k)

/-- A store instruction (R258). -/
def storeFrom (g : GReg) (a : Word) (size : Nat) (s : State) : Out :=
  scalarStore s a size (s.g g) (fun s' => .next (s'.advance 4))

/-- `st.b` (R258). -/
def execStB (g b : GReg) (i : BitVec 11) (s : State) : Out := storeFrom g (s.ea b i) 1 s

/-- `st.h` (R258). -/
def execStH (g b : GReg) (i : BitVec 11) (s : State) : Out := storeFrom g (s.ea b i) 2 s

/-- `st.w` (R258). -/
def execStW (g b : GReg) (i : BitVec 11) (s : State) : Out := storeFrom g (s.ea b i) 4 s

/-- `st.d` (R258). -/
def execStD (g b : GReg) (i : BitVec 11) (s : State) : Out := storeFrom g (s.ea b i) 8 s

/-- A release store (R259, R260): the checks of R254 and of R226 and R227 (these first: DESIGN CHOICE, log 31), the waits and the trap of a
release, then the store. -/
def releaseStore (g : GReg) (a : Word) (size : Nat) (sc : Scope) (s : State) : Out :=
  withCheck s a size (fun s1 => withRelease s1 sc a (storeFrom g a size s1))

/-- `st.rel.w` (R259, R260). -/
def execStRelW (g b : GReg) (sc : Scope) (s : State) : Out := releaseStore g (s.g b) 4 sc s

/-- `st.rel.d` (R259, R260). -/
def execStRelD (g b : GReg) (sc : Scope) (s : State) : Out := releaseStore g (s.g b) 8 sc s

/-! ## Atomics -/

/-- The new value of an atomic, if it writes, from the old value, the operand b and gd on entry; and its flags (Table
11.4). -/
abbrev AmoFn := Nat → Word → Word → Option Nat × BitVec 5

/-- An atomic that always writes and raises no flag. -/
def amoPlain (f : Word → Word → Word) : AmoFn := fun old b _ => (some (f (BitVec.ofNat 64 old) b).toNat, 0)

/-- Perform a scalar atomic whose release part is done (R262): gd receives the old value. It writes, so it follows every earlier
vector access (R316). -/
def amoAccess (f : AmoFn) (d a b : GReg) (s : State) : Out :=
  let addr := s.g a
  let x := s.g b
  let y := s.g d
  if s.hart.queueTouches then waiting s .queue
  else
    match atomicUnit s addr 8 (fun old => (f old x y).1) with
    | .done old s' => .next (((s'.raiseFlags (f old x y).2).setG d (BitVec.ofNat 64 old)).advance 4)
    | .fault code s' => trapAt s' (BitVec.ofNat 8 code) addr
    | .wait w s' => waiting s' w

/-- A scalar atomic (R261 to R264). The checks of R226 and R227 come before the waits and the trap of its release (DESIGN CHOICE, log 31). -/
def amo (f : AmoFn) (d a b : GReg) (o : MemOrder) (sc : Scope) (s : State) : Out :=
  withCheck s (s.g a) 8 (fun s1 =>
    match o with
    | .release | .acqRel => withRelease s1 sc (s1.g a) (amoAccess f d a b s1)
    | .relaxed | .acquire => amoAccess f d a b s1)

/-- The smaller of two words by an order. -/
def pickBy (le : Word → Word → Bool) (a b : Word) : Word := if le a b then a else b

/-- `amo.add` (Table 11.4). -/
def execAmoAdd (d a b : GReg) (o : MemOrder) (sc : Scope) (s : State) : Out := amo (amoPlain (fun x y => x + y)) d a b o sc s

/-- `amo.and` (Table 11.4). -/
def execAmoAnd (d a b : GReg) (o : MemOrder) (sc : Scope) (s : State) : Out := amo (amoPlain (fun x y => x &&& y)) d a b o sc s

/-- `amo.or` (Table 11.4). -/
def execAmoOr (d a b : GReg) (o : MemOrder) (sc : Scope) (s : State) : Out := amo (amoPlain (fun x y => x ||| y)) d a b o sc s

/-- `amo.xor` (Table 11.4). -/
def execAmoXor (d a b : GReg) (o : MemOrder) (sc : Scope) (s : State) : Out := amo (amoPlain (fun x y => x ^^^ y)) d a b o sc s

/-- `amo.min` (Table 11.4): by s(). -/
def execAmoMin (d a b : GReg) (o : MemOrder) (sc : Scope) (s : State) : Out :=
  amo (amoPlain (pickBy (fun x y => decide (x.toInt ≤ y.toInt)))) d a b o sc s

/-- `amo.max` (Table 11.4): by s(). -/
def execAmoMax (d a b : GReg) (o : MemOrder) (sc : Scope) (s : State) : Out :=
  amo (amoPlain (pickBy (fun x y => decide (y.toInt ≤ x.toInt)))) d a b o sc s

/-- `amo.minu` (Table 11.4): by u(). -/
def execAmoMinu (d a b : GReg) (o : MemOrder) (sc : Scope) (s : State) : Out :=
  amo (amoPlain (pickBy (fun x y => decide (x.toNat ≤ y.toNat)))) d a b o sc s

/-- `amo.maxu` (Table 11.4): by u(). -/
def execAmoMaxu (d a b : GReg) (o : MemOrder) (sc : Scope) (s : State) : Out :=
  amo (amoPlain (pickBy (fun x y => decide (y.toNat ≤ x.toNat)))) d a b o sc s

/-- `amo.swap` (Table 11.4). -/
def execAmoSwap (d a b : GReg) (o : MemOrder) (sc : Scope) (s : State) : Out := amo (amoPlain (fun _ y => y)) d a b o sc s

/-- `amo.cas` (Table 11.4): writes only when the old value equals gd. -/
def execAmoCas (d a b : GReg) (o : MemOrder) (sc : Scope) (s : State) : Out :=
  amo (fun old b e => (if old = e.toNat then some b.toNat else none, 0)) d a b o sc s

/-- `amo.incb` (Table 11.4): writes only below the bound. -/
def execAmoIncb (d a b : GReg) (o : MemOrder) (sc : Scope) (s : State) : Out :=
  amo (fun old b _ => (if old < b.toNat then some (old + 1) else none, 0)) d a b o sc s

/-- `amo.fmin` (Table 11.4): the FP64 minimum under R117. -/
def execAmoFmin (d a b : GReg) (o : MemOrder) (sc : Scope) (s : State) : Out :=
  amo (fun old b _ => (some (fpMinMax .fp64 false old b.toNat).1, (fpMinMax .fp64 false old b.toNat).2)) d a b o sc s

/-- The FP64 sum rounded to nearest even whatever FRM holds (Table 11.4). -/
def amoSum (f : Fmt) (old x : Nat) : FpRes := fpAddV f { mode := .rne } (unpack f old) (unpack f x)

/-- `amo.fadd` (Table 11.4). -/
def execAmoFadd (d a b : GReg) (o : MemOrder) (sc : Scope) (s : State) : Out :=
  amo (fun old b _ => (some (amoSum .fp64 old b.toNat).1, (amoSum .fp64 old b.toNat).2)) d a b o sc s

end Sys2Proof.Machine
end

