-- ==== Sys2Proof/Machine/Dispatch.lean ====
section
/-! DEFINITION. One arm per constructor of Instr: each calls the meaning of its instruction or event. -/

namespace Sys2Proof.Machine

/-- What an instruction, or an event, does to the machine. -/
def exec (i : Instr) (s : State) : Host.Outcome State Fault Refusal :=
  match i with
  | .vadd d a b p z => Sys2Proof.Machine.execVadd d a b p z s
  | .vsub d a b p z => Sys2Proof.Machine.execVsub d a b p z s
  | .vmul d a b p z => Sys2Proof.Machine.execVmul d a b p z s
  | .vdiv d a b p z => Sys2Proof.Machine.execVdiv d a b p z s
  | .vmin d a b p z => Sys2Proof.Machine.execVmin d a b p z s
  | .vmax d a b p z => Sys2Proof.Machine.execVmax d a b p z s
  | .vfma d a b p z => Sys2Proof.Machine.execVfma d a b p z s
  | .vfms d a b p z => Sys2Proof.Machine.execVfms d a b p z s
  | .vnfma d a b p z => Sys2Proof.Machine.execVnfma d a b p z s
  | .vabs d a p z => Sys2Proof.Machine.execVabs d a p z s
  | .vneg d a p z => Sys2Proof.Machine.execVneg d a p z s
  | .vsqrt d a p z => Sys2Proof.Machine.execVsqrt d a p z s
  | .vand d a b p z => Sys2Proof.Machine.execVand d a b p z s
  | .vor d a b p z => Sys2Proof.Machine.execVor d a b p z s
  | .vxor d a b p z => Sys2Proof.Machine.execVxor d a b p z s
  | .vsll d a b p z => Sys2Proof.Machine.execVsll d a b p z s
  | .vsrl d a b p z => Sys2Proof.Machine.execVsrl d a b p z s
  | .vsra d a b p z => Sys2Proof.Machine.execVsra d a b p z s
  | .vmulh d a b p z => Sys2Proof.Machine.execVmulh d a b p z s
  | .vsadd d a b p z => Sys2Proof.Machine.execVsadd d a b p z s
  | .vssub d a b p z => Sys2Proof.Machine.execVssub d a b p z s
  | .vmov d a p z => Sys2Proof.Machine.execVmov d a p z s
  | .vsel d a b p => Sys2Proof.Machine.execVsel d a b p s
  | .vexp2 d a p z => Sys2Proof.Machine.execVexp2 d a p z s
  | .vlog2 d a p z => Sys2Proof.Machine.execVlog2 d a p z s
  | .vrcp d a p z => Sys2Proof.Machine.execVrcp d a p z s
  | .vrsqrt d a p z => Sys2Proof.Machine.execVrsqrt d a p z s
  | .vclz d a p z => Sys2Proof.Machine.execVclz d a p z s
  | .vpopc d a p z => Sys2Proof.Machine.execVpopc d a p z s
  | .vaddVx d a g p z => Sys2Proof.Machine.execVaddVx d a g p z s
  | .vsubVx d a g p z => Sys2Proof.Machine.execVsubVx d a g p z s
  | .vmulVx d a g p z => Sys2Proof.Machine.execVmulVx d a g p z s
  | .vdivVx d a g p z => Sys2Proof.Machine.execVdivVx d a g p z s
  | .vminVx d a g p z => Sys2Proof.Machine.execVminVx d a g p z s
  | .vmaxVx d a g p z => Sys2Proof.Machine.execVmaxVx d a g p z s
  | .vfmaVx d a g p z => Sys2Proof.Machine.execVfmaVx d a g p z s
  | .vfmsVx d a g p z => Sys2Proof.Machine.execVfmsVx d a g p z s
  | .vnfmaVx d a g p z => Sys2Proof.Machine.execVnfmaVx d a g p z s
  | .vandVx d a g p z => Sys2Proof.Machine.execVandVx d a g p z s
  | .vorVx d a g p z => Sys2Proof.Machine.execVorVx d a g p z s
  | .vxorVx d a g p z => Sys2Proof.Machine.execVxorVx d a g p z s
  | .vsllVx d a g p z => Sys2Proof.Machine.execVsllVx d a g p z s
  | .vsrlVx d a g p z => Sys2Proof.Machine.execVsrlVx d a g p z s
  | .vsraVx d a g p z => Sys2Proof.Machine.execVsraVx d a g p z s
  | .vmulhVx d a g p z => Sys2Proof.Machine.execVmulhVx d a g p z s
  | .vsaddVx d a g p z => Sys2Proof.Machine.execVsaddVx d a g p z s
  | .vssubVx d a g p z => Sys2Proof.Machine.execVssubVx d a g p z s
  | .vselVx d a g p => Sys2Proof.Machine.execVselVx d a g p s
  | .vbcast d g p z => Sys2Proof.Machine.execVbcast d g p z s
  | .vaddi d a imm p z => Sys2Proof.Machine.execVaddi d a imm p z s
  | .vslli d a imm p z => Sys2Proof.Machine.execVslli d a imm p z s
  | .vsrli d a imm p z => Sys2Proof.Machine.execVsrli d a imm p z s
  | .vsrai d a imm p z => Sys2Proof.Machine.execVsrai d a imm p z s
  | .vandi d a imm p z => Sys2Proof.Machine.execVandi d a imm p z s
  | .vori d a imm p z => Sys2Proof.Machine.execVori d a imm p z s
  | .vxori d a imm p z => Sys2Proof.Machine.execVxori d a imm p z s
  | .vcmpeq d a b p z => Sys2Proof.Machine.execVcmpeq d a b p z s
  | .vcmpne d a b p z => Sys2Proof.Machine.execVcmpne d a b p z s
  | .vcmplt d a b p z => Sys2Proof.Machine.execVcmplt d a b p z s
  | .vcmple d a b p z => Sys2Proof.Machine.execVcmple d a b p z s
  | .vcmpgt d a b p z => Sys2Proof.Machine.execVcmpgt d a b p z s
  | .vcmpge d a b p z => Sys2Proof.Machine.execVcmpge d a b p z s
  | .vcmpuo d a b p z => Sys2Proof.Machine.execVcmpuo d a b p z s
  | .vcmpcls d a b p z => Sys2Proof.Machine.execVcmpcls d a b p z s
  | .vcmpeqVx d a g p z => Sys2Proof.Machine.execVcmpeqVx d a g p z s
  | .vcmpneVx d a g p z => Sys2Proof.Machine.execVcmpneVx d a g p z s
  | .vcmpltVx d a g p z => Sys2Proof.Machine.execVcmpltVx d a g p z s
  | .vcmpleVx d a g p z => Sys2Proof.Machine.execVcmpleVx d a g p z s
  | .vcmpgtVx d a g p z => Sys2Proof.Machine.execVcmpgtVx d a g p z s
  | .vcmpgeVx d a g p z => Sys2Proof.Machine.execVcmpgeVx d a g p z s
  | .vcmpuoVx d a g p z => Sys2Proof.Machine.execVcmpuoVx d a g p z s
  | .vcmpclsVx d a g p z => Sys2Proof.Machine.execVcmpclsVx d a g p z s
  | .vredsum d a p => Sys2Proof.Machine.execVredsum d a p s
  | .vredosum d a p => Sys2Proof.Machine.execVredosum d a p s
  | .vredmin d a p => Sys2Proof.Machine.execVredmin d a p s
  | .vredmax d a p => Sys2Proof.Machine.execVredmax d a p s
  | .vredand d a p => Sys2Proof.Machine.execVredand d a p s
  | .vredor d a p => Sys2Proof.Machine.execVredor d a p s
  | .vredxor d a p => Sys2Proof.Machine.execVredxor d a p s
  | .vredsumW d a p => Sys2Proof.Machine.execVredsumW d a p s
  | .vslideup d a g p z => Sys2Proof.Machine.execVslideup d a g p z s
  | .vslidedn d a g p z => Sys2Proof.Machine.execVslidedn d a g p z s
  | .vrgather d a b p z => Sys2Proof.Machine.execVrgather d a b p z s
  | .vcompress d a p => Sys2Proof.Machine.execVcompress d a p s
  | .vexpand d a p z => Sys2Proof.Machine.execVexpand d a p z s
  | .viota d p z => Sys2Proof.Machine.execViota d p z s
  | .vzip d a b p z => Sys2Proof.Machine.execVzip d a b p z s
  | .vunzip d a b p z => Sys2Proof.Machine.execVunzip d a b p z s
  | .vrev d a p z => Sys2Proof.Machine.execVrev d a p z s
  | .vcvt d a t p z k sc r => Sys2Proof.Machine.execVcvt d a t p z k sc r s
  | .vcvtBits d a t p z => Sys2Proof.Machine.execVcvtBits d a t p z s
  | .setvl d a k => Sys2Proof.Machine.execSetvl d a k s
  | .vcfg d f => Sys2Proof.Machine.execVcfg d f s
  | .vmvg d imm v => Sys2Proof.Machine.execVmvg d imm v s
  | .vins d a imm => Sys2Proof.Machine.execVins d a imm s
  | .vfree => Sys2Proof.Machine.execVfree s
  | .vld d b x p f => Sys2Proof.Machine.execVld d b x p f s
  | .vlds d b x p f => Sys2Proof.Machine.execVlds d b x p f s
  | .vldx d b x p f => Sys2Proof.Machine.execVldx d b x p f s
  | .vldff d b x p f => Sys2Proof.Machine.execVldff d b x p f s
  | .vst sc b x p n => Sys2Proof.Machine.execVst sc b x p n s
  | .vsts sc b x p n => Sys2Proof.Machine.execVsts sc b x p n s
  | .vstx sc b x p n => Sys2Proof.Machine.execVstx sc b x p n s
  | .vldT t b x => Sys2Proof.Machine.execVldT t b x s
  | .vstT t b x => Sys2Proof.Machine.execVstT t b x s
  | .vldR v b x k => Sys2Proof.Machine.execVldR v b x k s
  | .vstR v b x k => Sys2Proof.Machine.execVstR v b x k s
  | .vldAv d b x f => Sys2Proof.Machine.execVldAv d b x f s
  | .vldAm d b x f => Sys2Proof.Machine.execVldAm d b x f s
  | .vamoAdd d b imm p sc => Sys2Proof.Machine.execVamoAdd d b imm p sc s
  | .vamoMin d b imm p sc => Sys2Proof.Machine.execVamoMin d b imm p sc s
  | .vamoMax d b imm p sc => Sys2Proof.Machine.execVamoMax d b imm p sc s
  | .vamoAnd d b imm p sc => Sys2Proof.Machine.execVamoAnd d b imm p sc s
  | .vamoOr d b imm p sc => Sys2Proof.Machine.execVamoOr d b imm p sc s
  | .vamoXor d b imm p sc => Sys2Proof.Machine.execVamoXor d b imm p sc s
  | .vamoSwap d b imm p sc => Sys2Proof.Machine.execVamoSwap d b imm p sc s
  | .vamoFmin d b imm p sc => Sys2Proof.Machine.execVamoFmin d b imm p sc s
  | .vamoFadd d b imm p sc => Sys2Proof.Machine.execVamoFadd d b imm p sc s
  | .pand d a b => Sys2Proof.Machine.execPand d a b s
  | .por d a b => Sys2Proof.Machine.execPor d a b s
  | .pxor d a b => Sys2Proof.Machine.execPxor d a b s
  | .pandn d a b => Sys2Proof.Machine.execPandn d a b s
  | .pnot d a => Sys2Proof.Machine.execPnot d a s
  | .pset g d => Sys2Proof.Machine.execPset g d s
  | .pcnt g a b => Sys2Proof.Machine.execPcnt g a b s
  | .pffs g a b => Sys2Proof.Machine.execPffs g a b s
  | .pbrk d a b => Sys2Proof.Machine.execPbrk d a b s
  | .pmov d a => Sys2Proof.Machine.execPmov d a s
  | .oacc t a b p => Sys2Proof.Machine.execOacc t a b p s
  | .osub t a b p => Sys2Proof.Machine.execOsub t a b p s
  | .mzero t f => Sys2Proof.Machine.execMzero t f s
  | .mrd t d g => Sys2Proof.Machine.execMrd t d g s
  | .mrdc t d g => Sys2Proof.Machine.execMrdc t d g s
  | .mwr t a g => Sys2Proof.Machine.execMwr t a g s
  | .oaccN t a b p => Sys2Proof.Machine.execOaccN t a b p s
  | .cpg d a v n p => Sys2Proof.Machine.execCpg d a v n p s
  | .cpt d a n => Sys2Proof.Machine.execCpt d a n s
  | .cpl d a n => Sys2Proof.Machine.execCpl d a n s
  | .cpmask p n => Sys2Proof.Machine.execCpmask p n s
  | .add d a b => Sys2Proof.Machine.execAdd d a b s
  | .sub d a b => Sys2Proof.Machine.execSub d a b s
  | .and d a b => Sys2Proof.Machine.execAnd d a b s
  | .or d a b => Sys2Proof.Machine.execOr d a b s
  | .xor d a b => Sys2Proof.Machine.execXor d a b s
  | .andn d a b => Sys2Proof.Machine.execAndn d a b s
  | .sll d a b => Sys2Proof.Machine.execSll d a b s
  | .srl d a b => Sys2Proof.Machine.execSrl d a b s
  | .sra d a b => Sys2Proof.Machine.execSra d a b s
  | .rotr d a b => Sys2Proof.Machine.execRotr d a b s
  | .slt d a b => Sys2Proof.Machine.execSlt d a b s
  | .sltu d a b => Sys2Proof.Machine.execSltu d a b s
  | .min d a b => Sys2Proof.Machine.execMin d a b s
  | .max d a b => Sys2Proof.Machine.execMax d a b s
  | .minu d a b => Sys2Proof.Machine.execMinu d a b s
  | .maxu d a b => Sys2Proof.Machine.execMaxu d a b s
  | .mul d a b => Sys2Proof.Machine.execMul d a b s
  | .mulh d a b => Sys2Proof.Machine.execMulh d a b s
  | .mulhu d a b => Sys2Proof.Machine.execMulhu d a b s
  | .div d a b => Sys2Proof.Machine.execDiv d a b s
  | .divu d a b => Sys2Proof.Machine.execDivu d a b s
  | .rem d a b => Sys2Proof.Machine.execRem d a b s
  | .remu d a b => Sys2Proof.Machine.execRemu d a b s
  | .addw d a b => Sys2Proof.Machine.execAddw d a b s
  | .subw d a b => Sys2Proof.Machine.execSubw d a b s
  | .mulw d a b => Sys2Proof.Machine.execMulw d a b s
  | .clz d a => Sys2Proof.Machine.execClz d a s
  | .ctz d a => Sys2Proof.Machine.execCtz d a s
  | .popc d a => Sys2Proof.Machine.execPopc d a s
  | .bswap d a => Sys2Proof.Machine.execBswap d a s
  | .sxb d a => Sys2Proof.Machine.execSxb d a s
  | .sxh d a => Sys2Proof.Machine.execSxh d a s
  | .sxw d a => Sys2Proof.Machine.execSxw d a s
  | .zxw d a => Sys2Proof.Machine.execZxw d a s
  | .addi d a imm => Sys2Proof.Machine.execAddi d a imm s
  | .andi d a imm => Sys2Proof.Machine.execAndi d a imm s
  | .ori d a imm => Sys2Proof.Machine.execOri d a imm s
  | .xori d a imm => Sys2Proof.Machine.execXori d a imm s
  | .slli d a imm => Sys2Proof.Machine.execSlli d a imm s
  | .srli d a imm => Sys2Proof.Machine.execSrli d a imm s
  | .srai d a imm => Sys2Proof.Machine.execSrai d a imm s
  | .slti d a imm => Sys2Proof.Machine.execSlti d a imm s
  | .lhi d imm => Sys2Proof.Machine.execLhi d imm s
  | .beq a b o => Sys2Proof.Machine.execBeq a b o s
  | .bne a b o => Sys2Proof.Machine.execBne a b o s
  | .blt a b o => Sys2Proof.Machine.execBlt a b o s
  | .bge a b o => Sys2Proof.Machine.execBge a b o s
  | .bltu a b o => Sys2Proof.Machine.execBltu a b o s
  | .bgeu a b o => Sys2Proof.Machine.execBgeu a b o s
  | .beqz a o => Sys2Proof.Machine.execBeqz a o s
  | .bnez a o => Sys2Proof.Machine.execBnez a o s
  | .bltz a o => Sys2Proof.Machine.execBltz a o s
  | .bgez a o => Sys2Proof.Machine.execBgez a o s
  | .bgtz a o => Sys2Proof.Machine.execBgtz a o s
  | .blez a o => Sys2Proof.Machine.execBlez a o s
  | .jal d o => Sys2Proof.Machine.execJal d o s
  | .jalr d a imm => Sys2Proof.Machine.execJalr d a imm s
  | .liL d imm => Sys2Proof.Machine.execLiL d imm s
  | .jalL d o => Sys2Proof.Machine.execJalL d o s
  | .addiL d a imm => Sys2Proof.Machine.execAddiL d a imm s
  | .ldB g b imm => Sys2Proof.Machine.execLdB g b imm s
  | .ldH g b imm => Sys2Proof.Machine.execLdH g b imm s
  | .ldW g b imm => Sys2Proof.Machine.execLdW g b imm s
  | .ldD g b imm => Sys2Proof.Machine.execLdD g b imm s
  | .ldBu g b imm => Sys2Proof.Machine.execLdBu g b imm s
  | .ldHu g b imm => Sys2Proof.Machine.execLdHu g b imm s
  | .ldWu g b imm => Sys2Proof.Machine.execLdWu g b imm s
  | .stB g b imm => Sys2Proof.Machine.execStB g b imm s
  | .stH g b imm => Sys2Proof.Machine.execStH g b imm s
  | .stW g b imm => Sys2Proof.Machine.execStW g b imm s
  | .stD g b imm => Sys2Proof.Machine.execStD g b imm s
  | .ldAcqW g b sc => Sys2Proof.Machine.execLdAcqW g b sc s
  | .ldAcqD g b sc => Sys2Proof.Machine.execLdAcqD g b sc s
  | .stRelW g b sc => Sys2Proof.Machine.execStRelW g b sc s
  | .stRelD g b sc => Sys2Proof.Machine.execStRelD g b sc s
  | .amoAdd d a b o sc => Sys2Proof.Machine.execAmoAdd d a b o sc s
  | .amoAnd d a b o sc => Sys2Proof.Machine.execAmoAnd d a b o sc s
  | .amoOr d a b o sc => Sys2Proof.Machine.execAmoOr d a b o sc s
  | .amoXor d a b o sc => Sys2Proof.Machine.execAmoXor d a b o sc s
  | .amoMin d a b o sc => Sys2Proof.Machine.execAmoMin d a b o sc s
  | .amoMax d a b o sc => Sys2Proof.Machine.execAmoMax d a b o sc s
  | .amoMinu d a b o sc => Sys2Proof.Machine.execAmoMinu d a b o sc s
  | .amoMaxu d a b o sc => Sys2Proof.Machine.execAmoMaxu d a b o sc s
  | .amoSwap d a b o sc => Sys2Proof.Machine.execAmoSwap d a b o sc s
  | .amoCas d a b o sc => Sys2Proof.Machine.execAmoCas d a b o sc s
  | .amoIncb d a b o sc => Sys2Proof.Machine.execAmoIncb d a b o sc s
  | .amoFmin d a b o sc => Sys2Proof.Machine.execAmoFmin d a b o sc s
  | .amoFadd d a b o sc => Sys2Proof.Machine.execAmoFadd d a b o sc s
  | .faddS d a b => Sys2Proof.Machine.execFaddS d a b s
  | .faddD d a b => Sys2Proof.Machine.execFaddD d a b s
  | .fsubS d a b => Sys2Proof.Machine.execFsubS d a b s
  | .fsubD d a b => Sys2Proof.Machine.execFsubD d a b s
  | .fmulS d a b => Sys2Proof.Machine.execFmulS d a b s
  | .fmulD d a b => Sys2Proof.Machine.execFmulD d a b s
  | .fdivS d a b => Sys2Proof.Machine.execFdivS d a b s
  | .fdivD d a b => Sys2Proof.Machine.execFdivD d a b s
  | .fsqrtS d a => Sys2Proof.Machine.execFsqrtS d a s
  | .fsqrtD d a => Sys2Proof.Machine.execFsqrtD d a s
  | .fminS d a b => Sys2Proof.Machine.execFminS d a b s
  | .fminD d a b => Sys2Proof.Machine.execFminD d a b s
  | .fmaxS d a b => Sys2Proof.Machine.execFmaxS d a b s
  | .fmaxD d a b => Sys2Proof.Machine.execFmaxD d a b s
  | .fmacS d a b => Sys2Proof.Machine.execFmacS d a b s
  | .fmacD d a b => Sys2Proof.Machine.execFmacD d a b s
  | .fnegS d a => Sys2Proof.Machine.execFnegS d a s
  | .fnegD d a => Sys2Proof.Machine.execFnegD d a s
  | .fabsS d a => Sys2Proof.Machine.execFabsS d a s
  | .fabsD d a => Sys2Proof.Machine.execFabsD d a s
  | .feqS d a b => Sys2Proof.Machine.execFeqS d a b s
  | .feqD d a b => Sys2Proof.Machine.execFeqD d a b s
  | .fltS d a b => Sys2Proof.Machine.execFltS d a b s
  | .fltD d a b => Sys2Proof.Machine.execFltD d a b s
  | .fleS d a b => Sys2Proof.Machine.execFleS d a b s
  | .fleD d a b => Sys2Proof.Machine.execFleD d a b s
  | .fclassS d a => Sys2Proof.Machine.execFclassS d a s
  | .fclassD d a => Sys2Proof.Machine.execFclassD d a s
  | .fcvtSD d a => Sys2Proof.Machine.execFcvtSD d a s
  | .fcvtDS d a => Sys2Proof.Machine.execFcvtDS d a s
  | .fcvtLS d a => Sys2Proof.Machine.execFcvtLS d a s
  | .fcvtLD d a => Sys2Proof.Machine.execFcvtLD d a s
  | .fcvtSL d a => Sys2Proof.Machine.execFcvtSL d a s
  | .fcvtDL d a => Sys2Proof.Machine.execFcvtDL d a s
  | .sysrd d imm => Sys2Proof.Machine.execSysrd d imm s
  | .syswr a imm => Sys2Proof.Machine.execSyswr a imm s
  | .trap imm => Sys2Proof.Machine.execTrap imm s
  | .done => Sys2Proof.Machine.execDone s
  | .yield => Sys2Proof.Machine.execYield s
  | .eret => Sys2Proof.Machine.execEret s
  | .launch d a imm => Sys2Proof.Machine.execLaunch d a imm s
  | .replay d a => Sys2Proof.Machine.execReplay d a s
  | .fence o sc => Sys2Proof.Machine.execFence o sc s
  | .barArv d n sc => Sys2Proof.Machine.execBarArv d n sc s
  | .barWt d a n sc => Sys2Proof.Machine.execBarWt d a n sc s
  | .barSy d n sc => Sys2Proof.Machine.execBarSy d n sc s
  | .stripTake d n => Sys2Proof.Machine.execStripTake d n s
  | .stripDeclare d a n => Sys2Proof.Machine.execStripDeclare d a n s
  | .vsync k => Sys2Proof.Machine.execVsync k s
  | .inval n a imm => Sys2Proof.Machine.execInval n a imm s
  | .ptsync a k => Sys2Proof.Machine.execPtsync a k s
  | .cpavail d n => Sys2Proof.Machine.execCpavail d n s
  | .cpwait d a n => Sys2Proof.Machine.execCpwait d a n s
  | .bxInit a k n => Sys2Proof.Machine.execBxInit a k n s
  | .bxExp n a => Sys2Proof.Machine.execBxExp n a s
  | .bxWait d a => Sys2Proof.Machine.execBxWait d a s
  | .cpsel n => Sys2Proof.Machine.execCpsel n s
  | .moduleLoad space part file plan => Sys2Proof.Machine.execModuleLoad space part file plan s
  | .moduleRemove space modNo => Sys2Proof.Machine.execModuleRemove space modNo s
  | .wakeWrite offset bytes data => Sys2Proof.Machine.execWakeWrite offset bytes data s
  | .timerFire imm => Sys2Proof.Machine.execTimerFire imm s
  | .peerMessageReceive port device queue msg => Sys2Proof.Machine.execPeerMessageReceive port device queue msg s
  | .onyxDispatch choice => Sys2Proof.Machine.execOnyxDispatch choice s
  | .teamPlace imm => Sys2Proof.Machine.execTeamPlace imm s
  | .teamResume team => Sys2Proof.Machine.execTeamResume team s
  | .handlerEntry h => Sys2Proof.Machine.execHandlerEntry h s
  | .streamTimeout imm => Sys2Proof.Machine.execStreamTimeout imm s
  | .streamDrainComplete imm => Sys2Proof.Machine.execStreamDrainComplete imm s
  | .queueEnable q => Sys2Proof.Machine.execQueueEnable q s
  | .queueDisable q => Sys2Proof.Machine.execQueueDisable q s
  | .queueMaxteamsWrite q n => Sys2Proof.Machine.execQueueMaxteamsWrite q n s
  | .partitionEnable p => Sys2Proof.Machine.execPartitionEnable p s
  | .partitionOut p => Sys2Proof.Machine.execPartitionOut p s
  | .partitionHaltComplete p => Sys2Proof.Machine.execPartitionHaltComplete p s
  | .partitionIn p => Sys2Proof.Machine.execPartitionIn p s
  | .partitionRestoreComplete p => Sys2Proof.Machine.execPartitionRestoreComplete p s
  | .teamMove team facet cluster => Sys2Proof.Machine.execTeamMove team facet cluster s
  | .teamMoveComplete team => Sys2Proof.Machine.execTeamMoveComplete team s
  | .laneRequestAge h => Sys2Proof.Machine.execLaneRequestAge h s
  | .vqEntryCommit h => Sys2Proof.Machine.execVqEntryCommit h s
  | .setvlGrant h => Sys2Proof.Machine.execSetvlGrant h s
  | .rebind h => Sys2Proof.Machine.execRebind h s
  | .fold h elems => Sys2Proof.Machine.execFold h elems s
  | .unfold h => Sys2Proof.Machine.execUnfold h s
  | .storeLineTranslate h imm => Sys2Proof.Machine.execStoreLineTranslate h imm s
  | .homeRequest h va kind => Sys2Proof.Machine.execHomeRequest h va kind s
  | .migStallResume h imm => Sys2Proof.Machine.execMigStallResume h imm s
  | .frameRelease frame => Sys2Proof.Machine.execFrameRelease frame s
  | .frameReleaseComplete frame => Sys2Proof.Machine.execFrameReleaseComplete frame s
  | .hostMemAccess pa data hold => Sys2Proof.Machine.execHostMemAccess pa data hold s
  | .hostBirsp line writeBack => Sys2Proof.Machine.execHostBirsp line writeBack s
  | .hostSnoopTimeout line => Sys2Proof.Machine.execHostSnoopTimeout line s
  | .copyRowComplete h stream op row => Sys2Proof.Machine.execCopyRowComplete h stream op row s
  | .copyRowFault h stream op row => Sys2Proof.Machine.execCopyRowFault h stream op row s
  | .barrierComplete kind owner facet b => Sys2Proof.Machine.execBarrierComplete kind owner facet b s
  | .barrierPhaseRelease h => Sys2Proof.Machine.execBarrierPhaseRelease h s
  | .phasePlanWrite facet dw value => Sys2Proof.Machine.execPhasePlanWrite facet dw value s
  | .asyncCauseTake h => Sys2Proof.Machine.execAsyncCauseTake h s
  | .watchdog h => Sys2Proof.Machine.execWatchdog h s
  | .yieldTimeout h => Sys2Proof.Machine.execYieldTimeout h s
  | .governorTick facet ratio => Sys2Proof.Machine.execGovernorTick facet ratio s
  | .governorStep facet draw => Sys2Proof.Machine.execGovernorStep facet draw s
  | .governorWrite facet dw value => Sys2Proof.Machine.execGovernorWrite facet dw value s
  | .laneClockGate h => Sys2Proof.Machine.execLaneClockGate h s
  | .matrixGate h => Sys2Proof.Machine.execMatrixGate h s
  | .thermalWarn facet temp => Sys2Proof.Machine.execThermalWarn facet temp s
  | .throttleStep facet => Sys2Proof.Machine.execThrottleStep facet s
  | .thermalEmergency facet temp => Sys2Proof.Machine.execThermalEmergency facet temp s
  | .emergencyStageComplete => Sys2Proof.Machine.execEmergencyStageComplete s
  | .thermalResume => Sys2Proof.Machine.execThermalResume s
  | .hardTrip facet temp => Sys2Proof.Machine.execHardTrip facet temp s
  | .postmortemClear => Sys2Proof.Machine.execPostmortemClear s
  | .energyUpdate added => Sys2Proof.Machine.execEnergyUpdate added s
  | .energyLowRead requester offset => Sys2Proof.Machine.execEnergyLowRead requester offset s
  | .energyHighRead requester offset => Sys2Proof.Machine.execEnergyHighRead requester offset s
  | .teamIdleRetire team => Sys2Proof.Machine.execTeamIdleRetire team s
  | .accountingUpdate => Sys2Proof.Machine.execAccountingUpdate s
  | .accountingClear space => Sys2Proof.Machine.execAccountingClear space s
  | .timeStep delta => Sys2Proof.Machine.execTimeStep delta s
  | .ppsEdge => Sys2Proof.Machine.execPpsEdge s
  | .ppsTimeout => Sys2Proof.Machine.execPpsTimeout s
  | .coldReset image trained => Sys2Proof.Machine.execColdReset image trained s
  | .hcmdRestart => Sys2Proof.Machine.execHcmdRestart s
  | .hcmdInstall => Sys2Proof.Machine.execHcmdInstall s
  | .doeImageWrite image => Sys2Proof.Machine.execDoeImageWrite image s
  | .attestRequest nonce => Sys2Proof.Machine.execAttestRequest nonce s
  | .attestResponseReady => Sys2Proof.Machine.execAttestResponseReady s
  | .cxlLinkTrain features => Sys2Proof.Machine.execCxlLinkTrain features s
  | .peerLinkUp port peer => Sys2Proof.Machine.execPeerLinkUp port peer s
  | .peerLinkDown port => Sys2Proof.Machine.execPeerLinkDown port s
  | .configWrite offset value => Sys2Proof.Machine.execConfigWrite offset value s
  | .illegalWord w second => Sys2Proof.Machine.execIllegalWord w second s
  | .continuation w => Sys2Proof.Machine.execContinuation w s
  | .ptsyncDropComplete h => Sys2Proof.Machine.execPtsyncDropComplete h s
  | .invalComplete h => Sys2Proof.Machine.execInvalComplete h s
  | .hostWindowCompletion h seq data => Sys2Proof.Machine.execHostWindowCompletion h seq data s
  | .flitRetry port => Sys2Proof.Machine.execFlitRetry port s
  | .hostToDeviceSnoop pa => Sys2Proof.Machine.execHostToDeviceSnoop pa s

end Sys2Proof.Machine
end

