-- ==== Sys2Proof/Machine/Turn.lean ====
section
/-! DEFINITION. What one step does: whose turn it is, the passing of time, the fetch of an instruction, and the choice among
what may happen when nothing is prescribed (R63, R67 to R72, R85; logs 1, 2, 8, 14, 23, 44). -/

namespace Sys2Proof.Machine

/-- What a turn comes to: an instruction or event to execute, or a state with nothing more to do. -/
inductive Turn where
  | run (i : Instr) (s : State)
  | stay (s : State)

/-! ## The passing of time (R400 to R402) -/

/-- A hart after `ns` nanoseconds and `lane` thousandths of a lane cycle in which it ran (R224, R374, R381, R400). -/
def Hart.passTime (h : Hart) (ns lane : Nat) : Hart :=
  { h with runNs := h.runNs + ns, unbilled := h.unbilled + ns, unbilledLane := h.unbilledLane + h.ln.groups.length * ns
           ln := { h.ln with laneIdle := h.ln.laneIdle + lane, mxIdle := h.ln.mxIdle + lane } }

/-- A hart's handler runs: not one that waits for its first grant, not one of a team that is out, and none while the dies stand still
(R374, R400). -/
def timed (s : State) (h : Hart) : Bool := h.run.inHandler && !isOut s h.id.ref && !diesStill s

/-- The facets have power (R388, R392). -/
def railsOn (s : State) : Bool :=
  s.boot.state != .tripped && !((s.power.emergency.map (fun e => decide (5 ≤ e.stage))).getD false)

/-- A serving team is on its cluster and none of its harts runs a handler (R398); time that it spends parked or stopped does not count
(R55). -/
def Team.waits (t : Team) (s : State) : Bool :=
  t.status == .resident && !diesStill s && !((s.farm? t.farm).map (fun f => f.perTeam)).getD true
    && (s.teamHarts t.uid).all (fun h => h.run == .free || h.run == .idle)

/-- A facet's lane clock after `ns` nanoseconds: at the rate of the throttle state while the facet has power (R4, R375). -/
def laneAfter (s : State) (ns facet : Nat) : Nat := laneClock s facet + (if railsOn s then ns * laneMHz s facet else 0)

/-- Whole scalar cycles that a reading of the lane clock stands for: the scalar clock is always twice the lane clock (R375). -/
def scalarCycles (lane : Nat) : Nat := 2 * lane / 1000

/-- The clocks after `ns` nanoseconds: the lane clock and CYCLE at the rate of the throttle state while their facet has power (R4,
R375, R401), TIME at its own (R402), which SLEW adjusts by so many parts in 10^9 (R403). -/
def passClock (s : State) (ns : Nat) : Clock :=
  let c := s.clock
  let cycle := fun (f : Fin 8) =>
    vget c.cycle f.val 0 + BitVec.ofNat 64 (scalarCycles (laneAfter s ns f.val) - scalarCycles (laneClock s f.val))
  let t := c.frac + ns * (1000000000 + c.slew.toInt).toNat
  { c with now := c.now + BitVec.ofNat 64 (t / 1000000000), frac := t % 1000000000, ran := c.ran + ns, cycle := Vector.ofFn cycle
           lane := Vector.ofFn (fun (f : Fin 8) => laneAfter s ns f.val) }

/-- A barrier completes at the first moment it may (R334), while the dies work (R415). -/
def settleNow (s : State) : State := if diesStill s then s else settleBarriers s

/-- Time passes on every facet, by amounts the implementation fixes (log 2). -/
def passTime (s0 : State) : State :=
  let s := settleNow s0
  let ns := Config.elapsed s.tick
  let s1 := s.updHarts (timed s) (fun h => h.passTime ns (ns * laneMHz s h.id.facet))
  settleNow { s1 with clock := passClock s ns, tick := s.tick + 1
                      teams := upd s.teams (fun t => t.waits s) (fun t => { t with idleNs := t.idleNs + ns }) }

/-! ## Caches (R48, R242; log 8) -/

/-- A copy leaves its cache without need: as an implementation may let it, unless it is pinned (R48, log 8). -/
def evictLine (s : State) (i : Nat) : State :=
  match s.lines[i]? with
  | none => s
  | some c => if pinned s c then s else removeCopy s c

/-! ## Fetch (R69 to R72) -/

/-- A trap raised by a fetch: TRAPVAL is the address of the word that failed; the instruction takes no number (R70, R356). -/
def fetchTrap (s : State) (code : Nat) (a : Word) : State :=
  takeTrap s { code := BitVec.ofNat 8 code, pc := s.hart.sc.pc, val := a, seq := s.hart.sc.iseq, counted := false }

/-- Decode one word and run what it stands for (R72, R82). -/
noncomputable def runWord (w : BitVec 32) (s : State) : Turn :=
  match decodeWord w with
  | .ok i => .run i s
  | .error (.continuation _) => .run (.continuation w) s
  | .error _ => .run (.illegalWord w none) s

/-- Fetch and decode the second word of a long form (R70, R71, R82, log 41). -/
noncomputable def runLong (w : BitVec 32) (s : State) : Turn :=
  let a := s.hart.sc.pc + 4
  match fetchWord s a with
  | .fault c s1 => .stay (fetchTrap s1 c a)
  | .stall s1 => .stay (s1.waitFor .stall)
  | .word w2 s1 =>
    match decodeLong w w2 with
    | .ok i => .run i s1
    | .error _ => .run (.illegalWord w (if fld w2.toNat 26 6 = 0x3F then none else some w2)) s1

/-- Fetch the instruction at the PC of the current hart and run it. -/
noncomputable def runFetched (s : State) : Turn :=
  match fetchWord s s.hart.sc.pc with
  | .fault c s1 => .stay (fetchTrap s1 c s.hart.sc.pc)
  | .stall s1 => .stay (s1.waitFor .stall)
  | .word w s1 => if isLong w.toNat then runLong w s1 else runWord w (s1.withHart { s1.hart with ir := some w })

/-! ## A hart's turn -/

/-- The current hart waits for something that only another event ends (R251, R369). -/
def Hart.parked (h : Hart) : Bool :=
  match h.wait with
  | .ptsync _ _ | .inval _ _ _ => true
  | _ => false

/-- The current hart is at a boundary at which a failure of handler mode ends its handler (R364). -/
def fatalReady (s : State) : Bool :=
  !s.hart.wait.mustFinish && s.hart.wait != .commitQueue && !headStarted s s.hart

/-- A trap at this boundary, or of the instruction at the PC, waits for a device-class access that the head has started, and the hart
issues nothing (R351, R357). -/
def trapWaits (s : State) : Bool :=
  let h := s.hart
  headStarted s h && (h.due.isSome || h.fatal.isSome || (!h.tr.hm && h.pendingCause.isSome))

/-- The trap of the instruction at the PC that need wait no longer (R357). -/
def trapDue (s : State) : Option Trap := if headStarted s s.hart then none else s.hart.due

/-- The turn of a hart whose handler runs: the end of a handler that R364 ends, a trap that has waited (R357), a pending cause (R85), the
hold of R146, the instruction that waits at the PC (R67), or the next one. -/
noncomputable def runningTurn (s : State) : Turn :=
  let h := s.hart
  let fresh := s.withHart { h with ir := none }
  match (if fatalReady s then h.fatal else none) with
  | some r => .stay (endByTrap fresh r h.waitsInside)
  | none =>
    match trapDue s with
    | some t => .stay (takeTrap s t)
    | none =>
      if asyncReady s then .run (.asyncCauseTake h.id.ref) s
      else if trapWaits s || h.heldByQueue || h.parked then .stay s
      else
        match (if h.wait == .none then none else h.ir) with
        | some w => runWord w s
        | none => runFetched fresh

/-- A hart's turn: none while its team is out (R60, R61). -/
noncomputable def hartTurn (r : HartRef) (s : State) : Turn :=
  match s.activate r with
  | none => .stay s
  | some s1 =>
    if isOut s1 r then .stay s
    else
      match s1.hart.run with
      | .assigned => .run (.handlerEntry r) s1
      | .recording => .stay ((s1.hart.fatal.map (recordEnd s1)).getD s1)
      | .ending => .stay (finishEnding s1)
      | .running => runningTurn s1
      | .idle | .free | .retired => .stay s

/-! ## What moves next -/

/-- A row of the table that is an event, and not the trap of a word that a hart fetched. -/
def isEvent (i : Instr) : Bool :=
  match i with
  | .illegalWord _ _ | .continuation _ => false
  | _ => (encode i).isEmpty

/-- An event of a hart, of its team, lanes, stores, copies or barriers, or of the caches. -/
def hartEvent (i : Instr) : Bool :=
  match i with
  | .handlerEntry _ | .laneRequestAge _ | .vqEntryCommit _ | .setvlGrant _ | .rebind _ | .fold _ _ | .unfold _
  | .storeLineTranslate _ _ | .homeRequest _ _ _ | .migStallResume _ _ | .copyRowComplete _ _ _ _ | .copyRowFault _ _ _ _
  | .teamMoveComplete _ | .teamIdleRetire _ | .streamTimeout _ | .streamDrainComplete _ | .frameReleaseComplete _
  | .barrierPhaseRelease _ | .barrierComplete _ _ _ _ | .asyncCauseTake _ | .watchdog _ | .yieldTimeout _ | .laneClockGate _ | .matrixGate _ | .ptsyncDropComplete _ | .invalComplete _ => true
  | _ => false

/-- An action's turn: the harts do nothing while their dies stand still (R392, R415, R416). -/
noncomputable def actionTurn (a : Action) (s : State) : Turn :=
  match a with
  | .hart r => if diesStill s then .stay s else hartTurn r s
  | .event i => if isEvent i && !(hartEvent i && diesStill s) then .run i s else .stay s
  | .pass => .stay (passTime s)
  | .evict i => .stay (if diesStill s then s else evictLine s i)
  | .headPart r => if diesStill s then .stay s else .stay (headPart r (Config.progress s.tick) s)
  | .portSend p => .stay (portSend s p)
  | .inbound => .stay (takeInbound s)

/-- What one hart can do or have done to it. -/
noncomputable def hartActions (h : Hart) : List Action :=
  let r := h.id.ref
  let lines := (List.range h.stores.length).flatMap (fun i =>
    [.event (.storeLineTranslate r i), .event (.migStallResume r i)])
  let rows := (List.range 16).flatMap (fun n =>
    ((vget h.streams n Stream.empty).queue.zipIdx).flatMap (fun x => (List.range x.1.rows.length).flatMap (fun j =>
      [.event (.copyRowComplete r (BitVec.ofNat 4 n) x.2 j), .event (.copyRowFault r (BitVec.ofNat 4 n) x.2 j)])))
  [.hart r, .headPart r, .event (.vqEntryCommit r), .event (.setvlGrant r), .event (.rebind r), .event (.fold r 0), .event (.unfold r)
   , .event (.laneRequestAge r), .event (.watchdog r), .event (.yieldTimeout r), .event (.barrierPhaseRelease r)
   , .event (.laneClockGate r), .event (.matrixGate r), .event (.ptsyncDropComplete r), .event (.invalComplete r)]
    ++ lines ++ rows

/-- What the hub, placement, the controllers and the host's side of its window can do. -/
noncomputable def hubActions (s : State) : List Action :=
  let each := fun (n : Nat) (f : Nat → Instr) => (List.range n).map (fun i => Action.event (f i))
  let shed := (List.range 8).filter (shedding s)
  let moves := (s.teams.filter (fun t => shed.contains t.facet)).flatMap (fun t => (List.range 256).map (fun k =>
    Action.event (.teamMove t.uid (k / 32) (k % 32))))
  [.inbound, .event (.onyxDispatch 0), .event .accountingUpdate, .event .emergencyStageComplete, .event .thermalResume, .event .ppsTimeout]
    ++ (allBarriers s).map (fun x => Action.event (.barrierComplete x.1 x.2.1 x.2.2.1 (BitVec.ofNat 3 x.2.2.2))) ++ moves
    ++ each s.placing.length .teamPlace ++ each s.timers.length .timerFire
    ++ each s.streamEntries.length .streamTimeout ++ each s.streamEntries.length .streamDrainComplete
    ++ s.teams.flatMap (fun t => [.event (.teamResume t.uid), .event (.teamMoveComplete t.uid), .event (.teamIdleRetire t.uid)])
    ++ s.frames.map (fun f => Action.event (.frameReleaseComplete f.frame))
    ++ s.hostLines.map (fun h => Action.event (.hostSnoopTimeout h.pline))
    ++ (s.windowOps.filter (fun o => o.answer.isNone)).map (fun o => Action.event (.hostWindowCompletion o.hart o.seq (Config.hostData s.tick)))
    ++ (List.range 8).flatMap (fun p => [.event (.partitionHaltComplete (BitVec.ofNat 3 p)),
      .event (.partitionRestoreComplete (BitVec.ofNat 3 p)), .event (.throttleStep p), .portSend p])
    ++ (List.range s.lines.length).map Action.evict

/-- The turn when nothing is prescribed: time passes, then one of what can happen does, as the implementation chooses
(log 1). -/
noncomputable def freeTurn (s : State) : Turn :=
  let s1 := passTime s
  let all := Action.pass :: (s1.harts.flatMap hartActions ++ hubActions s1)
  actionTurn (all.getD (Config.pick s.tick % all.length) .pass) s1

/-- The next turn: the head of the agenda, or a free one. -/
noncomputable def nextTurn (s : State) : Turn :=
  match s.agenda with
  | a :: rest => actionTurn a { s with agenda := rest }
  | [] => freeTurn s

/-! ## A program placed for the next step (log 23) -/

/-- The address at which a placed instruction stands. -/
def placedVa : Word := 0x10000

/-- The hart that runs a placed instruction: the current one, or hart 0 of team 0 of space 1 with the scalar state of a reset
hart. -/
def placedHart (s : State) : Hart :=
  let h := if s.hart.run == .running then s.hart
    else { Hart.blank with id := { Hart.blank.id with space := 1, teamSize := 1 } }
  { h with run := .running, vq := [], wait := .none, ir := none, due := none, fatal := none
           notice := { thermal := none, preempt := none, watchdog := none }
           stores := h.stores.filter (fun l => l.stage != .held || l.delivered)
           sc := { h.sc with pc := placedVa } }

/-- A resident team for the hart that runs a placed instruction. -/
def placedTeam (h : Hart) : Team :=
  { uid := h.id.ref.team, farm := 0, queue := 0, teamId := 0, size := 1, space := h.id.space, part := h.id.part, modNo := 0
    facet := h.id.facet, cluster := h.id.cluster, slots := [h.id.slot], barFacet := h.id.facet, order := 0, status := .resident
    segUnits := 0, seg := [], segSaved := false, bars := Vector.replicate 8 Barrier.none
    stackAt := 0, idleNs := 0, spaceSaved := false }

/-- The machine with bytes placed where the current hart fetches next: a line of its instruction cache. -/
def placeWord (s : State) (nbits w : Nat) : State :=
  let h := placedHart s
  let va := placedVa.toNat
  let line : CacheLine := { cspace := cacheSpace h.id.space.toNat va, vline := va / 128, pline := va / 128
                            place := .l1i h.id.core, r := true, w := false, x := true, own := false }
  let teams := if ((s.team? h.id.ref.team).map Team.runs).getD false then s.teams
    else placedTeam h :: s.teams.filter (fun t => t.uid != h.id.ref.team)
  let kept := if s.hart.run == .idle || s.hart.run == .running then s.others else s.hart :: s.others
  { s with hart := h, others := kept.filter (fun k => k.id.ref != h.id.ref), teams := teams
           lines := line :: s.lines.filter (fun c => !(c.place == line.place && c.isLine line.cspace line.vline))
           mem := writeLE s.mem va 8 (w % 2 ^ nbits), agenda := .hart h.id.ref :: s.agenda }

end Sys2Proof.Machine
end

