-- ==== Sys2Proof/Machine/Step.lean ====
section
/-! DEFINITION. One step of the machine, and the machine with an instruction placed for the next step. -/

namespace Sys2Proof.Machine

noncomputable section

/-- One step: the next turn's instruction or event is executed, or the turn ends by itself. -/
def step (s : State) : Host.Outcome State Fault Refusal :=
  match nextTurn s with
  | .run i t => exec i t
  | .stay t => .next t

/-- The machine with the `nbits` bits `w` of an instruction, and zeros above them, where the next step fetches (log 23). -/
def State.withFetchWord (s : State) (nbits w : Nat) : State := placeWord s nbits w

end

end Sys2Proof.Machine
end

