-- ==== Sys2Proof/Safety.lean ====
section
/-! DEFINITION. What a safe state is, the forms that every step keeps, and the terms in which the statements say what an
instruction changes and what it leaves. -/

namespace Sys2Proof

/-- The instructions that R144 pushes into the vector queue. -/
def Instr.queued (i : Instr) : Bool :=
  match i with
  | .vadd _ _ _ _ _ | .vsub _ _ _ _ _ | .vmul _ _ _ _ _ | .vdiv _ _ _ _ _ | .vmin _ _ _ _ _ | .vmax _ _ _ _ _
  | .vfma _ _ _ _ _ | .vfms _ _ _ _ _ | .vnfma _ _ _ _ _ | .vabs _ _ _ _ | .vneg _ _ _ _ | .vsqrt _ _ _ _
  | .vand _ _ _ _ _ | .vor _ _ _ _ _ | .vxor _ _ _ _ _ | .vsll _ _ _ _ _ | .vsrl _ _ _ _ _ | .vsra _ _ _ _ _
  | .vmulh _ _ _ _ _ | .vsadd _ _ _ _ _ | .vssub _ _ _ _ _ | .vmov _ _ _ _ | .vsel _ _ _ _ | .vexp2 _ _ _ _
  | .vlog2 _ _ _ _ | .vrcp _ _ _ _ | .vrsqrt _ _ _ _ | .vclz _ _ _ _ | .vpopc _ _ _ _ | .vaddVx _ _ _ _ _
  | .vsubVx _ _ _ _ _ | .vmulVx _ _ _ _ _ | .vdivVx _ _ _ _ _ | .vminVx _ _ _ _ _ | .vmaxVx _ _ _ _ _
  | .vfmaVx _ _ _ _ _ | .vfmsVx _ _ _ _ _ | .vnfmaVx _ _ _ _ _ | .vandVx _ _ _ _ _ | .vorVx _ _ _ _ _
  | .vxorVx _ _ _ _ _ | .vsllVx _ _ _ _ _ | .vsrlVx _ _ _ _ _ | .vsraVx _ _ _ _ _ | .vmulhVx _ _ _ _ _
  | .vsaddVx _ _ _ _ _ | .vssubVx _ _ _ _ _ | .vselVx _ _ _ _ | .vbcast _ _ _ _ | .vaddi _ _ _ _ _
  | .vslli _ _ _ _ _ | .vsrli _ _ _ _ _ | .vsrai _ _ _ _ _ | .vandi _ _ _ _ _ | .vori _ _ _ _ _ | .vxori _ _ _ _ _
  | .vcmpeq _ _ _ _ _ | .vcmpne _ _ _ _ _ | .vcmplt _ _ _ _ _ | .vcmple _ _ _ _ _ | .vcmpgt _ _ _ _ _
  | .vcmpge _ _ _ _ _ | .vcmpuo _ _ _ _ _ | .vcmpcls _ _ _ _ _ | .vcmpeqVx _ _ _ _ _ | .vcmpneVx _ _ _ _ _
  | .vcmpltVx _ _ _ _ _ | .vcmpleVx _ _ _ _ _ | .vcmpgtVx _ _ _ _ _ | .vcmpgeVx _ _ _ _ _ | .vcmpuoVx _ _ _ _ _
  | .vcmpclsVx _ _ _ _ _ | .vredsum _ _ _ | .vredosum _ _ _ | .vredmin _ _ _ | .vredmax _ _ _ | .vredand _ _ _
  | .vredor _ _ _ | .vredxor _ _ _ | .vredsumW _ _ _ | .vslideup _ _ _ _ _ | .vslidedn _ _ _ _ _
  | .vrgather _ _ _ _ _ | .vcompress _ _ _ | .vexpand _ _ _ _ | .viota _ _ _ | .vzip _ _ _ _ _ | .vunzip _ _ _ _ _
  | .vrev _ _ _ _ | .vcvt _ _ _ _ _ _ _ _ | .vcvtBits _ _ _ _ _ | .setvl _ _ _ | .vcfg _ _ | .vmvg _ _ _
  | .vins _ _ _ | .vfree | .vld _ _ _ _ _ | .vlds _ _ _ _ _ | .vldx _ _ _ _ _ | .vldff _ _ _ _ _ | .vst _ _ _ _ _
  | .vsts _ _ _ _ _ | .vstx _ _ _ _ _ | .vldT _ _ _ | .vstT _ _ _ | .vldR _ _ _ _ | .vstR _ _ _ _ | .vldAv _ _ _ _
  | .vldAm _ _ _ _ | .vamoAdd _ _ _ _ _ | .vamoMin _ _ _ _ _ | .vamoMax _ _ _ _ _ | .vamoAnd _ _ _ _ _
  | .vamoOr _ _ _ _ _ | .vamoXor _ _ _ _ _ | .vamoSwap _ _ _ _ _ | .vamoFmin _ _ _ _ _ | .vamoFadd _ _ _ _ _
  | .pand _ _ _ | .por _ _ _ | .pxor _ _ _ | .pandn _ _ _ | .pnot _ _ | .pset _ _ | .pcnt _ _ _ | .pffs _ _ _
  | .pbrk _ _ _ | .pmov _ _ | .oacc _ _ _ _ | .osub _ _ _ _ | .mzero _ _ | .mrd _ _ _ | .mrdc _ _ _ | .mwr _ _ _
  | .oaccN _ _ _ _ | .cpg _ _ _ _ _ | .cpt _ _ _ | .cpl _ _ _ | .cpmask _ _ => true
  | _ => false

end Sys2Proof

namespace Sys2Proof.Machine

/-! ## Forms of a state -/

/-- The registers of a hart hold only what their tables let them hold: FRM is no reserved mode (R166), the RSV fields of DIM0
to DIM2 read zero (R286), VQN counts at most 64 positions (R355). -/
def Hart.regsLegal (h : Hart) : Bool :=
  decide (h.sc.frm.toNat ≤ 4) && natBits h.sc.dim0.toNat 61 3 == 0 && natBits h.sc.dim1.toNat 62 2 == 0
    && natBits h.sc.dim2.toNat 61 3 == 0 && decide (h.tr.vqn.toNat ≤ 64)

/-- HBM's bytes and those of every team's segment stand in canonical form, so that equal memories are equal data. -/
def State.memLegal (s : State) : Bool := Memory.wf s.mem && s.teams.all (fun t => Memory.wf t.seg)

/-- A step ends a run: it answers a fault or a refusal. -/
def stops (o : Out) : Bool :=
  match o with
  | .next _ => false
  | _ => true

/-- A run of `n` steps that no fault and no refusal ends. -/
def runsFor (n : Nat) (s : State) : Prop := ∃ t, Host.Core.run Sys2Proof.core n s = .next t

/-! ## What an instruction of the hart changes -/

/-- Every byte of HBM and every byte of the hart's near window reads as before. -/
def SameBytes (s t : State) : Prop :=
  (∀ a, memRead t.mem a = memRead s.mem a) ∧ ∀ a, memRead t.seg a = memRead s.seg a

/-- The current hart changed to `h`; nothing else of the device did. -/
def OnlyHart (s t : State) (h : Hart) : Prop := t = s.withHart h ∧ SameBytes s t

/-- Among the general registers only `d` changed, to `x`; g0 still reads zero. -/
def OnlyG (s t : State) (d : GReg) (x : Word) : Prop :=
  t.g 0 = 0 ∧ (d ≠ 0 → t.g d = x) ∧ ∀ r, r ≠ d → t.g r = s.g r

/-- No general register changed. -/
def SameG (s t : State) : Prop := ∀ r, t.g r = s.g r

/-- The answer is a next state in which the hart went on to `pc`, wrote `x` to register `d`, and ORed `f` into FFLAGS; every
other register of it, the rest of the device and every byte of memory are as before (R99, R356). -/
def Writes (o : Out) (s : State) (pc : Word) (d : GReg) (x : Word) (f : BitVec 5) : Prop :=
  ∃ t, o = .next t ∧ OnlyG s t d x ∧
    OnlyHart s t { s.hart with
      sc := { s.hart.sc with g := t.hart.sc.g, pc := pc, fflags := s.hart.sc.fflags ||| f, iseq := s.hart.sc.iseq + 1 }
      wait := .none }

/-- The answer is a next state in which the hart went on to `pc` and no general register or flag changed (R68, R69). -/
def Goes (o : Out) (s : State) (pc : Word) : Prop :=
  ∃ t, o = .next t ∧
    OnlyHart s t { s.hart with sc := { s.hart.sc with pc := pc, iseq := s.hart.sc.iseq + 1 }, wait := .none }

/-- The next instruction of a one-word instruction (R68). -/
def State.pc4 (s : State) : Word := s.hart.sc.pc + 4

/-- The answer is a next state in which the one-word instruction wrote `x` to `d`, with no flag raised. -/
def Gives (o : Out) (s : State) (d : GReg) (x : Word) : Prop := Writes o s s.pc4 d x 0

/-! ## Memory -/

/-- The offset of a near-window address in the segment (R282). -/
def nearOff (a : Word) : Nat := a.toNat - nearVa

/-- An access of `n` bytes at `a` is aligned, lies whole in the hart's segment, and no earlier entry of its vector queue may
touch the same bytes (R147, R254, R283). -/
def NearAt (s : State) (a : Word) (n : Nat) : Prop :=
  s.segBytes ≤ 0x400000 ∧ nearVa ≤ a.toNat ∧ nearOff a + n ≤ s.segBytes ∧ a.toNat % n = 0 ∧
    s.hart.queueMeets a n = false

/-- `n` bytes at `a` are aligned and lie whole in the hart's segment (R254, R282, R283). -/
def InSegment (s : State) (a : Word) (n : Nat) : Prop :=
  s.segBytes ≤ 0x400000 ∧ nearVa ≤ a.toNat ∧ nearOff a + n ≤ s.segBytes ∧ a.toNat % n = 0

/-- The checks of R226 and R227 need no line that the host holds (R252, R408). -/
def EntryReady (s : State) (a : Nat) : Prop := entrySnoop s s.sp a = none

/-- An access of `n` bytes at `a` is aligned, legal under R226 and R227 and outside the near window; no earlier entry of the queue may
touch the same bytes, and no store of the hart to the line is unperformed (R147, R254, R312). -/
def MappedAt (s : State) (a : Word) (n : Nat) : Prop :=
  a.toNat % n = 0 ∧ EntryReady s a.toNat ∧ addressOk s s.sp s.pt a.toNat = true ∧ inNear a.toNat = false ∧
    s.hart.queueMeets a n = false ∧ ∀ l ∈ s.hart.stores, l.line ≠ a.toNat / 128

/-- No device read of the instruction at the PC is in flight (R407). -/
def NoDeviceRead (s : State) : Prop := s.windowOp? s.hart.sc.iseq 0 = none

/-- Everything that Table 13.4 asks of a release at a scope has been reached, and no line is held (R318). -/
def ReleaseReady (s : State) (sc : Scope) : Prop :=
  s.hart.vq = [] ∧ ∀ l ∈ s.hart.stores, l.reached sc = true ∧ l.stage ≠ .held

/-- The signed integer that `n` bytes hold. -/
def signedOf (n x : Nat) : Int := if x < 2 ^ (8 * n - 1) then (x : Int) else (x : Int) - (2 ^ (8 * n) : Nat)

/-- The hart after a one-word instruction that wrote no register. -/
def Hart.wentOn (h : Hart) : Hart :=
  { h with sc := { h.sc with pc := h.sc.pc + 4, iseq := h.sc.iseq + 1 }, wait := .none }

/-- The answer is a next state in which the `n` bytes at the near address `a` hold `x`; every other byte, every register and the
rest of the device are as before, the hart having gone on. -/
def StoresNear (o : Out) (s : State) (a : Word) (n x : Nat) : Prop :=
  ∃ t f, o = .next t ∧ t = (s.updSeg f).withHart s.hart.wentOn ∧ readLE t.seg (nearOff a) n = x % 256 ^ n ∧
    (∀ b, b < nearOff a ∨ nearOff a + n ≤ b → memRead t.seg b = memRead s.seg b) ∧
    ∀ b, memRead t.mem b = memRead s.mem b

/-- The answer is a next state of an atomic at the near address `a`: `d` holds the 8 old bytes, the segment holds `new` there,
`f` is ORed into FFLAGS; all else is as before. -/
def AtomicNear (o : Out) (s : State) (a : Word) (d : GReg) (new : Nat) (f : BitVec 5) : Prop :=
  ∃ t g, o = .next t ∧ OnlyG s t d (BitVec.ofNat 64 (readLE s.seg (nearOff a) 8)) ∧
    t = (s.updSeg g).withHart { s.hart.wentOn with
      sc := { s.hart.wentOn.sc with g := t.hart.sc.g, fflags := s.hart.sc.fflags ||| f } } ∧
    readLE t.seg (nearOff a) 8 = new ∧
    (∀ b, b < nearOff a ∨ nearOff a + 8 ≤ b → memRead t.seg b = memRead s.seg b) ∧
    ∀ b, memRead t.mem b = memRead s.mem b

/-! ## Floating point -/

/-- The real number that a finite value stands for (R163); 0 for the others. -/
noncomputable def FpVal.value (v : FpVal) : ℝ :=
  match v with
  | .num neg m e => (if neg then -1 else 1) * (m : ℝ) * (2 : ℝ) ^ e
  | _ => 0

/-- A finite value. -/
def FpVal.finite (v : FpVal) : Prop := ∃ n m e, v = .num n m e

/-- The place of a value among the extended reals; a NaN has none. -/
noncomputable def FpVal.place (v : FpVal) : EReal :=
  match v with
  | .inf neg => if neg then ⊥ else ⊤
  | v => (v.value : EReal)

/-- A magnitude to be rounded stands for a real number: exactly, or strictly within one unit of a last place far below any
format's. -/
def Exact.holds (x : Exact) (v : ℝ) : Prop :=
  (v < 0 → x.neg = true) ∧ (0 < v → x.neg = false) ∧
    if x.sticky then 2 ^ 96 ≤ x.m ∧ (x.m : ℝ) * (2 : ℝ) ^ x.e < |v| ∧ |v| < ((x.m : ℝ) + 1) * (2 : ℝ) ^ x.e
    else |v| = (x.m : ℝ) * (2 : ℝ) ^ x.e

/-- A sign in the top bit of a pattern. -/
def zeroOf (f : Fmt) (neg : Bool) : Nat := if neg then 2 ^ (width f - 1) else 0

/-- An infinity, or its stand-in: the largest finite value in E2M1, the NaN in E4M3 (R168). -/
def infOf (f : Fmt) (neg : Bool) : Nat :=
  if f = .e4m3 then 0x7F else if f = .e2m1 then zeroOf f neg + 7 else zeroOf f neg + (2 ^ expBits f - 1) * 2 ^ fracBits f

/-- A NaN result: the canonical NaN, with NV where the rule raises it; +0 with NV in E2M1 (Table 7.3, R168). -/
def nanOf (f : Fmt) (nv : Bool) : FpRes :=
  if f = .e2m1 then (0, 16)
  else (if f = .e4m3 then 0x7F else (2 ^ expBits f - 1) * 2 ^ fracBits f + 2 ^ (fracBits f - 1), if nv then 16 else 0)

/-- How many of the places that rounding at 2^q discards stochastic rounding counts (R173). -/
def Rounding.counted (rd : Rounding) (q : Int) : Nat :=
  match rd.places with
  | .fixed => 32
  | .source last => min (q - last).toNat 32

/-- `k` × 2^q is the magnitude of a real number rounded at place q (R167, R173). -/
def RoundsTo (rd : Rounding) (v : ℝ) (q : Int) (k : Nat) : Prop :=
  let y := |v| / (2 : ℝ) ^ q
  let n := ⌊y⌋₊
  let fr := y - n
  let m := rd.counted q
  let up : Prop := match rd.mode with
    | .rtz => False
    | .rdn => v < 0 ∧ fr ≠ 0
    | .rup => 0 < v ∧ fr ≠ 0
    | .rne => 1 / 2 < fr ∨ (fr = 1 / 2 ∧ n % 2 = 1)
    | .sr => 2 ^ m ≤ ⌊fr * 2 ^ m⌋₊ + rd.draw.toNat % 2 ^ m
  (up → k = n + 1) ∧ (¬up → k = n)

/-- The place of the last bit of a real number's significand in a format with unbounded exponents (R167). -/
noncomputable def normalPlace (f : Fmt) (v : ℝ) : Int := Int.log 2 |v| - fracBits f

/-- The place of the last significand bit of a format at a real number's magnitude (R167). -/
noncomputable def lastPlace (f : Fmt) (v : ℝ) : Int := max (normalPlace f v) (1 - bias f - fracBits f)

/-- The real number that the fields of a pattern stand for (R163). -/
noncomputable def patValue (f : Fmt) (x : Nat) : ℝ :=
  let e := x / 2 ^ fracBits f % 2 ^ expBits f
  let m := x % 2 ^ fracBits f
  (if x / 2 ^ (width f - 1) % 2 = 1 then -1 else 1) *
    (if e = 0 then (m : ℝ) * (2 : ℝ) ^ (1 - bias f - fracBits f)
      else ((2 : ℝ) ^ fracBits f + m) * (2 : ℝ) ^ ((e : Int) - bias f - fracBits f))

/-- The largest finite pattern of a format (Table 7.2). -/
def largest (f : Fmt) : Nat :=
  if f = .e4m3 then 0x7E else if f = .e2m1 then 0x7 else (2 ^ expBits f - 1) * 2 ^ fracBits f - 1

/-- A result with its flags is a non-zero real number rounded to a format (R167 to R169, R173, R177, Table 7.5): the finite pattern that
the place and the mode give it, or the overflow's; NX where it differs, UF where that is tiny. -/
def RightlyRounded (f : Fmt) (rd : Rounding) (sat : Bool) (v : ℝ) (r : FpRes) : Prop :=
  let q := lastPlace f v
  let neg := decide (v < 0)
  let toMax := sat = true ∨ rd.mode = .rtz ∨ (rd.mode = .rdn ∧ 0 < v) ∨ (rd.mode = .rup ∧ v < 0)
  ∃ k : Nat, RoundsTo rd v q k ∧
    (patValue f (largest f) < (k : ℝ) * (2 : ℝ) ^ q →
      (toMax → r = (zeroOf f neg + largest f, 5)) ∧ (¬toMax → r = (infOf f neg, 5))) ∧
    ((k : ℝ) * (2 : ℝ) ^ q ≤ patValue f (largest f) →
      r.1 % 2 ^ (width f - 1) ≤ largest f ∧ r.1 < 2 ^ width f ∧ (2 ^ (width f - 1) ≤ r.1 ↔ neg = true) ∧
      |patValue f r.1| = (k : ℝ) * (2 : ℝ) ^ q ∧
      (|v| = (k : ℝ) * (2 : ℝ) ^ q → r.2 = 0) ∧
      (|v| ≠ (k : ℝ) * (2 : ℝ) ^ q → ∃ u : Nat, RoundsTo rd v (normalPlace f v) u ∧
        r.2 = if (u : ℝ) * (2 : ℝ) ^ normalPlace f v < (2 : ℝ) ^ (1 - bias f) then 3 else 1))

/-- A result with its flags is a real number rounded once (R114, R167, R168, R169). -/
def RoundedOnce (f : Fmt) (rd : Rounding) (v : ℝ) (r : FpRes) : Prop :=
  ∃ x : Exact, x.holds v ∧ r = roundTo f rd false x

/-- A NaN. -/
def FpVal.isNaN (v : FpVal) : Prop := v = .nan true ∨ v = .nan false

/-- A finite zero of either sign. -/
def FpVal.isZero (v : FpVal) : Prop := v.finite ∧ v.value = 0

/-- `r` is x + y, or x − y where `sub` (R116): rounded once; the sign of an exact zero, and Table 5.6. -/
def IsSum (f : Fmt) (rd : Rounding) (sub : Bool) (x y : FpVal) (r : FpRes) : Prop :=
  let v := x.value + (if sub then -1 else 1) * y.value
  let ny := negative y != sub
  (x.finite → y.finite → RoundedOnce f rd v r) ∧
  (x.finite → y.finite → v = 0 → r = (zeroOf f (if negative x = ny then ny else decide (rd.mode = .rdn)), 0)) ∧
  (x.isNaN ∨ y.isNaN → r = nanOf f (decide (x = .nan true ∨ y = .nan true))) ∧
  (∀ n m, x = .inf n → y = .inf m → r = if n = (m != sub) then (infOf f n, 0) else nanOf f true) ∧
  (∀ n, x = .inf n → y.finite → r = (infOf f n, 0)) ∧
  ∀ n, x.finite → y = .inf n → r = (infOf f (n != sub), 0)

/-- `r` is x × y (R116, Table 5.6). -/
def IsProduct (f : Fmt) (rd : Rounding) (x y : FpVal) (r : FpRes) : Prop :=
  let sign := negative x != negative y
  (x.finite → y.finite → RoundedOnce f rd (x.value * y.value) r) ∧
  (x.finite → y.finite → x.value * y.value = 0 → r = (zeroOf f sign, 0)) ∧
  (x.isNaN ∨ y.isNaN → r = nanOf f (decide (x = .nan true ∨ y = .nan true))) ∧
  ((∃ n, x = .inf n) → y.isZero → r = nanOf f true) ∧
  (x.isZero → (∃ n, y = .inf n) → r = nanOf f true) ∧
  ((∃ n, x = .inf n) → ¬y.isNaN → ¬y.isZero → r = (infOf f sign, 0)) ∧
  (¬x.isNaN → ¬x.isZero → (∃ n, y = .inf n) → r = (infOf f sign, 0))

/-- `r` is x / y (R116, Table 5.6): a finite non-zero value over zero raises DZ. -/
def IsQuotient (f : Fmt) (rd : Rounding) (x y : FpVal) (r : FpRes) : Prop :=
  let sign := negative x != negative y
  (x.finite → y.finite → y.value ≠ 0 → RoundedOnce f rd (x.value / y.value) r) ∧
  (x.isZero → y.finite → y.value ≠ 0 → r = (zeroOf f sign, 0)) ∧
  (x.isNaN ∨ y.isNaN → r = nanOf f (decide (x = .nan true ∨ y = .nan true))) ∧
  ((∃ n, x = .inf n) → (∃ n, y = .inf n) → r = nanOf f true) ∧
  ((∃ n, x = .inf n) → y.finite → r = (infOf f sign, 0)) ∧
  (x.finite → (∃ n, y = .inf n) → r = (zeroOf f sign, 0)) ∧
  (x.finite → x.value ≠ 0 → y.isZero → r = (infOf f sign, 8)) ∧
  (x.isZero → y.isZero → r = nanOf f true)

/-- `r` is √x (R116, Table 5.6). -/
def IsRoot (f : Fmt) (rd : Rounding) (x : FpVal) (r : FpRes) : Prop :=
  (x.finite → 0 ≤ x.value → RoundedOnce f rd (Real.sqrt x.value) r) ∧
  (x.isZero → r = (zeroOf f (negative x), 0)) ∧
  (x.isNaN → r = nanOf f (decide (x = .nan true))) ∧
  (x.finite → x.value < 0 → r = nanOf f true) ∧
  (x = .inf true → r = nanOf f true) ∧
  (x = .inf false → r = (infOf f false, 0))

/-- `r` is x × y + z rounded once, the product negated where `np`, the addend where `nz` (R116, R198, Table 5.6). -/
def IsFused (f : Fmt) (rd : Rounding) (np nz : Bool) (x y z : FpVal) (r : FpRes) : Prop :=
  let v := (if np then -1 else 1) * (x.value * y.value) + (if nz then -1 else 1) * z.value
  let sp := (negative x != negative y) != np
  let sz := negative z != nz
  let bad := ((∃ n, x = .inf n) ∧ y.isZero) ∨ (x.isZero ∧ ∃ n, y = .inf n)
  let big := ((∃ n, x = .inf n) ∧ ¬y.isNaN ∧ ¬y.isZero) ∨ (¬x.isNaN ∧ ¬x.isZero ∧ ∃ n, y = .inf n)
  let anySig := decide (x = .nan true ∨ y = .nan true ∨ z = .nan true)
  (x.finite → y.finite → z.finite → RoundedOnce f rd v r) ∧
  (x.finite → y.finite → z.finite → v = 0 → r = (zeroOf f (if sp = sz then sz else decide (rd.mode = .rdn)), 0)) ∧
  (bad → r = nanOf f true) ∧
  (x.isNaN ∨ y.isNaN → r = nanOf f anySig) ∧
  (¬bad → z.isNaN → r = nanOf f anySig) ∧
  (big → (∃ n, z = .inf n) → r = if sp = sz then (infOf f sz, 0) else nanOf f true) ∧
  (big → z.finite → r = (infOf f sp, 0)) ∧
  (x.finite → y.finite → (∃ n, z = .inf n) → r = (infOf f sz, 0))

/-- The first value is below the second, or the two are equal and it is negative (−0 below +0, R117). -/
def FpVal.below (x y : FpVal) : Prop := x.place < y.place ∨ (x.place = y.place ∧ negative x = true)

/-- `r` is the smaller, or the larger, of two patterns (R117): an operand bit for bit, the other one of a NaN; NV for a signalling
NaN. -/
def IsPick (f : Fmt) (larger : Bool) (u v : Nat) (r : FpRes) : Prop :=
  let x := unpack f u
  let y := unpack f v
  (r.2 = if x = .nan true ∨ y = .nan true then 16 else 0) ∧
  (x.isNaN → y.isNaN → r.1 = (nanOf f false).1) ∧
  (x.isNaN → ¬y.isNaN → r.1 = v) ∧
  (¬x.isNaN → y.isNaN → r.1 = u) ∧
  (¬x.isNaN → ¬y.isNaN → x.below y → r.1 = if larger then v else u) ∧
  (¬x.isNaN → ¬y.isNaN → ¬x.below y → r.1 = if larger then u else v)

/-- A real number rounded to an integer in a mode; ties go to the even one (R167), and stochastic rounding acts as RNE for
scalar instructions (R114). -/
def RoundedInt (m : Rnd) (v : ℝ) (k : Int) : Prop :=
  match m with
  | .rtz => k = if v < 0 then ⌈v⌉ else ⌊v⌋
  | .rdn => k = ⌊v⌋
  | .rup => k = ⌈v⌉
  | .rne | .sr => |v - k| ≤ 1 / 2 ∧ (|v - k| = 1 / 2 → k % 2 = 0)

/-- The draw of R172 for element `i`, on naturals modulo 2^64. -/
def drawOf (seed ctr : Word) (i : Nat) : Nat :=
  let m := 2 ^ 64
  let x0 := seed.toNat ^^^ (ctr.toNat * 0x9E3779B97F4A7C15 % m) ^^^ (i * 0xC2B2AE3D27D4EB4F % m)
  let x1 := (x0 ^^^ (x0 / 2 ^ 31)) * 0xBF58476D1CE4E5B9 % m
  let x2 := (x1 ^^^ (x1 / 2 ^ 29)) * 0x94D049BB133111EB % m
  x2 ^^^ (x2 / 2 ^ 32)

/-- The rounding of element `j` in a mode: SR takes the draw of SRSEED, SRCTR and the element's number (R170 to R172). -/
def Hart.rounds (h : Hart) (m : Rnd) (j : Nat) : Rounding :=
  { mode := m, draw := if m = .sr then BitVec.ofNat 64 (drawOf h.sc.srseed h.sc.srctr j) else 0 }

/-- The number that an element stands for (R161): two's complement in an I format. -/
def elemInt (f : Fmt) (x : Nat) : Int := if isSigned f then (BitVec.ofNat (width f) x).toInt else x

/-- A number modulo 2^w. -/
def wrap (w : Nat) (x : Int) : Nat := (x % (2 : Int) ^ w).toNat

/-- The class of a pattern, by its bit in the mask (R119, R202); E2M1 has only finite values, E4M3 one NaN of each sign. -/
def classBit (f : Fmt) (x : Nat) : Nat :=
  let neg := x / 2 ^ (width f - 1) % 2 = 1
  let e := x / 2 ^ fracBits f % 2 ^ expBits f
  let m := x % 2 ^ fracBits f
  let special := e = 2 ^ expBits f - 1 ∧ f ≠ .e2m1 ∧ (f = .e4m3 → m = 7)
  if special then if m = 0 then if neg then 2 else 9 else if m < 2 ^ (fracBits f - 1) then 0 else 1
  else if e = 0 then if m = 0 then if neg then 5 else 6 else if neg then 4 else 7
  else if neg then 3 else 8

/-- `r` is the conversion of element `x` of format `src` to `dst` (R177 to R180): rounded once in the mode, saturating where `sat`. -/
def IsConversion (src dst : Fmt) (rd : Rounding) (sat : Bool) (x : Nat) (r : FpRes) : Prop :=
  let v := unpack src x
  let k := elemInt src x
  let lo : Int := if isSigned dst then -2 ^ (width dst - 1) else 0
  let hi : Int := if isSigned dst then 2 ^ (width dst - 1) - 1 else 2 ^ width dst - 1
  if isFloat src then
    if isFloat dst then
      (∀ n m e, v = .num n m e → r = roundTo dst { rd with places := .source e } sat { neg := n, m := m, e := e }) ∧
      (∀ n, v = .nan n → r = nanOf dst n) ∧
      ∀ n, v = .inf n → r =
        if dst = .e4m3 ∧ sat = true then (zeroOf dst n + 0x7E, 16) else (infOf dst n, if dst = .e4m3 ∨ dst = .e2m1 then 16 else 0)
    else
      (v.isNaN → r = (0, 16)) ∧ (∀ n, v = .inf n → r = (wrap (width dst) (if n then lo else hi), 16)) ∧
      (∀ n m e, v = .num n m e → ∃ u : Nat, RoundsTo { rd with places := .source e } v.value 0 u ∧
        let k : Int := if n then -u else u
        (r = if hi < k then (wrap (width dst) hi, 16) else if k < lo then (wrap (width dst) lo, 16)
          else (wrap (width dst) k, r.2)) ∧ (lo ≤ k → k ≤ hi → (r.2 = 0 ∧ v.value = k) ∨ (r.2 = 1 ∧ v.value ≠ k)))
  else if isFloat dst then r = roundTo dst { rd with places := .source 0 } sat { neg := decide (k < 0), m := k.natAbs, e := 0 }
  else r = (wrap (width dst) (if sat then max lo (min hi k) else k), 0)

/-! ## Traps -/

/-- The queue image holds the entries of a queue in order, and zeros from their number up (R357). -/
def ImageOf (q : List VqEntry) (image : Vector VqEntry 64) : Prop :=
  (∀ i e, i < 64 → q[i]? = some e → image[i]? = some e) ∧ ∀ i, i < 64 → q.length ≤ i → image[i]? = some VqEntry.zero

/-- The hart took a trap: the registers of Table 15.3 hold its cause, the queue is set aside as the image, HM is 1 and the PC is
the space's vector. Everything else is as before: general registers, vector state, VSTART, FFLAGS, streams, stores (R351). -/
def TrapTaken (s t : State) (code : BitVec 8) (vq : Bool) (pc npc val : Word) (elem : BitVec 16) (iseq : Word) : Prop :=
  ImageOf s.hart.vq t.hart.tr.image ∧
    OnlyHart s t { s.hart with
      sc := { s.hart.sc with pc := (s.space s.sp).tvec.setWidth 64 * 4, iseq := iseq }
      ln := { s.hart.ln with req := none, headDevc := false, hmStart := 0, headFound := none }
      tr := { s.hart.tr with
        code := code, async := false, vq := vq, pc := pc, npc := npc, val := val, elem := elem, hm := true
        vqn := BitVec.ofNat 7 s.hart.vq.length, vqsel := 0, image := t.hart.tr.image }
      vq := []
      wait := .none
      due := none }

/-- The state in which a trap of a code is taken: at cause 0x09 every record written since the last delivery is delivered (R363). -/
def delivering (s : State) (code : BitVec 8) : State :=
  let h := s.hart
  if code ≠ 0x09 then s
  else s.withHart { h with
    recs := []
    tr := { h.tr with record := (h.recs.headD 0).setWidth 56, nrec := BitVec.ofNat 16 (min h.recs.length 65535) }
    stores := h.stores.map (fun l => if l.stage = .held then { l with delivered := true } else l)
    streams := h.streams.map (fun st => { st with queue := st.queue.map (fun o =>
      { o with rows := o.rows.map (fun r => if r.held then { r with delivered := true } else r) }) }) }

/-- The record that ends a handler (R353, Table 15.6), for a trap with a value raised by the instruction at the PC. -/
def endingRecord (s : State) (code : BitVec 8) (val : Word) : FaultRec :=
  { time := s.clock.now, seq := s.hart.sc.iseq, code := code, double := true, replay := false, morePg := false, moreEl := false, orig := 3
    source := s.devnum ++ s.hart.id.phys, x := 0, iaddr := s.hart.sc.pc.setWidth 56, va := val.setWidth 56, y := 0, z := 0
    pages := [], mask := 0 }

/-- The 64 bytes of a fault record as one little-endian number hold what Table 15.6 lays out: each field's bytes from its offset. -/
def IsRecord (s : State) (r : FaultRec) (x : Nat) : Prop :=
  let field (off bytes v : Nat) : Prop := x / 2 ^ (8 * off) % 2 ^ (8 * bytes) = v
  field 0x00 8 r.time.toNat ∧ field 0x08 6 (r.seq.toNat % 2 ^ 48) ∧
  field 0x0E 1 (r.code.toNat % 128 + r.double.toNat * 128) ∧
  field 0x0F 1 (r.replay.toNat + r.morePg.toNat * 2 + r.moreEl.toNat * 4 + r.pages.length * 8 + r.orig.toNat * 64) ∧
  field 0x10 6 (r.source.toNat + s.hart.id.ref.idx % 512 * 2 ^ 25 + s.hart.id.teamId.toNat * 2 ^ 34) ∧
  field 0x16 2 r.x.toNat ∧ field 0x18 7 r.iaddr.toNat ∧ field 0x1F 1 0 ∧ field 0x20 7 r.va.toNat ∧ field 0x27 1 0 ∧
  field 0x28 2 r.y.toNat ∧ field 0x2A 2 r.z.toNat ∧ (∀ k, k < 6 → field (0x2C + 2 * k) 2 ((r.pages[k]?).getD 0).toNat) ∧
  field 0x38 8 r.mask.toNat

/-- A trap that may be taken: the hart is not in handler mode and its space has a trap handler (R351). -/
def MayTrap (s : State) : Prop := s.hart.tr.hm = false ∧ (s.space s.sp).teEn = true

/-- A handler was ended by a trap (R353): its image, its queue and its held lines are discarded, and it waits only for its
copies and its other stores; but for ISEQ, which counts the instruction that trapped (R356), no register of it changed. -/
def HandlerEnding (s t : State) : Prop :=
  t.hart.run = .ending ∧ t.hart.vq = [] ∧ t.hart.tr.vqn = 0 ∧ ImageOf [] t.hart.tr.image ∧
    (∀ l, l ∈ t.hart.stores ↔ l ∈ s.hart.stores ∧ l.stage ≠ .held) ∧
    t.hart.sc = { s.hart.sc with iseq := s.hart.sc.iseq + 1 } ∧ t.hart.vec = s.hart.vec ∧
    t.hart.tr.pc = s.hart.tr.pc ∧ t.hart.tr.code = s.hart.tr.code ∧ t.hart.tr.val = s.hart.tr.val ∧ t.others = s.others

/-- Every row of a copy that is in range lies at addresses that R226 and R227 allow, and can be checked. -/
def RowsLegal (s : State) (len : Nat) (rows : List CopyRow) : Prop :=
  ∀ r ∈ rows, r.fill = false → ∀ k < len, let a := (r.mem + BitVec.ofNat 64 k).toNat
    EntryReady s a ∧ addressOk s s.sp s.pt a = true

/-! ## Turns -/

/-- The current hart is the one named, its handler runs, and its team is resident. -/
def Runs (s : State) (r : HartRef) : Prop :=
  s.hart.run = .running ∧ s.hart.id.ref = r ∧ isOut s r = false

/-- Every participant of a barrier has arrived, the hart `r` being counted as arrived (R334). -/
def LastArrival (x : Barrier) (r : HartRef) : Prop := ∀ m ∈ x.members, m = r ∨ m ∈ x.arrived

/-! ## Vector instructions -/

/-- The general registers that an instruction of the vector queue reads, its fields counted from the most significant (Table 15.5). -/
def gRead (i : Instr) : List GReg :=
  match i with
  | .vaddVx _ _ g _ _ | .vsubVx _ _ g _ _ | .vmulVx _ _ g _ _ | .vdivVx _ _ g _ _ | .vminVx _ _ g _ _ | .vmaxVx _ _ g _ _
  | .vandVx _ _ g _ _ | .vorVx _ _ g _ _ | .vxorVx _ _ g _ _ | .vsllVx _ _ g _ _ | .vsrlVx _ _ g _ _ | .vsraVx _ _ g _ _
  | .vmulhVx _ _ g _ _ | .vsaddVx _ _ g _ _ | .vssubVx _ _ g _ _ | .vfmaVx _ _ g _ _ | .vfmsVx _ _ g _ _ | .vnfmaVx _ _ g _ _
  | .vselVx _ _ g _ | .vbcast _ g _ _ | .vslideup _ _ g _ _ | .vslidedn _ _ g _ _ => [g]
  | .vcmpeqVx _ _ g _ _ | .vcmpneVx _ _ g _ _ | .vcmpltVx _ _ g _ _ | .vcmpleVx _ _ g _ _ | .vcmpgtVx _ _ g _ _
  | .vcmpgeVx _ _ g _ _ | .vcmpuoVx _ _ g _ _ | .vcmpclsVx _ _ g _ _ => [g]
  | .setvl _ a _ => [a]
  | .vmvg _ g _ | .pset g _ | .mrd _ _ g | .mrdc _ _ g | .mwr _ _ g => [g]
  | .vins _ a g => [a, g]
  | .vld _ b x _ _ | .vlds _ b x _ _ | .vldff _ b x _ _ | .vst _ b x _ _ | .vsts _ b x _ _ => [b, x]
  | .vldT _ b x | .vstT _ b x | .vldR _ b x _ | .vstR _ b x _ | .vldAv _ b x _ | .vldAm _ b x _ => [b, x]
  | .vldx _ b _ _ _ | .vstx _ b _ _ _ => [b]
  | .vamoAdd _ b _ _ _ | .vamoMin _ b _ _ _ | .vamoMax _ b _ _ _ | .vamoAnd _ b _ _ _ | .vamoOr _ b _ _ _ | .vamoXor _ b _ _ _
  | .vamoSwap _ b _ _ _ | .vamoFmin _ b _ _ _ | .vamoFadd _ b _ _ _ => [b]
  | .cpg d a _ _ _ | .cpt d a _ | .cpl d a _ => [d, a]
  | _ => []

/-- The current hart can issue and commit a vector instruction: its handler runs, its queue is empty, its vector state is not off
(R371), and lanes back its grant. -/
def VecReady (s : State) : Prop :=
  Runs s s.hart.id.ref ∧ s.hart.vq = [] ∧ (s.hart.tr.voff = false ∨ s.hart.tr.hm = true) ∧ s.hart.ln.released = false ∧
    0 < s.hart.ln.len ∧ s.hart.ln.len ≤ 65536

/-- The instruction issues, and then its entry commits at the head of the queue (R144, R145), which gives `u`. -/
def Commits (s : State) (i : Instr) (u : State) : Prop :=
  ∃ t, exec i s = .next t ∧ exec (.vqEntryCommit s.hart.id.ref) t = .next u

/-- The current hart's clocks run for the entry that committed (R224, R381). -/
def Lanes.worked (l k : Lanes) (hm : Bool) : Lanes :=
  { l with vstart := if hm then l.vstart else 0, headDevc := false, hmStart := 0, headFound := none, laneIdle := 0, clockGated := k.clockGated
           mxIdle := k.mxIdle, awake := k.awake }

/-- What a vector instruction leaves when it commits: the hart went on, VSTART is 0 (outside handler mode, where it stays), `f`
is ORed into FFLAGS, SRCTR counts a stochastic instruction. But for the general registers and the vector state, all else of the
device and every byte are as before. -/
def VecFrame (s u : State) (f : BitVec 5) (draws : Bool) : Prop :=
  OnlyHart s u { s.hart.wentOn with
    sc := { s.hart.wentOn.sc with
      g := u.hart.sc.g, fflags := s.hart.sc.fflags ||| f, srctr := s.hart.sc.srctr + if draws then 1 else 0 }
    ln := s.hart.ln.worked u.hart.ln s.hart.tr.hm
    vec := u.hart.vec }

/-- `u` is what a vector instruction that wrote `vd` in format `t` leaves of `s`: element j is `x j`, and the bits above VL.LEN are zero.
Every other register, predicate and tile is as before. -/
def RegWritten (s u : State) (d : VReg) (t : Fmt) (x : Nat → Nat) (f : BitVec 5) (draws : Bool) : Prop :=
  VecFrame s u f draws ∧ SameG s u ∧ u.hart.vec = { s.hart.vec with v := u.hart.vec.v } ∧
    (∀ r, r ≠ d → u.hart.reg r = s.hart.reg r) ∧ u.hart.tag d = t ∧ (u.hart.reg d).bits.toNat < 2 ^ s.hart.ln.len ∧
    ∀ j, j < s.hart.elems (width t) → (u.hart.reg d).elem (width t) j = x j % 2 ^ width t

/-- The instruction commits and writes `vd`, as `RegWritten` says. -/
def WritesReg (s : State) (i : Instr) (d : VReg) (t : Fmt) (x : Nat → Nat) (f : BitVec 5) (draws : Bool) : Prop :=
  ∃ u, Commits s i u ∧ RegWritten s u d t x f draws

/-- The instruction commits and writes a predicate: bit k is `x k` for the VL.LEN / 4 bits it has, and 0 above them. -/
def WritesPred (s : State) (i : Instr) (d : PReg) (x : Nat → Bool) (f : BitVec 5) : Prop :=
  ∃ u, Commits s i u ∧ VecFrame s u f false ∧ SameG s u ∧ u.hart.vec = { s.hart.vec with p := u.hart.vec.p } ∧
    (∀ q k, q ≠ d → u.hart.pbit q k = s.hart.pbit q k) ∧
    ∀ k, u.hart.pbit d k = (decide (k < s.hart.elems 4) && x k)

/-- The instruction commits and writes `x` to a general register; the vector state is as before. -/
def CommitsG (s : State) (i : Instr) (d : GReg) (x : Word) : Prop :=
  ∃ u, Commits s i u ∧ VecFrame s u 0 false ∧ OnlyG s u d x ∧ u.hart.vec = s.hart.vec

/-- Element j of a result of format `t` (R190): an active element is `x j`; another is zero, or what vd held. -/
def Hart.merged (h : Hart) (d : VReg) (t : Fmt) (p : PReg) (z : Bool) (x : Nat → Nat) (j : Nat) : Nat :=
  if h.active p (width t) j then x j else if z then 0 else (h.reg d).elem (width t) j

/-- The tag of vd allows a merge into format `t` (R190). -/
def Hart.mergesInto (h : Hart) (d : VReg) (t : Fmt) (z : Bool) : Prop := z = true ∨ h.tag d = t ∨ h.tag d = .none

/-- The elements of width w that are active under a predicate (R189). -/
def Hart.actives (h : Hart) (p : PReg) (w : Nat) : List Nat := (List.range (h.elems w)).filter (fun j => h.active p w j)

/-- The OR of the flags of the active elements (R176). -/
def Hart.flagsOf (h : Hart) (p : PReg) (w : Nat) (f : Nat → BitVec 5) : BitVec 5 :=
  (h.actives p w).foldl (fun x j => x ||| f j) 0

/-- The OR of flags. -/
def orAll (l : List (BitVec 5)) : BitVec 5 := l.foldl (fun x f => x ||| f) 0

/-- `v k j` is what stands at place j after k rounds of the tree of R183 over `n` places, with the flags of the operation that gave
it; `op a b r` says that `r` is the operation's result. -/
def IsTree (n : Nat) (op : Nat → Nat → FpRes → Prop) (v : Nat → Nat → FpRes) : Prop :=
  ∀ k j, j < n / 2 ^ (k + 1) → op (v k j).1 (v k (j + n / 2 ^ (k + 1))).1 (v (k + 1) j)

/-- The flags of every operation of a tree. -/
def treeFlags (n : Nat) (v : Nat → Nat → FpRes) : BitVec 5 :=
  orAll ((List.range n.log2).flatMap (fun k => (List.range (n / 2 ^ (k + 1))).map (fun j => (v (k + 1) j).2)))

/-- The head entry starts at its first element or line (Table 11.1, R352). -/
def FromStart (s : State) : Prop := (if s.hart.tr.hm then s.hart.ln.hmStart else s.hart.ln.vstart.toNat) = 0

/-- No element of the next instruction has been read from a device (R153). -/
def NoElementRead (s : State) : Prop :=
  ∀ o ∈ s.windowOps, o.hart = s.hart.id.ref → o.seq = s.hart.sc.iseq → o.write = true

/-- What a vector instruction that writes the near window leaves: the hart went on, and its segment's bytes changed; those in the
places that `spared` holds for, and every byte of HBM, did not. -/
def StoreFrame (s u : State) (f : BitVec 5) (spared : Nat → Prop) : Prop :=
  ∃ m, u = (s.updSeg m).withHart { s.hart.wentOn with
      sc := { s.hart.wentOn.sc with fflags := s.hart.sc.fflags ||| f }
      ln := s.hart.ln.worked u.hart.ln s.hart.tr.hm
      vec := u.hart.vec } ∧
    (∀ b, spared b → memRead u.seg b = memRead s.seg b) ∧ ∀ b, memRead u.mem b = memRead s.mem b

/-- The instruction commits and writes a tile: its format and its accumulators, n × n of them. -/
def WritesTile (s : State) (i : Instr) (t : TReg) (f : Fmt) (n : Nat) (x : Nat → Nat) (fl : BitVec 5) : Prop :=
  ∃ u, Commits s i u ∧ VecFrame s u fl false ∧ SameG s u ∧ u.hart.vec = { s.hart.vec with t := u.hart.vec.t } ∧
    (∀ q, q ≠ t → u.hart.tile q = s.hart.tile q) ∧ (u.hart.tile t).fmt = f ∧ (u.hart.tile t).acc.length = n * n ∧
    ∀ k, k < n * n → ((u.hart.tile t).acc.getD k 0).toNat = x k

/-- The side of a gang (R210). -/
def sideOf (vl : Nat) : Option Nat := if vl = 4096 then some 8 else if vl = 16384 then some 16 else if vl = 65536 then some 32 else none

/-- No asynchronous cause can be taken: the hart is in handler mode, or none is pending (R354). -/
def NoCause (s : State) : Prop :=
  s.hart.tr.hm = true ∨ (s.hart.notice = { thermal := none, preempt := none, watchdog := none } ∧ s.hart.undelivered = false)

/-- The instruction issues, and its entry then traps at the head (R357), where no asynchronous cause is taken first (R354). -/
def TrapsAtHead (s : State) (i : Instr) (code : BitVec 8) (val : Word) (elem : Nat := 0) : Prop :=
  NoCause s → ∃ t, exec i s = .next t ∧ exec (.vqEntryCommit s.hart.id.ref) t = .next (takeTrap t
    { code := code, vq := true, pc := (s.hart.sc.pc.setWidth 56).setWidth 64, npc := s.hart.sc.pc + 4, val := val
      elem := BitVec.ofNat 16 elem, seq := s.hart.sc.iseq, counted := false })

/-! ## Vector accesses of memory -/

/-- The instruction issues to `t`, and its entry executes once at the head, which gives `u` (R144, R145). -/
def AtHead (s : State) (i : Instr) (P : State → State → Prop) : Prop :=
  ∃ t u, exec i s = .next t ∧ exec (.vqEntryCommit s.hart.id.ref) t = .next u ∧ P t u

/-- The entry of the instruction at the PC has trapped at the head: the registers of Table 15.1, the queue set aside, and the PC at the
space's vector (R351, R357). -/
def HeadTrapped (s u : State) (code : BitVec 8) (val : Word) (elem : Nat) : Prop :=
  u.hart.tr.code = code ∧ u.hart.tr.async = false ∧ u.hart.tr.vq = true ∧ u.hart.tr.val = val ∧
    u.hart.tr.elem = BitVec.ofNat 16 elem ∧ u.hart.tr.pc = (s.hart.sc.pc.setWidth 56).setWidth 64 ∧ u.hart.tr.npc = s.pc4 ∧
    u.hart.tr.hm = true ∧ u.hart.tr.vqn = 1 ∧ u.hart.vq = [] ∧ u.hart.sc.pc = (s.space s.sp).tvec.setWidth 64 * 4 ∧ SameG s u

/-- The copy of the line of an address in the L2 of the hart's facet, where a vector access looks first (R243, R244). -/
def l2Copy (s : State) (a : Word) : Option CacheLine :=
  copyAt s (.l2 s.hart.id.facet) (cacheSpace s.sp a.toNat) (a.toNat / 128)

/-- `n` bytes at `a` are read without a home, and stand in `m` from `p` on: in the hart's segment, or in a frame of which its facet's L2
holds a copy with R (R243, R267, R282). -/
def VecReads (s : State) (a : Word) (n : Nat) (m : List Host.Cell) (p : Nat) : Prop :=
  (InSegment s a n ∧ m = s.seg ∧ p = nearOff a) ∨
    (MappedAt s a n ∧ ∃ c, l2Copy s a = some c ∧ c.r = true ∧ m = s.mem ∧ p = c.pline * 128 + a.toNat % 128)

/-- A vector load of whose elements only `k`, at the mapped address `a`, is read, and whose home does not serve it: it waits while the page
migrates or a snoop is out; a fault writes one record and traps with VSTART 0, or, while no record can be written, waits and keeps when it
was found (R248, R269, R361, R362, Table 11.1). -/
def LoadStops (s : State) (i : Instr) (a : Word) (k : Nat) : Prop :=
  let home_ := home s s.sp s.pt a.toNat .load
  let fault (c : Nat) : FaultRec :=
    { time := s.clock.now, seq := s.hart.sc.iseq, code := BitVec.ofNat 8 c, double := false, replay := false, morePg := false
      moreEl := false, orig := 3, source := s.devnum ++ s.hart.id.phys, x := 0, iaddr := s.hart.sc.pc.setWidth 56
      va := a.setWidth 56, y := BitVec.ofNat 16 k, z := 0, pages := [0], mask := 1 }
  (∀ s1, home_ = (.mig, s1) ∨ home_ = (.busy, s1) → AtHead s i (fun t u => u = s1.withHart t.hart)) ∧
  ∀ c s1, home_ = (.fault c, s1) → MayTrap s → NoCause s → s.hart.ln.headFound = none → AtHead s i (fun t u =>
    ∀ s2 w, writeRecord (s1.withHart t.hart) (fault c) = (s2, w) →
      (w = none → u = s2.withHart { t.hart with ln := { t.hart.ln with headFound := some s.clock.now } }) ∧
      (w ≠ none → HeadTrapped s u (BitVec.ofNat 8 c) a k ∧ u.hart.ln.vstart = 0 ∧ u.hart.vec = s.hart.vec ∧
        ∀ b, memRead u.mem b = memRead s2.mem b))

/-- `n` bytes at `a` are aligned, legal under R226 and R227 and outside the near window: a vector store retires them. -/
def Mapped (s : State) (a : Word) (n : Nat) : Prop :=
  a.toNat % n = 0 ∧ EntryReady s a.toNat ∧ addressOk s s.sp s.pt a.toNat = true ∧ inNear a.toNat = false

/-- An access of `n` bytes at `a` fails a precise check with a code: Misaligned, or an illegal address, or one outside the segment (R254,
R226, R227, R283). -/
def CheckFails (s : State) (a : Word) (n : Nat) (code : BitVec 8) : Prop :=
  (a.toNat % n ≠ 0 ∧ code = 0x06) ∨
    (a.toNat % n = 0 ∧ EntryReady s a.toNat ∧ addressOk s s.sp s.pt a.toNat = false ∧ code = 0x08) ∨
    (a.toNat % n = 0 ∧ EntryReady s a.toNat ∧ nearVa + s.segBytes ≤ a.toNat ∧ a.toNat < nearVa + 0x400000 ∧ code = 0x08)

/-- Lines that a vector store entry of the instruction at the PC has retired: they stand for translation, as it says (R151, R271, R360). -/
def Retires (s : State) (nt : Bool) (ls : List StoreLine) : Prop :=
  ∀ l ∈ ls, l.stage = .retired ∧ l.vector = true ∧ l.nt = nt ∧ l.seq = s.hart.sc.iseq ∧ l.addr = s.hart.sc.pc.setWidth 56 ∧
    l.handler = s.hart.tr.hm ∧ l.source = s.devnum ++ s.hart.id.phys

/-- What a vector store that commits leaves, its lines `ls` retired: the hart went on, and nothing else changed. -/
def RetireFrame (s u : State) (ls : List StoreLine) : Prop :=
  u = s.withHart { s.hart.wentOn with
    ln := s.hart.ln.worked u.hart.ln s.hart.tr.hm
    stores := s.hart.stores ++ ls }

end Sys2Proof.Machine
end

