-- ==== Sys2Proof/Certificates/Slice0/Obligations.lean ====
section
/-! DEFINITION. What is claimed of the machine, rule by rule, for the provers. -/

open Sys2Proof Sys2Proof.Machine

/-! ## Integer instructions (chapter 5) -/

/-- R102, R105, R106, R107: the sums, differences and products modulo 2^64, their 32-bit forms and the constants. -/
def Obligations.IntegerSums : Prop :=
  ∀ (s : State) (d a b : GReg) (i : BitVec 11) (u : BitVec 20) (j : BitVec 42) (k : BitVec 36),
    Gives (exec (.add d a b) s) s d (BitVec.ofNat 64 ((s.g a).toNat + (s.g b).toNat)) ∧
    Gives (exec (.sub d a b) s) s d (BitVec.ofInt 64 ((s.g a).toInt - (s.g b).toInt)) ∧
    Gives (exec (.mul d a b) s) s d (BitVec.ofNat 64 ((s.g a).toNat * (s.g b).toNat)) ∧
    Gives (exec (.mulh d a b) s) s d (BitVec.ofInt 64 (((s.g a).toInt * (s.g b).toInt).fdiv (2 ^ 64))) ∧
    Gives (exec (.mulhu d a b) s) s d (BitVec.ofNat 64 ((s.g a).toNat * (s.g b).toNat / 2 ^ 64)) ∧
    Gives (exec (.addw d a b) s) s d (BitVec.ofInt 64 (BitVec.ofInt 32 ((s.g a).toInt + (s.g b).toInt)).toInt) ∧
    Gives (exec (.subw d a b) s) s d (BitVec.ofInt 64 (BitVec.ofInt 32 ((s.g a).toInt - (s.g b).toInt)).toInt) ∧
    Gives (exec (.mulw d a b) s) s d (BitVec.ofInt 64 (BitVec.ofInt 32 ((s.g a).toInt * (s.g b).toInt)).toInt) ∧
    Gives (exec (.addi d a i) s) s d (BitVec.ofInt 64 ((s.g a).toInt + i.toInt)) ∧
    Gives (exec (.lhi d u) s) s d (BitVec.ofInt 64 (u.toInt * 2 ^ 11)) ∧
    Writes (exec (.liL d j) s) s (s.hart.sc.pc + 8) d (BitVec.ofInt 64 j.toInt) 0 ∧
    Writes (exec (.addiL d a k) s) s (s.hart.sc.pc + 8) d (BitVec.ofInt 64 ((s.g a).toInt + k.toInt)) 0

/-- R102, R103, R105: the bitwise operations, bit by bit, the immediate sign-extended. A shift takes its amount from the whole
register; 64 or more shifts everything out, and `rotr` alone reduces the amount modulo 64. -/
def Obligations.IntegerLogicAndShifts : Prop :=
  (∀ (s : State) (d a b : GReg) (i : BitVec 11),
     let bit (o : Out) (f : Bool → Bool → Bool) (y : Word) : Prop :=
       ∃ x, Gives o s d x ∧ ∀ n, n < 64 → x.getLsbD n = f ((s.g a).getLsbD n) (y.getLsbD n)
     bit (exec (.and d a b) s) (fun x y => x && y) (s.g b) ∧
     bit (exec (.or d a b) s) (fun x y => x || y) (s.g b) ∧
     bit (exec (.xor d a b) s) (fun x y => x != y) (s.g b) ∧
     bit (exec (.andn d a b) s) (fun x y => x && !y) (s.g b) ∧
     bit (exec (.andi d a i) s) (fun x y => x && y) (BitVec.ofInt 64 i.toInt) ∧
     bit (exec (.ori d a i) s) (fun x y => x || y) (BitVec.ofInt 64 i.toInt) ∧
     bit (exec (.xori d a i) s) (fun x y => x != y) (BitVec.ofInt 64 i.toInt)) ∧
  ∀ (s : State) (d a b : GReg) (k : BitVec 6),
    let n := (s.g b).toNat
    let x := s.g a
    Gives (exec (.sll d a b) s) s d (if n < 64 then BitVec.ofNat 64 (x.toNat * 2 ^ n) else 0) ∧
    Gives (exec (.srl d a b) s) s d (if n < 64 then BitVec.ofNat 64 (x.toNat / 2 ^ n) else 0) ∧
    Gives (exec (.sra d a b) s) s d
      (if n < 64 then BitVec.ofInt 64 (x.toInt.fdiv (2 ^ n)) else if x.toInt < 0 then BitVec.ofInt 64 (-1) else 0) ∧
    Gives (exec (.rotr d a b) s) s d (BitVec.ofNat 64 (x.toNat / 2 ^ (n % 64) + x.toNat * 2 ^ (64 - n % 64))) ∧
    Gives (exec (.slli d a k) s) s d (BitVec.ofNat 64 (x.toNat * 2 ^ k.toNat)) ∧
    Gives (exec (.srli d a k) s) s d (BitVec.ofNat 64 (x.toNat / 2 ^ k.toNat)) ∧
    Gives (exec (.srai d a k) s) s d (BitVec.ofInt 64 (x.toInt.fdiv (2 ^ k.toNat)))

/-- R102, R105: the compares write 1 or 0, the minima and maxima one of their operands; the counts of bits, the byte swap and the
extensions. -/
def Obligations.IntegerOrderAndBits : Prop :=
  (∀ (s : State) (d a b : GReg) (i : BitVec 11),
     let x := s.g a
     let y := s.g b
     Gives (exec (.slt d a b) s) s d (if x.toInt < y.toInt then 1 else 0) ∧
     Gives (exec (.sltu d a b) s) s d (if x.toNat < y.toNat then 1 else 0) ∧
     Gives (exec (.slti d a i) s) s d (if x.toInt < i.toInt then 1 else 0) ∧
     Gives (exec (.min d a b) s) s d (BitVec.ofInt 64 (min x.toInt y.toInt)) ∧
     Gives (exec (.max d a b) s) s d (BitVec.ofInt 64 (max x.toInt y.toInt)) ∧
     Gives (exec (.minu d a b) s) s d (BitVec.ofNat 64 (min x.toNat y.toNat)) ∧
     Gives (exec (.maxu d a b) s) s d (BitVec.ofNat 64 (max x.toNat y.toNat))) ∧
  ∀ (s : State) (d a : GReg),
    let x := s.g a
    (∃ n, n ≤ 64 ∧ Gives (exec (.clz d a) s) s d (BitVec.ofNat 64 n) ∧ (∀ k, k < n → x.getLsbD (63 - k) = false) ∧
      (n < 64 → x.getLsbD (63 - n) = true)) ∧
    (∃ n, n ≤ 64 ∧ Gives (exec (.ctz d a) s) s d (BitVec.ofNat 64 n) ∧ (∀ k, k < n → x.getLsbD k = false) ∧
      (n < 64 → x.getLsbD n = true)) ∧
    Gives (exec (.popc d a) s) s d (BitVec.ofNat 64 ((List.range 64).filter (fun k => x.getLsbD k)).length) ∧
    (∃ y : Word, Gives (exec (.bswap d a) s) s d y ∧
      ∀ k, k < 8 → y.extractLsb' (8 * k) 8 = x.extractLsb' (8 * (7 - k)) 8) ∧
    Gives (exec (.sxb d a) s) s d (BitVec.ofInt 64 (x.extractLsb' 0 8).toInt) ∧
    Gives (exec (.sxh d a) s) s d (BitVec.ofInt 64 (x.extractLsb' 0 16).toInt) ∧
    Gives (exec (.sxw d a) s) s d (BitVec.ofInt 64 (x.extractLsb' 0 32).toInt) ∧
    Gives (exec (.zxw d a) s) s d (BitVec.ofNat 64 (x.toNat % 2 ^ 32))

/-- R104: division rounds towards zero, a remainder takes the dividend's sign; division by zero and the signed overflow have
results; b × (a div b) + (a rem b) = a modulo 2^64 in every case. -/
def Obligations.IntegerDivision : Prop :=
  ∀ (s : State) (d a b : GReg),
    let x := s.g a
    let y := s.g b
    let lowest : Word := 0x8000000000000000
    ∃ q r qu ru : Word,
      Gives (exec (.div d a b) s) s d q ∧ Gives (exec (.rem d a b) s) s d r ∧
      Gives (exec (.divu d a b) s) s d qu ∧ Gives (exec (.remu d a b) s) s d ru ∧
      y * q + r = x ∧ y * qu + ru = x ∧
      (y = 0 → q = 0xFFFFFFFFFFFFFFFF ∧ r = x ∧ qu = 0xFFFFFFFFFFFFFFFF ∧ ru = x) ∧
      (x = lowest ∧ y = 0xFFFFFFFFFFFFFFFF → q = x ∧ r = 0) ∧
      (y ≠ 0 ∧ ¬(x = lowest ∧ y = 0xFFFFFFFFFFFFFFFF) →
        q.toInt = x.toInt.tdiv y.toInt ∧ r.toInt = x.toInt - x.toInt.tdiv y.toInt * y.toInt) ∧
      (y ≠ 0 → qu.toNat = x.toNat / y.toNat ∧ ru.toNat = x.toNat % y.toNat)

/-! ## Control flow (chapter 5) -/

/-- R108, R109, R110: a conditional branch goes to PC + sext(off) × 4 when its condition holds and to PC + 4 otherwise, and changes
nothing else. The jumps read their sources before they write the link; a `jalr` target whose bits [1:0] are not zero raises
Misaligned with the target in TRAPVAL and writes neither gd nor the PC. -/
def Obligations.BranchesAndJumps : Prop :=
  (∀ (s : State) (a b : GReg) (o : BitVec 10) (z : BitVec 17),
     let x := s.g a
     let y := s.g b
     let t10 := BitVec.ofInt 64 (s.hart.sc.pc.toInt + o.toInt * 4)
     let t17 := BitVec.ofInt 64 (s.hart.sc.pc.toInt + z.toInt * 4)
     Goes (exec (.beq a b o) s) s (if x = y then t10 else s.pc4) ∧
     Goes (exec (.bne a b o) s) s (if x = y then s.pc4 else t10) ∧
     Goes (exec (.blt a b o) s) s (if x.toInt < y.toInt then t10 else s.pc4) ∧
     Goes (exec (.bge a b o) s) s (if x.toInt < y.toInt then s.pc4 else t10) ∧
     Goes (exec (.bltu a b o) s) s (if x.toNat < y.toNat then t10 else s.pc4) ∧
     Goes (exec (.bgeu a b o) s) s (if x.toNat < y.toNat then s.pc4 else t10) ∧
     Goes (exec (.beqz a z) s) s (if x = 0 then t17 else s.pc4) ∧
     Goes (exec (.bnez a z) s) s (if x = 0 then s.pc4 else t17) ∧
     Goes (exec (.bltz a z) s) s (if x.toInt < 0 then t17 else s.pc4) ∧
     Goes (exec (.bgez a z) s) s (if x.toInt < 0 then s.pc4 else t17) ∧
     Goes (exec (.bgtz a z) s) s (if 0 < x.toInt then t17 else s.pc4) ∧
     Goes (exec (.blez a z) s) s (if 0 < x.toInt then s.pc4 else t17)) ∧
  ∀ (s : State) (d a : GReg) (i : BitVec 11) (o : BitVec 20) (l : BitVec 42),
    let pc := s.hart.sc.pc
    let t := BitVec.ofInt 64 ((s.g a).toInt + i.toInt)
    Writes (exec (.jal d o) s) s (BitVec.ofInt 64 (pc.toInt + o.toInt * 4)) d (pc + 4) 0 ∧
    Writes (exec (.jalL d l) s) s (BitVec.ofInt 64 (pc.toInt + l.toInt * 4)) d (pc + 8) 0 ∧
    (t.toNat % 4 = 0 → Writes (exec (.jalr d a i) s) s t d (pc + 4) 0) ∧
    (t.toNat % 4 ≠ 0 → exec (.jalr d a i) s = trapAt s 0x06 t)

/-! ## Scalar memory accesses (chapter 11) -/

/-- R254, R258, R259, R282, R283, R316: a load in the near window gives the segment's bytes, sign- or zero-extended, and changes no byte.
A store there, with no earlier vector access uncommitted, writes the low bytes of its register and nothing else; behind one it waits; a
release store does so once Table 13.4 is met. That any earlier entry that may access memory holds a store is the model's choice (logs 7,
10), where R316 orders it only behind loads and accesses of its bytes. How an instruction waits, Hart.wait and its turn again, is the
model's choice (log 1). -/
def Obligations.NearAccesses : Prop :=
  (∀ (s : State) (g b : GReg) (i : BitVec 11) (sc : Scope), NoDeviceRead s →
     let a := s.ea b i
     let r := s.g b
     let x (a : Word) (n : Nat) := readLE s.seg (nearOff a) n
     (NearAt s a 1 → Gives (exec (.ldB g b i) s) s g (BitVec.ofInt 64 (signedOf 1 (x a 1))) ∧
       Gives (exec (.ldBu g b i) s) s g (BitVec.ofNat 64 (x a 1))) ∧
     (NearAt s a 2 → Gives (exec (.ldH g b i) s) s g (BitVec.ofInt 64 (signedOf 2 (x a 2))) ∧
       Gives (exec (.ldHu g b i) s) s g (BitVec.ofNat 64 (x a 2))) ∧
     (NearAt s a 4 → Gives (exec (.ldW g b i) s) s g (BitVec.ofInt 64 (signedOf 4 (x a 4))) ∧
       Gives (exec (.ldWu g b i) s) s g (BitVec.ofNat 64 (x a 4))) ∧
     (NearAt s a 8 → Gives (exec (.ldD g b i) s) s g (BitVec.ofNat 64 (x a 8))) ∧
     (NearAt s r 4 → Gives (exec (.ldAcqW g b sc) s) s g (BitVec.ofNat 64 (x r 4))) ∧
     (NearAt s r 8 → Gives (exec (.ldAcqD g b sc) s) s g (BitVec.ofNat 64 (x r 8)))) ∧
  ∀ (s : State) (g b : GReg) (i : BitVec 11) (sc : Scope), Memory.wf s.seg = true →
    let a := s.ea b i
    let r := s.g b
    let x := (s.g g).toNat
    let queued := s.hart.queueTouches = true
    let held (j : Instr) : Prop := exec j s = .next (s.withHart { s.hart with wait := .queue })
    (InSegment s a 1 → if queued then held (.stB g b i) else StoresNear (exec (.stB g b i) s) s a 1 x) ∧
    (InSegment s a 2 → if queued then held (.stH g b i) else StoresNear (exec (.stH g b i) s) s a 2 x) ∧
    (InSegment s a 4 → if queued then held (.stW g b i) else StoresNear (exec (.stW g b i) s) s a 4 x) ∧
    (InSegment s a 8 → if queued then held (.stD g b i) else StoresNear (exec (.stD g b i) s) s a 8 x) ∧
    (InSegment s r 4 → ReleaseReady s sc → StoresNear (exec (.stRelW g b sc) s) s r 4 x) ∧
    (InSegment s r 8 → ReleaseReady s sc → StoresNear (exec (.stRelD g b sc) s) s r 8 x)

/-- R261, R262, R264, Table 11.4: an atomic in the near window, with no earlier vector access uncommitted, gives its old value to gd and
its new value to the segment; one with release order does so once Table 13.4 is met. -/
def Obligations.NearAtomics : Prop :=
  ∀ (s : State) (d a b : GReg) (o : MemOrder) (sc : Scope), Memory.wf s.seg = true → InSegment s (s.g a) 8 →
    s.hart.queueTouches = false → ((o = .release ∨ o = .acqRel) → ReleaseReady s sc) →
    let p := s.g a
    let old := readLE s.seg (nearOff p) 8
    let w : Word := BitVec.ofNat 64 old
    let y := s.g b
    let lo := fpMinMax .fp64 false old y.toNat
    let sum := fpAddV .fp64 { mode := .rne } (unpack .fp64 old) (unpack .fp64 y.toNat)
    AtomicNear (exec (.amoAdd d a b o sc) s) s p d ((old + y.toNat) % 2 ^ 64) 0 ∧
    AtomicNear (exec (.amoAnd d a b o sc) s) s p d (old &&& y.toNat) 0 ∧
    AtomicNear (exec (.amoOr d a b o sc) s) s p d (old ||| y.toNat) 0 ∧
    AtomicNear (exec (.amoXor d a b o sc) s) s p d (old ^^^ y.toNat) 0 ∧
    AtomicNear (exec (.amoMin d a b o sc) s) s p d (BitVec.ofInt 64 (min w.toInt y.toInt)).toNat 0 ∧
    AtomicNear (exec (.amoMax d a b o sc) s) s p d (BitVec.ofInt 64 (max w.toInt y.toInt)).toNat 0 ∧
    AtomicNear (exec (.amoMinu d a b o sc) s) s p d (min old y.toNat) 0 ∧
    AtomicNear (exec (.amoMaxu d a b o sc) s) s p d (max old y.toNat) 0 ∧
    AtomicNear (exec (.amoSwap d a b o sc) s) s p d y.toNat 0 ∧
    AtomicNear (exec (.amoCas d a b o sc) s) s p d (if old = (s.g d).toNat then y.toNat else old) 0 ∧
    AtomicNear (exec (.amoIncb d a b o sc) s) s p d (if old < y.toNat then old + 1 else old) 0 ∧
    AtomicNear (exec (.amoFmin d a b o sc) s) s p d lo.1 lo.2 ∧
    AtomicNear (exec (.amoFadd d a b o sc) s) s p d sum.1 sum.2

/-- R254: an address that is not a multiple of the access size raises Misaligned with the address in TRAPVAL, before any other
check of the access, and nothing of it is performed. -/
def Obligations.MisalignedAccesses : Prop :=
  ∀ (s : State) (g b d : GReg) (i : BitVec 11) (o : MemOrder) (sc : Scope), NoDeviceRead s →
    let a := s.ea b i
    let r := s.g b
    (a.toNat % 2 ≠ 0 → ∀ j ∈ [Instr.ldH g b i, .ldHu g b i, .stH g b i], exec j s = trapAt s 0x06 a) ∧
    (a.toNat % 4 ≠ 0 → ∀ j ∈ [Instr.ldW g b i, .ldWu g b i, .stW g b i], exec j s = trapAt s 0x06 a) ∧
    (a.toNat % 8 ≠ 0 → ∀ j ∈ [Instr.ldD g b i, .stD g b i], exec j s = trapAt s 0x06 a) ∧
    (r.toNat % 4 ≠ 0 → ∀ j ∈ [Instr.ldAcqW g b sc, .stRelW g b sc], exec j s = trapAt s 0x06 r) ∧
    (r.toNat % 8 ≠ 0 → ∀ j ∈ [Instr.ldAcqD g b sc, .stRelD g b sc, .amoAdd d b g o sc, .amoAnd d b g o sc, .amoOr d b g o sc,
      .amoXor d b g o sc, .amoMin d b g o sc, .amoMax d b g o sc, .amoMinu d b g o sc, .amoMaxu d b g o sc,
      .amoSwap d b g o sc, .amoCas d b g o sc, .amoIncb d b g o sc, .amoFmin d b g o sc, .amoFadd d b g o sc],
      exec j s = trapAt s 0x06 r)

/-! ## Scalar floating point (chapter 5) -/

/-- R112 to R116, R121, Table 5.6: an arithmetic instruction writes its exact result rounded once in FRM's mode (RNE for stochastic
rounding), or the special case of its operands, ORs its flags into FFLAGS, and changes nothing else; a .s result has zero upper
bits. R163, R167 to R169, R173: rounding gives, for every format, mode and draw, the finite value or the overflow that the rules give a
real number, with its flags. R163, R164, Table 7.3: the fields of a pattern say whether it is an infinity, a quiet or a signalling NaN,
or the number that they give, with its sign. How many places of a conversion's source stochastic rounding counts where the whole
significand lies below the last place is a reading (log 51). -/
def Obligations.FpArithmetic : Prop :=
  (∀ (f : Fmt) (rd : Rounding) (sat : Bool) (x : Exact) (v : ℝ), isFloat f = true → x.holds v → v ≠ 0 →
     RightlyRounded f rd sat v (roundTo f rd sat x)) ∧
  (∀ (f : Fmt) (x : Nat), isFloat f = true →
     let e := x / 2 ^ fracBits f % 2 ^ expBits f
     let m := x % 2 ^ fracBits f
     let neg := decide (x / 2 ^ (width f - 1) % 2 = 1)
     let v := unpack f x
     let special := e = 2 ^ expBits f - 1 ∧ f ≠ .e2m1 ∧ (f = .e4m3 → m = 7)
     (¬special → v.finite ∧ v.value = patValue f x ∧ negative v = neg) ∧
     (special → v = if f = .e4m3 then .nan false else if m = 0 then .inf neg else .nan (decide (m < 2 ^ (fracBits f - 1))))) ∧
  ∀ (s : State) (d a b : GReg), ∀ p ∈ [(Fmt.fp32, Instr.faddS d a b, Instr.fsubS d a b, Instr.fmulS d a b, Instr.fdivS d a b,
      Instr.fsqrtS d a, Instr.fmacS d a b), (Fmt.fp64, .faddD d a b, .fsubD d a b, .fmulD d a b, .fdivD d a b, .fsqrtD d a,
      .fmacD d a b)],
    let x := fpOperand p.1 s a
    let y := fpOperand p.1 s b
    let z := fpOperand p.1 s d
    let rd := scalarRounding s
    let is (i : Instr) (P : FpRes → Prop) : Prop :=
      ∃ r, P r ∧ r.1 < 2 ^ width p.1 ∧ Writes (exec i s) s s.pc4 d (BitVec.ofNat 64 r.1) r.2
    is p.2.1 (IsSum p.1 rd false x y) ∧ is p.2.2.1 (IsSum p.1 rd true x y) ∧ is p.2.2.2.1 (IsProduct p.1 rd x y) ∧
    is p.2.2.2.2.1 (IsQuotient p.1 rd x y) ∧ is p.2.2.2.2.2.1 (IsRoot p.1 rd x) ∧
    is p.2.2.2.2.2.2 (IsFused p.1 rd false false x y z)

/-- R115, R117, R118, R119: sign changes copy every other bit and raise nothing; minima and maxima return an operand, −0 below +0,
and the non-NaN one of a NaN; the compares order real values and infinities and hold for no NaN; a class sets one bit. -/
def Obligations.FpSelections : Prop :=
  ∀ (s : State) (d a b : GReg), ∀ p ∈ [(Fmt.fp32, Instr.fnegS d a, Instr.fabsS d a, Instr.fminS d a b, Instr.fmaxS d a b,
      Instr.feqS d a b, Instr.fltS d a b, Instr.fleS d a b, Instr.fclassS d a), (Fmt.fp64, .fnegD d a, .fabsD d a, .fminD d a b,
      .fmaxD d a b, .feqD d a b, .fltD d a b, .fleD d a b, .fclassD d a)],
    let w := width p.1
    let u := (s.g a).toNat % 2 ^ w
    let v := (s.g b).toNat % 2 ^ w
    let x := unpack p.1 u
    let y := unpack p.1 v
    let top := 2 ^ (w - 1)
    let nv : BitVec 5 := if x = .nan true ∨ y = .nan true then 16 else 0
    let picks (i : Instr) (larger : Bool) : Prop :=
      ∃ r, IsPick p.1 larger u v r ∧ Writes (exec i s) s s.pc4 d (BitVec.ofNat 64 r.1) r.2
    Gives (exec p.2.1 s) s d (BitVec.ofNat 64 (if u < top then u + top else u - top)) ∧
    Gives (exec p.2.2.1 s) s d (BitVec.ofNat 64 (if u < top then u else u - top)) ∧
    picks p.2.2.2.1 false ∧ picks p.2.2.2.2.1 true ∧
    (x.isNaN ∨ y.isNaN → Writes (exec p.2.2.2.2.2.1 s) s s.pc4 d 0 nv ∧ Writes (exec p.2.2.2.2.2.2.1 s) s s.pc4 d 0 16 ∧
      Writes (exec p.2.2.2.2.2.2.2.1 s) s s.pc4 d 0 16) ∧
    (¬x.isNaN → ¬y.isNaN → ∃ e l m : Word, Gives (exec p.2.2.2.2.2.1 s) s d e ∧ Gives (exec p.2.2.2.2.2.2.1 s) s d l ∧
      Gives (exec p.2.2.2.2.2.2.2.1 s) s d m ∧ (x.place = y.place → e = 1 ∧ l = 0 ∧ m = 1) ∧
      (x.place < y.place → e = 0 ∧ l = 1 ∧ m = 1) ∧ (y.place < x.place → e = 0 ∧ l = 0 ∧ m = 0)) ∧
    Gives (exec p.2.2.2.2.2.2.2.2 s) s d (BitVec.ofNat 64 (2 ^ classBit p.1 u))

/-- R120: the conversions. To an integer, the operand is rounded to an integer first and the range checked after; out of range and
the infinities saturate with NV, a NaN gives 0 with NV; NX exactly when the integer differs. The others round once; a zero keeps its
sign between the two formats, and the integer 0 gives +0. -/
def Obligations.FpConversions : Prop :=
  ∀ (s : State) (d a : GReg),
    let x32 := fpOperand .fp32 s a
    let x64 := fpOperand .fp64 s a
    let wr (i : Instr) (x : Word) (f : BitVec 5) : Prop := Writes (exec i s) s s.pc4 d x f
    let high : Word := 0x7FFFFFFFFFFFFFFF
    let low : Word := 0x8000000000000000
    (∀ p ∈ [(x32, Instr.fcvtLS d a), (x64, .fcvtLD d a)],
      (p.1 = .nan true ∨ p.1 = .nan false → wr p.2 0 16) ∧
      (∀ n, p.1 = .inf n → wr p.2 (if n then low else high) 16) ∧
      (p.1.finite → ∃ k, RoundedInt (Rnd.ofFrm s.hart.sc.frm) p.1.value k ∧
        (2 ^ 63 ≤ k → wr p.2 high 16) ∧ (k < -2 ^ 63 → wr p.2 low 16) ∧
        (-2 ^ 63 ≤ k → k < 2 ^ 63 → ∃ f, wr p.2 (BitVec.ofInt 64 k) f ∧
          ((k : ℝ) = p.1.value → f = 0) ∧ ((k : ℝ) ≠ p.1.value → f = 1)))) ∧
    (∀ p ∈ [(Fmt.fp32, Instr.fcvtSL d a), (.fp64, .fcvtDL d a)],
      ∃ r, RoundedOnce p.1 { scalarRounding s with places := .source 0 } ((s.g a).toInt : ℝ) r ∧
        wr p.2 (BitVec.ofNat 64 r.1) r.2 ∧ (s.g a = 0 → r = (0, 0))) ∧
    (∀ p ∈ [(x64, Fmt.fp32, 0x7FC00000, Instr.fcvtSD d a), (x32, .fp64, 0x7FF8000000000000, .fcvtDS d a)],
      (p.1 = .nan true → wr p.2.2.2 (BitVec.ofNat 64 p.2.2.1) 16) ∧
      (p.1 = .nan false → wr p.2.2.2 (BitVec.ofNat 64 p.2.2.1) 0) ∧
      (∀ n, p.1 = .inf n → wr p.2.2.2 (BitVec.ofNat 64 (infinity p.2.1 n)) 0) ∧
      (p.1.isZero → wr p.2.2.2 (BitVec.ofNat 64 (zeroOf p.2.1 (negative p.1))) 0) ∧
      (∀ n m e, p.1 = .num n m e → ∃ r, RoundedOnce p.2.1 { scalarRounding s with places := .source e } p.1.value r ∧
        wr p.2.2.2 (BitVec.ofNat 64 r.1) r.2))

/-! ## Traps and system registers (chapter 15) -/

/-- R351, R353, R357, R361 to R363, R366: `trap` completes by taking its trap, in every state that may take one, and so does every cause;
0x09 delivers the records written since the last delivery. A synchronous trap saves the PC and the value, `trap` the next PC and its
immediate, a queue-head trap the entry's address with the scalar resume point in TRAPNPC; the queue becomes the image; the PC is TVEC × 4.
A synchronous trap that finds a device-class access of the entry at the head started is kept as it was raised and taken when that access
is over (Table 6.5; Hart.due, log 44), TIME of its record being when it was raised (R361, log 39). In handler mode, or in a space
without a trap handler, a trap ends the handler once its record is written or dropped; while the fault log's page migrates, or the host
holds a line that it needs, the hart has stopped and its record waits, written at a turn of the hart. A record stands at HEAD in the layout
of Table 15.6, and is dropped without a log or without room. The number taken, the ending record's fields and its wait, and TRAPNPC of a
trap with VQ = 0 follow logs 38, 39 and 30; log 52 bounds a started store. How an instruction waits, Hart.wait and its turn again, is the
model's choice (log 1). -/
def Obligations.TrapEntry : Prop :=
  (∀ (s : State) (i : BitVec 11), MayTrap s → headStarted s s.hart = false → ∃ t, exec (.trap i) s = .next t ∧
     TrapTaken s t 0x0D false (s.hart.sc.pc + 4) (s.hart.sc.pc + 4) (BitVec.ofNat 64 i.toNat) 0 (s.hart.sc.iseq + 1)) ∧
  (∀ (s : State) (code : BitVec 8) (val : Word) (i : BitVec 11) (tr : Trap), headStarted s s.hart = true →
     let held (x : Trap) : State := s.withHart { s.hart with
       wait := .queue, ir := if x.counted then s.hart.ir else none, due := some { x with raised := some s.clock.now } }
     trapAt s code val = .next (held { code := code, pc := s.hart.sc.pc, val := val, seq := s.hart.sc.iseq }) ∧
     exec (.trap i) s = .next (held { code := 0x0D, pc := s.hart.sc.pc + 4, val := BitVec.ofNat 64 i.toNat, seq := s.hart.sc.iseq
                                      iaddr := some s.hart.sc.pc }) ∧
     (tr.async = false → tr.vq = false → takeTrap s tr = held tr)) ∧
  (∀ (s : State) (tr : Trap) (rest : List Action), s.agenda = .hart s.hart.id.ref :: rest → Runs s s.hart.id.ref →
     s.hart.due = some tr → s.hart.fatal = none → diesStill s = false →
     let s0 := { s with agenda := rest }
     (headStarted s s.hart = true → step s = .next s0) ∧ (headStarted s s.hart = false → step s = .next (takeTrap s0 tr))) ∧
  (∀ (s : State) (code : BitVec 8) (val : Word) (e : VqEntry) (elem : Nat), MayTrap s →
     (headStarted s s.hart = false → ∃ t, trapAt s code val = .next t ∧
       TrapTaken (delivering s code) t code false s.hart.sc.pc s.hart.sc.pc val 0 (s.hart.sc.iseq + 1)) ∧
     TrapTaken (delivering s code) (trapHead s e code val elem) code true (BitVec.ofNat 64 e.addr.toNat) s.hart.sc.pc val (BitVec.ofNat 16 elem)
       (if s.hart.waitsInside then s.hart.sc.iseq + 1 else s.hart.sc.iseq)) ∧
  (∀ (s : State) (code : BitVec 8) (val past : Word) (i : BitVec 11),
     (s.hart.tr.hm = true ∨ (s.space s.sp).teEn = false) → headStarted s s.hart = false →
     let n := s.withHart { s.hart with sc := { s.hart.sc with iseq := s.hart.sc.iseq + 1 } }
     let late := takeTrap s { code := code, pc := s.hart.sc.pc, val := val, seq := s.hart.sc.iseq, raised := some past }
     ∀ p ∈ [(trapAt s code val, endingRecord s code val), (exec (.trap i) s, endingRecord s 0x0D (BitVec.ofNat 64 i.toNat)),
         (.next late, { endingRecord s code val with time := past })],
       (∀ s1, writeRecord n p.2 = (s1, none) →
         p.1 = .next (s1.withHart { n.hart with run := .recording, wait := .none, fatal := some p.2 })) ∧
       ∀ s1 va, writeRecord n p.2 = (s1, some va) → ∃ t, p.1 = .next t ∧ t = s1.withHart t.hart ∧ HandlerEnding s t ∧
         (t.space s.sp).acRecs = (s.space s.sp).acRecs + 1) ∧
  (∀ (s s1 : State) (r : FaultRec) (rest : List Action), s.agenda = .hart s.hart.id.ref :: rest → s.hart.run = .recording →
     s.hart.fatal = some r → diesStill s = false → isOut s s.hart.id.ref = false →
     let s0 := { s with agenda := rest }
     (writeRecord s0 r = (s1, none) → ∃ t, step s = .next t ∧ t = s1.withHart { s.hart with wait := .none }) ∧
     ∀ va, writeRecord s0 r = (s1, some va) → ∃ t, step s = .next t ∧ t = s1.withHart t.hart ∧ t.hart.run = .ending ∧ t.hart.vq = [] ∧
       t.hart.fatal = none ∧ t.hart.sc = s.hart.sc ∧ ∀ l, l ∈ t.hart.stores ↔ l ∈ s.hart.stores ∧ l.stage ≠ .held) ∧
  ∀ (s s1 : State) (r : FaultRec) (pte : Nat), Memory.wf s.mem = true → r.pages.length ≤ 6 →
    let x := s.space s.sp
    let size := 64 * 2 ^ x.logsz.toNat
    let va := x.logBase.toNat * 4096 + x.logHead.toNat % size * 64
    (x.logBase = 0 ∨ size ≤ (x.logHead - x.logTail).toNat → ∃ t, writeRecord s r = (t, some 0) ∧ t = { s with spaces := t.spaces } ∧
      t.space s.sp = { x with acRecs := x.acRecs + 1, logLost := true }) ∧
    (x.logBase ≠ 0 → (x.logHead - x.logTail).toNat < size → entrySnoop s s.sp va = none → addressOk s s.sp s.pt va = true →
      inNear va = false → (home s s.sp s.pt va .store = (.mig, s1) ∨ home s s.sp s.pt va .store = (.busy, s1)) →
      writeRecord s r = (s1, none)) ∧
    (x.logBase ≠ 0 → (x.logHead - x.logTail).toNat < size → entrySnoop s s.sp va = none → addressOk s s.sp s.pt va = true →
      inNear va = false → home s s.sp s.pt va .store = (.ok pte, s1) → natBits pte 4 2 = 0 →
      let pa := pteFrame pte + va % 65536
      ∃ t, writeRecord s r = (t, some (BitVec.ofNat 64 va)) ∧ IsRecord s r (readLE t.mem pa 64) ∧
        t.space s.sp = { x with acRecs := x.acRecs + 1, logHead := x.logHead + 1 } ∧
        ∀ a, a < pa ∨ pa + 64 ≤ a → memRead t.mem a = memRead s1.mem a)

/-- R359, R367: `eret` outside handler mode is Illegal with its word in TRAPVAL; in it, it returns to TRAPNPC for a queue-head trap and to
TRAPPC otherwise, bits [1:0] zero, with the first VQN image positions pushed again in order; nothing else changed, but what the hart's
loads had read of a WC page is read again (R357). So an `eret` right after a trap resumes at the trapping instruction with the queue as it
was. That the entries pushed again take PRIO as their class is the model's choice (log 43). That an Illegal `eret` takes no number is a
reading (log 38). -/
def Obligations.ReturnFromTrap : Prop :=
  ∀ (s : State),
    (s.hart.tr.hm = false → exec .eret s =
      .next (takeTrap s { code := 0x01, pc := s.hart.sc.pc, val := 0x34002800, seq := s.hart.sc.iseq, counted := false })) ∧
    (s.hart.tr.hm = true → s.hart.vq = [] → ∃ t, exec .eret s = .next t ∧
      t.hart.vq = (s.hart.tr.image.toList.take s.hart.tr.vqn.toNat).map (fun e => { e with cls := s.hart.sc.prio }) ∧
      t.hart.sc.pc.toNat % 4 = 0 ∧
      t.hart.sc.pc.toNat / 4 = (if s.hart.tr.vq then s.hart.tr.npc else s.hart.tr.pc).toNat / 4 ∧
      OnlyHart { s with windowOps := s.windowOps.filter (fun o => !(o.hart == s.hart.id.ref && !o.write && !o.devc)) } t { s.hart with
        vq := t.hart.vq, wait := .none, tr := { s.hart.tr with vqn := 0, hm := false }
        sc := { s.hart.sc with pc := t.hart.sc.pc, iseq := s.hart.sc.iseq + 1 } }) ∧
    (∀ (code : BitVec 8) (val : Word), MayTrap s → headStarted s s.hart = false → code ≠ 0x09 → s.hart.vq.length ≤ 64 →
      s.hart.sc.pc.toNat % 4 = 0 →
      (∀ e ∈ s.hart.vq, e.cls = s.hart.sc.prio) → ∃ t u, trapAt s code val = .next t ∧ exec .eret t = .next u ∧
        u.hart.sc.pc = s.hart.sc.pc ∧ u.hart.vq = s.hart.vq ∧ u.hart.sc.g = s.hart.sc.g ∧ u.hart.vec = s.hart.vec ∧
        u.hart.tr.hm = false)

/-- R5, R51, R52, R131, R132, R166, R286, R296, R355, R362, R365, R401: `sysrd` writes the register that Table 4.12 numbers, its
reserved fields zero, once the registers that wait for the queue find it empty; it changes nothing else. `syswr` writes the fields
that accept writes and ignores the rest: FRM keeps its value against a reserved mode, PRIO is never raised, BND bits clear by writing
one, VQN stays at most 64, the trap registers and the log's base and tail accept writes in handler mode only, a write of FLOGBASE clears
HEAD and TAIL, LOST clears by writing one; after it the instruction has gone on and nothing else changed. -/
def Obligations.SystemRegisters : Prop :=
  (∀ (s : State) (d : GReg),
     let h := s.hart
     let x := s.space s.sp
     let n64 := BitVec.ofNat 64
     let granted := if h.ln.len = 0 then 0 else if h.ln.released then 3 else if h.ln.fold = 0 then 1 else 2
     (∃ v : Word, Gives (exec (.sysrd d 0x028) s) s d v ∧ v.extractLsb' 0 16 = h.sc.cpBnd ∧ v.extractLsb' 32 4 = h.sc.cpSel ∧
       v.extractLsb' 36 28 = 0 ∧ ∀ k, k < 16 → (v.getLsbD (16 + k) = true ↔
         ∃ o ∈ (vget h.streams k Stream.empty).queue, ∃ r ∈ o.rows, r.held = true)) ∧
     (∀ p ∈ [(0x010#11, n64 (h.ln.len + h.ln.trim.toNat * 2 ^ 32 + h.ln.tv.toNat * 2 ^ 63)), (0x012, n64 h.ln.vstart.toNat),
       (0x018, n64 h.sc.frm.toNat), (0x019, n64 h.sc.fflags.toNat), (0x01A, h.sc.srseed), (0x01B, h.sc.srctr)],
       h.vq = [] → Gives (exec (.sysrd d p.1) s) s d p.2) ∧
     (∀ p ∈ [(0x000#11, n64 (h.id.phys.toNat + s.devnum.toNat * 2 ^ 17)), (0x001, n64 h.id.teamId.toNat),
       (0x002, n64 h.id.teamSize.toNat), (0x003, n64 (h.id.space.toNat + h.id.part.toNat * 2 ^ 14)), (0x004, n64 h.sc.prio.toNat),
       (0x008, s.clock.now), (0x009, s.cycle), (0x011, n64 h.ln.vlmax),
       (0x013, n64 ((match h.vq with | [] => (h.sc.pc + 4).toNat % 2 ^ 56 | e :: _ => e.addr.toNat) + h.vq.length * 2 ^ 56)),
       (0x014, n64 (h.ln.groups.length + h.ln.fold * 2 ^ 8 + h.ln.sq.toNat * 2 ^ 10 + granted * 2 ^ 11 + h.ln.pwr.toNat * 2 ^ 13
         + h.ln.cont.toNat * 2 ^ 14 + h.ln.folds.toNat * 2 ^ 16)),
       (0x020, h.sc.dim0), (0x021, h.sc.dim1), (0x022, h.sc.dim2), (0x040, 0x1000),
       (0x030, n64 (h.tr.code.toNat + h.tr.async.toNat * 2 ^ 8 + h.tr.vq.toNat * 2 ^ 9)), (0x031, h.tr.pc), (0x032, h.tr.val),
       (0x033, n64 h.tr.elem.toNat), (0x034, n64 (x.logsz.toNat + x.logBase.toNat * 2 ^ 12)),
       (0x035, n64 (x.logHead.toNat + x.logLost.toNat * 2 ^ 32)), (0x036, n64 x.logTail.toNat), (0x037, h.sc.iseq)],
       Gives (exec (.sysrd d p.1) s) s d p.2) ∧
     (∀ p ∈ [(0x100#11, n64 (h.tr.voff.toNat + ((h.stores.filter (fun l => l.stage == .held)).length) * 2 ^ 8
         + h.tr.nrec.toNat * 2 ^ 16)), (0x101, h.tr.npc), (0x102, n64 h.tr.record.toNat), (0x104, vget h.tr.save 0 0),
       (0x105, vget h.tr.save 1 0), (0x106, vget h.tr.save 2 0), (0x107, vget h.tr.save 3 0), (0x108, n64 h.tr.vqn.toNat),
       (0x109, n64 h.tr.vqsel.toNat), (0x110, n64 (vget h.tr.image h.tr.vqsel.toNat VqEntry.zero).word.toNat),
       (0x111, n64 (vget h.tr.image h.tr.vqsel.toNat VqEntry.zero).addr.toNat),
       (0x112, (vget h.tr.image h.tr.vqsel.toNat VqEntry.zero).seq),
       (0x113, (vget h.tr.image h.tr.vqsel.toNat VqEntry.zero).opa),
       (0x114, (vget h.tr.image h.tr.vqsel.toNat VqEntry.zero).opb),
       (0x115, (vget h.tr.image h.tr.vqsel.toNat VqEntry.zero).dim0),
       (0x116, (vget h.tr.image h.tr.vqsel.toNat VqEntry.zero).dim1),
       (0x117, (vget h.tr.image h.tr.vqsel.toNat VqEntry.zero).dim2)],
       h.tr.hm = true → Gives (exec (.sysrd d p.1) s) s d p.2)) ∧
  ∀ (s : State) (a : GReg),
    let v := s.g a
    let h := s.hart
    let low (n : Nat) := v.toNat % 2 ^ n
    let goes (n : BitVec 11) (h' : Hart) : Prop :=
      ∃ t, exec (.syswr a n) s = .next t ∧ OnlyHart s t h'.wentOn
    let sc (n : BitVec 11) (c : Scalars) : Prop := goes n { h with sc := c }
    let tr (n : BitVec 11) (r : TrapRegs) : Prop := goes n { h with tr := r }
    let x := s.space s.sp
    let log (n : BitVec 11) (y : Space) : Prop := ∃ t, exec (.syswr a n) s = .next t ∧
      t = { s with spaces := t.spaces }.withHart h.wentOn ∧ t.space s.sp = y ∧ ∀ k, k ≠ s.sp → t.space k = s.space k
    log 0x035 { x with logLost := x.logLost && !v.getLsbD 32 } ∧
    (h.tr.hm = true →
      log 0x034 { x with logsz := BitVec.ofNat 4 (low 4), logBase := BitVec.ofNat 44 (v.toNat / 2 ^ 12), logHead := 0, logTail := 0 } ∧
      log 0x036 { x with logTail := BitVec.ofNat 32 (low 32) }) ∧
    (h.vq = [] →
      goes 0x010 { h with ln := { h.ln with trim := BitVec.ofNat 15 (v.toNat / 2 ^ 32), tv := v.toNat / 2 ^ 63 = 1 } } ∧
      goes 0x012 { h with ln := { h.ln with vstart := BitVec.ofNat 16 (low 16) } } ∧
      sc 0x018 { h.sc with frm := if low 3 ≤ 4 then BitVec.ofNat 3 (low 3) else h.sc.frm } ∧
      sc 0x019 { h.sc with fflags := BitVec.ofNat 5 (low 5) } ∧ sc 0x01A { h.sc with srseed := v } ∧
      sc 0x01B { h.sc with srctr := v }) ∧
    sc 0x004 { h.sc with prio := if low 2 < h.sc.prio.toNat then h.sc.prio else BitVec.ofNat 2 (low 2) } ∧
    sc 0x020 { h.sc with dim0 := BitVec.ofNat 64 (low 61) } ∧ sc 0x021 { h.sc with dim1 := BitVec.ofNat 64 (low 62) } ∧
    sc 0x022 { h.sc with dim2 := BitVec.ofNat 64 (low 61) } ∧
    (∃ b : BitVec 16, (∀ i, i < 16 → b.getLsbD i = (h.sc.cpBnd.getLsbD i && !v.getLsbD i)) ∧
      sc 0x028 { h.sc with cpBnd := b }) ∧
    (∀ n ∈ [0x000#11, 0x001, 0x002, 0x003, 0x008, 0x009, 0x011, 0x013, 0x014, 0x037, 0x040], goes n h) ∧
    (h.tr.hm = false → ∀ n ∈ [0x030#11, 0x031, 0x032, 0x033, 0x034, 0x036], goes n h) ∧
    (h.tr.hm = true →
      tr 0x030 { h.tr with code := BitVec.ofNat 8 (low 8), async := v.getLsbD 8, vq := v.getLsbD 9 } ∧
      tr 0x031 { h.tr with pc := v } ∧ tr 0x032 { h.tr with val := v } ∧ tr 0x033 { h.tr with elem := BitVec.ofNat 16 (low 16) } ∧
      tr 0x100 { h.tr with voff := v.getLsbD 0 } ∧ tr 0x101 { h.tr with npc := v } ∧
      tr 0x102 { h.tr with record := BitVec.ofNat 56 (low 56) } ∧
      (∀ i, i < 4 → tr (BitVec.ofNat 11 (0x104 + i)) { h.tr with save := vset h.tr.save i v }) ∧
      tr 0x108 { h.tr with vqn := if low 7 ≤ 64 then BitVec.ofNat 7 (low 7) else h.tr.vqn } ∧
      tr 0x109 { h.tr with vqsel := BitVec.ofNat 6 (low 6) } ∧
      (∀ k, k < 8 → ∃ e : VqEntry, tr (BitVec.ofNat 11 (0x110 + k)) { h.tr with image := vset h.tr.image h.tr.vqsel.toNat e } ∧
        let old := vget h.tr.image h.tr.vqsel.toNat VqEntry.zero
        e = { old with word := if k = 0 then BitVec.ofNat 32 (low 32) else old.word
                       addr := if k = 1 then BitVec.ofNat 56 (low 56) else old.addr
                       seq := if k = 2 then v else old.seq, opa := if k = 3 then v else old.opa
                       opb := if k = 4 then v else old.opb, dim0 := if k = 5 then v else old.dim0
                       dim1 := if k = 6 then v else old.dim1, dim2 := if k = 7 then v else old.dim2 }))

/-- R98, R365: outside handler mode an access to a register numbered 0x100 to 0x1FF raises Illegal with the word in TRAPVAL, the
instruction taking no number; so does a number that Table 4.12 does not assign, in either mode. That no number is taken is a reading (log
38). -/
def Obligations.PrivilegedRegisters : Prop :=
  ∀ (s : State) (d a : GReg) (n : BitVec 11),
    (0x100 ≤ n.toNat ∧ n.toNat ≤ 0x1FF ∧ s.hart.tr.hm = false) ∨ sysRegAssigned n = false →
    let illegal (w : Nat) : Out :=
      .next (takeTrap s { code := 0x01, pc := s.hart.sc.pc, val := BitVec.ofNat 64 w, seq := s.hart.sc.iseq, counted := false })
    exec (.sysrd d n) s = illegal (encodeWord (.sysrd d n)) ∧ exec (.syswr a n) s = illegal (encodeWord (.syswr a n))

/-! ## Ending, waiting and ordering (chapters 11, 13, 15, 17) -/

/-- R33, R36, R322, R396, R398 to R400: `done` with its queue empty, Table 13.4 met at package scope and no copy outstanding ends the
handler, in handler mode too: its lanes are released and its vector state is zero, the space counts it, and no byte of HBM changes. A hart
of a serving team frees its ring entry and is free; one of a per-team launch retires, its team with its last hart, and the ring entry is
freed with the farm's last team. Until then `done` waits, the queue image discarded in handler mode; a held line makes it trap with 0x09.
How an instruction waits, Hart.wait and its turn again, is the model's choice (log 1). -/
def Obligations.HandlerDone : Prop :=
  (∀ (s : State),
    let img := s.withHart { s.hart with tr := { s.hart.tr with vqn := if s.hart.tr.hm then 0 else s.hart.tr.vqn } }
    let waits (w : Wait) : Prop := exec .done s = .next (img.withHart { img.hart with wait := w })
    (s.hart.vq ≠ [] ∨ (∃ l ∈ s.hart.stores, l.reached .package = false) → waits .release) ∧
    (s.hart.vq = [] → (∀ l ∈ s.hart.stores, l.reached .package = true) → (∃ l ∈ s.hart.stores, l.stage = .held) →
      exec .done s = trapAt img 0x09 0) ∧
    (ReleaseReady s .package → (∃ st ∈ s.hart.streams.toList, st.queue ≠ []) → waits .copy)) ∧
  (∀ (s : State) (tm : Team) (f : Farm), ReleaseReady s .package →
    (∀ st ∈ s.hart.streams.toList, st.queue = []) → s.team? s.hart.id.ref.team = some tm → s.farm? tm.farm = some f → f.perTeam = true →
    let last := ∀ h ∈ s.others, h.id.ref.team = tm.uid → h.run = .retired
    ∃ t, exec .done s = .next t ∧ (t.space s.sp).acDone = (s.space s.sp).acDone + 1 ∧
      (t.space s.sp).acEnded = (s.space s.sp).acEnded ∧ t.mem = s.mem ∧ t.lines = s.lines ∧
      (¬last → t.queues = s.queues ∧ t.team? tm.uid ≠ none ∧ t.hart.run = .retired ∧ t.hart.id = s.hart.id ∧
        t.hart.vec = VecState.zero ∧ t.hart.ln.groups = [] ∧ t.hart.ln.len = 0 ∧ t.hart.msg = none ∧ (∀ r, t.g r = 0) ∧
        t.hart.tr.hm = false ∧ t.hart.sc.iseq = s.hart.sc.iseq + 1) ∧
      (last → t.team? tm.uid = none ∧ (f.ended + 1 ≠ f.nteams → t.queues = s.queues) ∧
        (f.ended + 1 = f.nteams → (t.queue f.queue).held = (s.queue f.queue).held.erase f.slot))) ∧
  ∀ (s : State) (tm : Team) (f : Farm) (m : MsgRef), ReleaseReady s .package →
    (∀ st ∈ s.hart.streams.toList, st.queue = []) → s.team? s.hart.id.ref.team = some tm → s.farm? tm.farm = some f →
    f.perTeam = false → s.hart.msg = some m →
    ∃ t, exec .done s = .next t ∧ t.hart.run = .free ∧ t.hart.id = s.hart.id ∧ t.hart.vec = VecState.zero ∧
      t.hart.ln.groups = [] ∧ t.hart.ln.len = 0 ∧ t.hart.msg = none ∧ (∀ r, t.g r = 0) ∧ t.hart.tr.hm = false ∧
      t.hart.sc.iseq = s.hart.sc.iseq + 1 ∧ (t.queue m.queue).held = (s.queue m.queue).held.erase m.slot ∧
      (t.space s.sp).acDone = (s.space s.sp).acDone + 1 ∧ (t.space s.sp).acEnded = (s.space s.sp).acEnded ∧
      t.others = s.others ∧ t.lines = s.lines ∧ SameBytes s t

/-- R397: `yield` waits until CYCLE has advanced by 256, or until a cause is pending in handler mode, and then goes on; nothing else
changes. YIELD_TIMEOUT ends the wait at that moment and not before. How an instruction waits, Hart.wait and its turn again, is the model's
choice (log 1). That an event whose condition does not hold leaves the state is the model's choice (log 14). -/
def Obligations.Yielding : Prop :=
  ∀ (s : State) (u : Word) (r : HartRef),
    ((∀ v, s.hart.wait ≠ .yield v) → exec .yield s = .next (s.withHart { s.hart with wait := .yield (s.cycle + 256) })) ∧
    let caused := s.hart.tr.hm = true ∧ s.hart.pendingCause ≠ none
    (s.hart.wait = .yield u → (s.cycle - u).toNat < 2 ^ 63 ∨ caused → Goes (exec .yield s) s s.pc4) ∧
    (s.hart.wait = .yield u → 2 ^ 63 ≤ (s.cycle - u).toNat → ¬caused → exec .yield s = .next s) ∧
    (Runs s r → s.hart.wait = .yield u → (s.cycle - u).toNat < 2 ^ 63 ∨ caused → Goes (exec (.yieldTimeout r) s) s s.pc4) ∧
    (Runs s r → s.hart.wait = .yield u → 2 ^ 63 ≤ (s.cycle - u).toNat → ¬caused → exec (.yieldTimeout r) s = .next s)

/-- R318, R322, R348: `fence` and `vsync` go on once the queue is empty and what they order has been reached, a sequentially consistent
fence once every earlier store is performed, changing nothing else; before that they wait; a held line makes a release, and `vsync` of
stores, trap with 0x09. How an instruction waits, Hart.wait and its turn again, is the model's
choice (log 1). That a release's own trap is taken where no pending cause comes first is a reading (log 31). -/
def Obligations.Ordering : Prop :=
  ∀ (s : State) (o : BitVec 3) (sc : Scope) (k : Bool),
    (s.hart.vq = [] → o = 1 → Goes (exec (.fence o sc) s) s s.pc4) ∧
    (o ≠ 4 → ReleaseReady s sc → Goes (exec (.fence o sc) s) s s.pc4) ∧
    (s.hart.vq = [] → s.hart.stores = [] → Goes (exec (.fence o sc) s) s s.pc4) ∧
    (s.hart.vq = [] → (k = true → s.hart.stores = []) → Goes (exec (.vsync k) s) s s.pc4) ∧
    (s.hart.vq = [] → (∀ l ∈ s.hart.stores, l.stage = .held) → s.hart.stores ≠ [] →
      (o ≠ 1 → exec (.fence o sc) s = trapAt s 0x09 0) ∧ exec (.vsync true) s = trapAt s 0x09 0) ∧
    let waits (i : Instr) (w : Wait) : Prop := exec i s = .next (s.withHart { s.hart with wait := w })
    (s.hart.vq ≠ [] → waits (.fence 1 sc) .queue ∧ waits (.vsync false) .queue) ∧
    ((s.hart.vq ≠ [] ∨ ∃ l ∈ s.hart.stores, l.stage = .retired) → (o ≠ 1 → waits (.fence o sc) .release) ∧
      waits (.vsync true) .release)

/-- R250, R251, R369, R370: `ptsync` and `inval` check their operands, wait for the hart's earlier entries and stores, and complete when
the controllers and the caches have dropped what they name: `ptsync` the kept entries of the space or the global slice, `inval` every copy
of the pages, their dirty data written to the frames, so that HBM's own bytes there are the current ones; all else of the device stays. A
page that is not legal makes `inval` trap with 0x08 and the first such page's address, and where the host holds the space-table entry that
the check reads, it waits for the snoop. What a controller keeps, and how an instruction waits, are the model's choice (logs 1, 9). -/
def Obligations.TableMaintenance : Prop :=
  ∀ (s : State) (a n : GReg) (k : Bool) (i : BitVec 11) (r : HartRef), Runs s r → s.hart.vq = [] →
    let x := (s.g a).toNat
    let sp := if a = 0 then s.sp else x
    let csp := if n = 0 then s.sp else (s.g n).toNat
    let wrong := 2 ^ 14 ≤ x ∨ (sp ≠ s.sp ∧ s.sp ≠ 0) ∨ (k = true ∧ a ≠ 0)
    (wrong → exec (.ptsync a k) s = trapAt s 0x07 (s.g a)) ∧
    (¬wrong → (∀ l ∈ s.hart.stores, l.stage = .held) → ∃ t u, exec (.ptsync a k) s = .next t ∧
      exec (.ptsyncDropComplete r) t = .next u ∧ OnlyHart { s with walks := u.walks } u s.hart.wentOn ∧
      ∀ w, w ∈ u.walks ↔ w ∈ s.walks ∧ ¬(w.global = k ∧ w.space = if k then s.pt else sp)) ∧
    (x % 65536 ≠ 0 → exec (.inval n a i) s = trapAt s 0x06 (s.g a)) ∧
    (x % 65536 = 0 → n ≠ 0 → (s.sp ≠ 0 ∨ 2 ^ 14 ≤ (s.g n).toNat) → exec (.inval n a i) s = trapAt s 0x07 (s.g n)) ∧
    (x % 65536 = 0 → (n = 0 ∨ (s.sp = 0 ∧ (s.g n).toNat < 2 ^ 14)) →
      let page (j : Nat) := s.g a + BitVec.ofNat 64 (65536 * j)
      let ok (j : Nat) : Prop := addressOk s csp (spacePart s csp) (page j).toNat = true
      let named (cspace vpage : Nat) : Prop := ∃ j, j ≤ i.toNat ∧ cspace = cacheSpace csp ((x / 65536 + j) * 65536) ∧ vpage = x / 65536 + j
      (∀ s1, rangeSnoop s csp (s.g a) (i.toNat + 1) = some s1 →
        exec (.inval n a i) s = .next (s1.withHart { s1.hart with wait := .stall })) ∧
      (rangeSnoop s csp (s.g a) (i.toNat + 1) = none →
        (∀ j, j ≤ i.toNat → ¬ok j → (∀ k, k < j → ok k) → exec (.inval n a i) s = trapAt s 0x08 (page j)) ∧
        ((∀ j, j ≤ i.toNat → ok j) → ∃ t u, exec (.inval n a i) s = .next t ∧ exec (.invalComplete r) t = .next u ∧
          OnlyHart { s with lines := u.lines, backing := u.backing } u s.hart.wentOn ∧
          (∀ c, c ∈ u.lines ↔ c ∈ s.lines ∧ ¬named c.cspace (c.vline / 512)) ∧
          ∀ b, b ∈ u.backing ↔ b ∈ s.backing ∧ (∀ c ∈ s.lines, named c.cspace (c.vline / 512) → b.1 / 128 ≠ c.pline) ∧
            ∀ o ∈ s.frames, named o.cspace o.vpage → b.1 / 65536 ≠ o.frame)))

/-- R368: `replay` of an address that is not a multiple of 64 is Misaligned; with nothing held it gives all ones and changes nothing else;
with held rows only it re-issues each of them, its streams otherwise unchanged, and gives 0. One held store line that gd = 0 or a record in
the segment names (its instruction's number and an element of Y to Y + 63) is translated at its home: performed, gd 0; refused, held still
with a REPLAY record and its new code, gd 1; or the instruction waits for a migrating page; a record that names none of it gives all ones.
No entry of the vector queue holds it back, but its read of a record waits for earlier entries that may access the record's bytes (R147),
and with 64 lines held not for these either. That last, and how it waits, are the model's choice (logs 26, 1). -/
def Obligations.Replays : Prop :=
  ∀ (s : State) (d a : GReg), (∀ n, s.hart.wait ≠ .replay n) →
    (s.g a ≠ 0 → (s.g a).toNat % 64 ≠ 0 → exec (.replay d a) s = trapAt s 0x06 (s.g a)) ∧
    (s.g a = 0 → (∀ l ∈ s.hart.stores, l.stage ≠ .held) →
      (∀ st ∈ s.hart.streams.toList, ∀ o ∈ st.queue, ∀ r ∈ o.rows, r.held = false) →
      Gives (exec (.replay d a) s) s d (BitVec.ofInt 64 (-1))) ∧
    (s.g a = 0 → (∀ l ∈ s.hart.stores, l.stage ≠ .held ∧ l.again = false) →
      (∃ st ∈ s.hart.streams.toList, ∃ o ∈ st.queue, ∃ r ∈ o.rows, r.held = true) →
      ∃ t, exec (.replay d a) s = .next t ∧ OnlyG s t d 0 ∧
        OnlyHart s t { s.hart.wentOn with
          sc := { s.hart.wentOn.sc with g := t.hart.sc.g }
          streams := s.hart.streams.map (fun st => { st with queue := st.queue.map (fun o => { o with
            rows := o.rows.map (fun r => if r.held then { r with held := false, replayed := true } else r) }) }) }) ∧
    let m := readLE s.seg (nearOff (s.g a)) 64
    let covers (l : StoreLine) := l.seq.toNat % 2 ^ 48 = m / 2 ^ 64 % 2 ^ 48 ∧
      ∃ e ∈ owners l.elems, m / 2 ^ 320 % 2 ^ 16 ≤ e.idx ∧ e.idx < m / 2 ^ 320 % 2 ^ 16 + 64
    let heldLines := s.hart.stores.filter (fun l => l.stage = .held)
    (s.g a ≠ 0 → InSegment s (s.g a) 64 → NoElementRead s → s.hart.queueMeets (s.g a) 64 = true → heldLines.length < 64 →
      exec (.replay d a) s = .next (s.withHart { s.hart with wait := .commitQueue })) ∧
    (s.g a ≠ 0 → InSegment s (s.g a) 64 → NoElementRead s → s.hart.queueMeets (s.g a) 64 = false ∨ 64 ≤ heldLines.length →
      (∀ l ∈ heldLines, ¬covers l) → (∀ st ∈ s.hart.streams.toList, ∀ o ∈ st.queue, ∀ r ∈ o.rows, r.held = false) →
      Gives (exec (.replay d a) s) s d (BitVec.ofInt 64 (-1))) ∧
    (∀ l : StoreLine, s.hart.stores = [l] → l.stage = .held → Memory.wf s.mem = true →
      (∀ st ∈ s.hart.streams.toList, ∀ o ∈ st.queue, ∀ r ∈ o.rows, r.held = false) →
      let readable := InSegment s (s.g a) 64 ∧ NoElementRead s ∧ s.hart.queueMeets (s.g a) 64 = false
      let b := s.withHart { s.hart with stores := [{ l with again := true }] }
      let va := l.line * 128
      let ask := home b b.sp b.pt va .store
      let fin (t : State) (gd : Word) : Prop := exec (.replay d a) s = .next t ∧ OnlyG s t d gd ∧ t.hart.sc.pc = s.pc4 ∧
        t.hart.wait = .none ∧ t.hart.streams = s.hart.streams ∧ t.hart.recs = s.hart.recs ∧ t.others = s.others
      ((s.g a = 0 ∨ (readable ∧ covers l)) →
        granted b va (if l.vector then none else some (Place.l1d s.hart.id.core)) (fun c => c.w) = none →
        (∀ pte s1, ask = (.ok pte, s1) → isHbm (pteFrame pte) = true → natBits pte 4 2 = 0 →
          let p := (pteFrame pte + va % 65536) / 128 * 128
          ∃ t, fin t 0 ∧ t.hart.stores = [] ∧
            (∀ k, k < 128 → memRead t.mem (p + k) = (memRead s1.mem (p + k) &&& ~~~(l.mask.extractLsb' (8 * k) 8)) |||
              (l.data.extractLsb' (8 * k) 8 &&& l.mask.extractLsb' (8 * k) 8)) ∧
            ∀ e, e < p ∨ p + 128 ≤ e → memRead t.mem e = memRead s1.mem e) ∧
        (∀ k s1 s2 rec, ask = (.fault k, s1) → writeRecord s1 (lineRecord s.clock.now l (BitVec.ofNat 8 k) true false) = (s2, some rec) →
          ∃ t, fin t 1 ∧ t.mem = s2.mem ∧
            t.hart.stores = [{ l with again := false, behind := false, code := BitVec.ofNat 8 k, found := none }]) ∧
        (∀ k s1 s2, ask = (.fault k, s1) → writeRecord s1 (lineRecord s.clock.now l (BitVec.ofNat 8 k) true false) = (s2, none) →
          exec (.replay d a) s = .next (s2.withHart { b.hart with
            wait := .replay 0, stores := [{ l with again := true, found := some (l.found.getD s.clock.now) }] })) ∧
        ∀ s1, ask = (.mig, s1) → exec (.replay d a) s = .next (b.withHart { b.hart with wait := .replay 0 })))

/-! ## Barriers and strips (chapters 3, 14) -/

/-- R333, R334, R336, R338: an arrival records the current generation, owes it, and reports it; the last arrival completes the
generation once the window before it has closed, which raises CUR by one and clears the arrivals; no byte of memory changes. `bar.sy`
arrives in the same way. How an instruction waits, Hart.wait and its turn again, is the model's choice (log 1). -/
def Obligations.BarrierArrivals : Prop :=
  ∀ (s : State) (d : GReg) (n : BitVec 3) (sc : Scope) (owner facet : Nat) (x : Barrier), sc ≠ .system → facet < 8 →
    let k := BarKind.ofScope sc
    let slot := barSlot k n.toNat
    myBarrier s k = some (owner, facet) → barrierOf s k owner facet n.toNat = some x →
    (s.hart.bar slot).arv ≠ some x.cur → ReleaseReady s (arrivalScope s k facet) →
    (∃ t y, exec (.barArv d n sc) s = .next t ∧ OnlyG s t d (BitVec.ofNat 64 x.cur.toNat) ∧ t.hart.sc.pc = s.pc4 ∧
      t.hart.bar slot = { arv := some x.cur, owed := true } ∧ barrierOf t k owner facet n.toNat = some y ∧
      y.members = x.members ∧
      (LastArrival x s.hart.id.ref ∧ x.members ≠ [] ∧ windowsClosed s k n.toNat x = true →
        y.cur = x.cur + 1 ∧ y.arrived = []) ∧
      (¬LastArrival x s.hart.id.ref → y.cur = x.cur ∧ ∀ m, m ∈ y.arrived ↔ m = s.hart.id.ref ∨ m ∈ x.arrived) ∧
      SameBytes s t ∧ t.others = s.others) ∧
    ((∀ g, s.hart.bar slot ≠ { arv := some g, owed := true }) → ¬LastArrival x s.hart.id.ref →
      ∃ t y, exec (.barSy d n sc) s = .next t ∧ t.hart.wait = .barrier slot x.cur ∧ t.hart.sc = s.hart.sc ∧
        t.hart.bar slot = { arv := some x.cur, owed := true } ∧ barrierOf t k owner facet n.toNat = some y ∧
        y.cur = x.cur ∧ SameBytes s t)

/-- R337, R338, R342, R345: `bar.wt` on the token of a completed generation whose release time has come gives CUR and forgets the debt of
that generation; `bar.sy` that owes it gives the generation; where the current generation still lacks an arrival nothing else changes but
the phase that a hart released from its wait marks on its facet. Before that `bar.wt` waits, and nothing else changes. Which moment is a
waiter's release time, that its phase keeps apart from the one before, and what marks it, are the model's readings (logs 15, 37). How an
instruction waits, Hart.wait and its turn again, is the model's choice (log 1). -/
def Obligations.BarrierWaits : Prop :=
  ∀ (s : State) (d a : GReg) (n : BitVec 3) (sc : Scope) (owner facet : Nat) (x : Barrier) (g : BitVec 32), sc ≠ .system →
    let k := BarKind.ofScope sc
    let slot := barSlot k n.toNat
    let held := s.hart.wait = .barrier slot g
    let here := if held then markPhase s k (myRelease s x g) else s
    let paid := here.withHart (s.hart.setBar slot { s.hart.bar slot with owed := false })
    let lacks := ∃ m ∈ x.members, m ∉ x.arrived
    let done := 0 < (x.cur - g).toNat ∧ (x.cur - g).toNat < 2 ^ 31 ∧ released s x g = true ∧
      (held → phaseSpaced s k (myRelease s x g) = true)
    let returns (i : Instr) (v : Word) : Prop :=
      ∃ t, exec i s = .next t ∧ OnlyG s t d v ∧ t.hart.sc.pc = s.pc4 ∧ t.others = s.others ∧ SameBytes s t
    myBarrier s k = some (owner, facet) → barrierOf s k owner facet n.toNat = some x →
    ((s.g a).toNat = g.toNat → done → returns (.barWt d a n sc) (BitVec.ofNat 64 x.cur.toNat) ∧
      (lacks → Gives (exec (.barWt d a n sc) s) (if (s.hart.bar slot).arv = some g then paid else here) d
        (BitVec.ofNat 64 x.cur.toNat))) ∧
    ((s.hart.bar slot) = { arv := some g, owed := true } → done → returns (.barSy d n sc) (BitVec.ofNat 64 g.toNat) ∧
      (lacks → Gives (exec (.barSy d n sc) s) paid d (BitVec.ofNat 64 g.toNat))) ∧
    ((s.g a).toNat = g.toNat → (s.hart.bar slot).arv = some g → (x.cur = g ∨ ((x.cur - g).toNat < 2 ^ 31 ∧ released s x g = false)) →
      exec (.barWt d a n sc) s = .next (s.withHart { s.hart with wait := .barrier slot g }))

/-- R339: the misuses of a barrier raise 0x12 with the word and the reason in TRAPVAL: a scope the farm has no barrier of, a second
arrival at one generation, a wait on the current generation without having arrived, a token that is no recent generation. That reason 1
comes before reason 4, for a token with a bit of [63:32] set, is the model's choice (log 15). -/
def Obligations.BarrierMisuse : Prop :=
  ∀ (s : State) (d a : GReg) (n : BitVec 3) (sc : Scope), sc ≠ .system →
    let k := BarKind.ofScope sc
    let slot := barSlot k n.toNat
    let bad (i : Instr) (reason : Nat) : Prop :=
      exec i s = trapAt s 0x12 (BitVec.ofNat 64 (encodeWord i + reason * 2 ^ 32))
    (myBarrier s k = none → bad (.barArv d n sc) 1 ∧ bad (.barWt d a n sc) 1 ∧ bad (.barSy d n sc) 1) ∧
    (∀ owner facet x, myBarrier s k = some (owner, facet) → barrierOf s k owner facet n.toNat = some x →
      ((s.hart.bar slot).arv = some x.cur → bad (.barArv d n sc) 2 ∧
        ((s.hart.bar slot).owed = false → bad (.barSy d n sc) 2)) ∧
      ((s.g a).toNat = x.cur.toNat → (s.hart.bar slot).arv ≠ some x.cur → bad (.barWt d a n sc) 3) ∧
      (2 ^ 32 ≤ (s.g a).toNat → bad (.barWt d a n sc) 4) ∧
      (∀ g : BitVec 32, (s.g a).toNat = g.toNat → 2 ^ 31 ≤ (x.cur - g).toNat → bad (.barWt d a n sc) 4))

/-- R62, R346: a take below the limit gives NEXT and raises it by one; at or above the limit it gives all ones and changes nothing;
a declare gives what was left, sets NEXT to 0 and the limit to its operand. Only the named dispenser of the farm changes. -/
def Obligations.Strips : Prop :=
  ∀ (s : State) (d a : GReg) (n : BitVec 3) (f : Farm), s.myFarm? = some f →
    let x := f.dispenser n.toNat
    let farms (y : Dispenser) : List Farm := upd s.farms (fun g => g.uid == f.uid) (fun g => { g with disp := vset g.disp n.toNat y })
    (x.next.toNat < x.limit.toNat →
      Gives (exec (.stripTake d n) s) { s with farms := farms { x with next := x.next + 1 } } d x.next) ∧
    (x.limit.toNat ≤ x.next.toNat → Gives (exec (.stripTake d n) s) s d (BitVec.ofInt 64 (-1))) ∧
    Gives (exec (.stripDeclare d a n) s) { s with farms := farms { next := 0, limit := s.g a } } d
      (BitVec.ofNat 64 (x.limit.toNat - x.next.toNat))

/-! ## Watching copies (chapter 12) -/

/-- R296, R299 to R302, R305 to R308: `cpavail` gives OPS and DONE of a stream; `cpwait` gives the operations not done once they are at
most its operand; `cpsel` sets SEL; the byte-barrier instructions check their word's place in the segment, clear it, post an expectation
on it, bind a stream to it, or give it once it is done. `bx.exp` stores, so it waits while an earlier vector access is uncommitted, and
`bx.wait` while one may touch the word. That any earlier entry that may access memory holds a store, that one is found by what it may
reach, and how an instruction waits, Hart.wait and its turn again, are the model's choice (logs 1, 7, 10). -/
def Obligations.CopyWatching : Prop :=
  ∀ (s : State) (d a b : GReg) (n : BitVec 4) (k : Bool), Memory.wf s.seg = true →
    let st := vget s.hart.streams n.toNat Stream.empty
    let left := (st.ops - st.done).toNat
    let p := s.g a
    let here := nearVa ≤ p.toNat ∧ nearOff p + 8 ≤ s.segBytes ∧ p.toNat % 8 = 0
    let bind (o : Option Nat) (h : Hart) : Hart := { h with streams := vset h.streams n.toNat { st with bar := o } }
    let old := BitVec.ofNat 64 (readLE s.seg (nearOff p) 8)
    let count := BitVec.ofInt 48 ((old.extractLsb' 0 48).toInt + ((s.g b).toNat % 2 ^ 40 : Nat))
    (s.hart.vq = [] → Gives (exec (.cpavail d n) s) s d (BitVec.ofNat 64 (st.ops.toNat * 2 ^ 32 + st.done.toNat))) ∧
    (s.hart.vq = [] → left ≤ p.toNat → Gives (exec (.cpwait d a n) s) s d (BitVec.ofNat 64 left)) ∧
    (s.hart.vq = [] → p.toNat < left → exec (.cpwait d a n) s = .next (s.withHart { s.hart with wait := .copy })) ∧
    (∃ t, exec (.cpsel n) s = .next t ∧ OnlyHart s t { s.hart.wentOn with sc := { s.hart.wentOn.sc with cpSel := n } }) ∧
    (s.hart.vq = [] → a = 0 → k = false →
      ∃ t, exec (.bxInit a k n) s = .next t ∧ OnlyHart s t (bind none s.hart).wentOn) ∧
    (s.hart.vq = [] → k = false → here → a ≠ 0 → ∃ t, exec (.bxInit a k n) s = .next t ∧
      OnlyHart s t (bind (some (nearOff p)) s.hart).wentOn) ∧
    (s.hart.vq = [] → k = true → here → ∃ t f, exec (.bxInit a k n) s = .next t ∧
      t = (s.updSeg f).withHart (bind (some (nearOff p)) s.hart).wentOn ∧ readLE t.seg (nearOff p) 8 = 0 ∧
      ∀ c, c < nearOff p ∨ nearOff p + 8 ≤ c → memRead t.seg c = memRead s.seg c) ∧
    (here → s.hart.queueTouches = false → ∃ w : Word, StoresNear (exec (.bxExp b a) s) s p 8 w.toNat ∧
      w.extractLsb' 0 48 = count ∧ w.getLsbD 48 = true ∧ w.getLsbD 49 = (old.getLsbD 49 || decide (count.toInt ≤ 0)) ∧
      w.getLsbD 50 = (old.getLsbD 50 || decide (count.toInt < 0)) ∧ w.extractLsb' 51 13 = old.extractLsb' 51 13) ∧
    (here → s.hart.queueTouches = true → exec (.bxExp b a) s = .next (s.withHart { s.hart with wait := .queue })) ∧
    (here → s.hart.queueMeets p 8 = false → readLE s.seg (nearOff p) 8 / 2 ^ 49 % 2 = 1 →
      Gives (exec (.bxWait d a) s) s d (BitVec.ofNat 64 (readLE s.seg (nearOff p) 8))) ∧
    (here → s.hart.queueMeets p 8 = false → readLE s.seg (nearOff p) 8 / 2 ^ 49 % 2 = 0 →
      exec (.bxWait d a) s = .next (s.withHart { s.hart with wait := .copy })) ∧
    (here → s.hart.queueMeets p 8 = true → exec (.bxWait d a) s = .next (s.withHart { s.hart with wait := .queue })) ∧
    (p.toNat % 8 ≠ 0 → exec (.bxExp b a) s = trapAt s 0x06 p ∧ exec (.bxWait d a) s = trapAt s 0x06 p) ∧
    (p.toNat % 8 = 0 → (p.toNat < nearVa ∨ s.segBytes < nearOff p + 8) →
      exec (.bxExp b a) s = trapAt s 0x08 p ∧ exec (.bxWait d a) s = trapAt s 0x08 p)

/-! ## Vector instructions: issue and traps (chapters 4, 6, 15) -/

/-- R144, R302, R371, Table 15.5: an instruction of the vector kinds issues by pushing an entry that holds its word, its address, its
number, the hart's class and what the general registers that it reads hold, a copy DIM0 to DIM2, `vld.av` and `vld.am` CPSTAT.SEL, and
goes on; so no later write of a register reaches the entry. With 64 entries held it waits; with VOFF set outside handler mode it raises
Lazy-vector instead. How an instruction waits, Hart.wait and its turn again, is the model's choice (log 1). -/
def Obligations.VectorIssue : Prop :=
  ∀ (s : State) (i : Instr), i.queued = true →
    let off := s.hart.tr.voff = true ∧ s.hart.tr.hm = false
    (off → exec i s = trapAt s 0x0E (BitVec.ofNat 64 (encodeWord i))) ∧
    (¬off → 64 ≤ s.hart.vq.length → exec i s = .next (s.withHart { s.hart with wait := .queue })) ∧
    (¬off → s.hart.vq.length < 64 → ∃ (t : State) (e : VqEntry), exec i s = .next t ∧
      OnlyHart s t { s.hart.wentOn with vq := s.hart.vq ++ [e] } ∧ e.word = BitVec.ofNat 32 (encodeWord i) ∧
      e.addr = s.hart.sc.pc.setWidth 56 ∧ e.seq = s.hart.sc.iseq ∧ e.cls = s.hart.sc.prio ∧
      e.opa = (((gRead i)[0]?).map s.g).getD 0 ∧ e.opb = (((gRead i)[1]?).map s.g).getD 0 ∧
      let copies := (∃ d a v n p, i = .cpg d a v n p) ∨ (∃ d a n, i = .cpt d a n) ∨ ∃ d a n, i = .cpl d a n
      let acquires := (∃ d b x f, i = .vldAv d b x f) ∨ ∃ d b x f, i = .vldAm d b x f
      (copies → e.dim0 = s.hart.sc.dim0 ∧ e.dim1 = s.hart.sc.dim1 ∧ e.dim2 = s.hart.sc.dim2) ∧
      (acquires → e.dim0.toNat = s.hart.sc.cpSel.toNat) ∧ (¬copies → ¬acquires → e.dim0 = 0) ∧ (¬copies → e.dim1 = 0 ∧ e.dim2 = 0))

/-- R84, R191, R193, R196, R199 to R206, R357, R359, R432: at the head of the queue a word that is no vector instruction raises Illegal;
with VL = 0 every instruction but `setvl`, `vfree`, `cpt` and `cpl` raises No-grant, before its other checks, and a trap of `cpg` leaves
VSTART 0; a tag outside the instruction's set, unequal tags, or a merge into a register of another format raise Format and write
nothing: TRAPVAL holds the word and the tags of vd, vs1 and vs2, 0 for one that the form does not name; of a vector memory instruction
the data format and the index register's tag. The trap is the entry's, and the hart's PC is the address to go on at. That VSTART stays as
it was at No-grant of a vector load is the model's choice (log 55). -/
def Obligations.NoGrantAndFormatTraps : Prop :=
  (∀ (s : State) (e : VqEntry) (q : List VqEntry), Runs s s.hart.id.ref → s.hart.vq = e :: q → holdsTrap s = false →
     let run := exec (.vqEntryCommit s.hart.id.ref) s
     let traps (code : BitVec 8) : Prop := run = .next (takeTrap s
       { code := code, vq := true, pc := e.addr.setWidth 64, npc := s.hart.sc.pc, val := e.word.setWidth 64, seq := e.seq,
         counted := s.hart.waitsInside })
     (e.instr = none → traps 0x01) ∧
     (∀ i, e.instr = some i → i.queued = true → s.hart.ln.len = 0 → s.hart.ln.released = false → i ≠ .vfree → (∀ d a k, i ≠ .setvl d a k) →
       (∀ d a n, i ≠ .cpt d a n ∧ i ≠ .cpl d a n) → (∀ d a v n p, i ≠ .cpg d a v n p) → traps 0x04) ∧
     ∀ d a v n p, e.instr = some (.cpg d a v n p) → s.hart.ln.len = 0 → s.hart.ln.released = false →
       run = .next (takeTrap (s.withHart { s.hart with
           ln := { s.hart.ln with vstart := if s.hart.tr.hm then s.hart.ln.vstart else 0 } })
         { code := 0x04, vq := true, pc := e.addr.setWidth 64, npc := s.hart.sc.pc, val := e.word.setWidth 64, seq := e.seq,
           counted := s.hart.waitsInside })) ∧
  ∀ (s : State) (d a b : VReg) (g x : GReg) (pd p : PReg) (z nt : Bool) (k : BitVec 8) (f : Fmt) (c r : BitVec 2) (o : Scope) (e : VqEntry)
    (q : List VqEntry) (i : Instr), Runs s s.hart.id.ref → s.hart.vq = e :: q → e.instr = some i → holdsTrap s = false → 0 < s.hart.ln.len →
    s.hart.ln.released = false →
    let td := s.hart.tag d
    let ta := s.hart.tag a
    let tb := s.hart.tag b
    let traps (x y z : Fmt) : Prop := exec (.vqEntryCommit s.hart.id.ref) s = .next (takeTrap s
      { code := 0x03, vq := true, pc := e.addr.setWidth 64, npc := s.hart.sc.pc, seq := e.seq
        counted := s.hart.waitsInside
        val := BitVec.ofNat 64 (e.word.toNat + x.code.toNat * 2 ^ 32 + y.code.toNat * 2 ^ 36 + z.code.toNat * 2 ^ 40) })
    let clash := ¬s.hart.mergesInto d ta z
    let kept := ¬s.hart.mergesInto d ta false
    let ws := width ta
    let wt := width f
    let part := c.toNat
    let wrongPart := (ws = wt ∧ part ≠ 0) ∨ (wt < ws ∧ ws / wt ≤ part) ∨ (ws < wt ∧ wt / ws ≤ part)
    let keptBy (narrows : Prop) := (z = false ∨ narrows) ∧ td ≠ f ∧ td ≠ .none
    let word32 := [Fmt.i32, .n32, .i64, .n64]
    (i ∈ [Instr.vadd d a b p z, .vsub d a b p z, .vmul d a b p z, .vdiv d a b p z, .vmin d a b p z, .vmax d a b p z, .vzip d a b p z,
      .vunzip d a b p z] → (ta = .none ∨ tb ≠ ta ∨ clash) → traps td ta tb) ∧
    (i ∈ [Instr.vand d a b p z, .vor d a b p z, .vxor d a b p z, .vsll d a b p z, .vsrl d a b p z, .vsra d a b p z,
      .vmulh d a b p z, .vsadd d a b p z, .vssub d a b p z] →
      (isInt ta = false ∨ tb ≠ ta ∨ clash) → traps td ta tb) ∧
    (i ∈ [Instr.vfma d a b p z, .vfms d a b p z, .vnfma d a b p z] → (ta = .none ∨ tb ≠ ta ∨ td ≠ ta) → traps td ta tb) ∧
    (i ∈ [Instr.vfmaVx d a g p z, .vfmsVx d a g p z, .vnfmaVx d a g p z] → (ta = .none ∨ td ≠ ta) → traps td ta .none) ∧
    (i ∈ [Instr.vaddVx d a g p z, .vsubVx d a g p z, .vmulVx d a g p z, .vdivVx d a g p z, .vminVx d a g p z, .vmaxVx d a g p z,
      .vmov d a p z, .vslideup d a g p z, .vslidedn d a g p z, .vexpand d a p z, .vrev d a p z] →
      (ta = .none ∨ clash) → traps td ta .none) ∧
    (i ∈ [Instr.vandVx d a g p z, .vorVx d a g p z, .vxorVx d a g p z, .vsllVx d a g p z, .vsrlVx d a g p z, .vsraVx d a g p z,
      .vmulhVx d a g p z, .vsaddVx d a g p z, .vssubVx d a g p z, .vaddi d a k p z, .vslli d a k p z, .vsrli d a k p z, .vsrai d a k p z,
      .vandi d a k p z, .vori d a k p z, .vxori d a k p z, .vclz d a p z, .vpopc d a p z] →
      (isInt ta = false ∨ clash) → traps td ta .none) ∧
    (i ∈ [Instr.vabs d a p z, .vneg d a p z] → ((isSigned ta = false ∧ isFloat ta = false) ∨ clash) → traps td ta .none) ∧
    (i = .vsqrt d a p z → (isFloat ta = false ∨ clash) → traps td ta .none) ∧
    (i ∈ [Instr.vexp2 d a p z, .vlog2 d a p z, .vrcp d a p z, .vrsqrt d a p z] → (ta ∉ [Fmt.fp16, .bf16, .fp32] ∨ clash) →
      traps td ta .none) ∧
    (i = .vsel d a b p → (ta = .none ∨ tb ≠ ta ∨ kept) → traps td ta tb) ∧
    (i ∈ [Instr.vselVx d a g p, .vcompress d a p] → (ta = .none ∨ kept) → traps td ta .none) ∧
    (i = .vbcast d g p z → td = .none → traps td .none .none) ∧ (i = .viota d p z → isInt td = false → traps td .none .none) ∧
    (i = .vrgather d a b p z → (ta = .none ∨ isUnsigned tb = false ∨ width tb ≠ ws ∨ clash) → traps td ta tb) ∧
    (i ∈ [Instr.vcmpeq pd a b p z, .vcmpne pd a b p z, .vcmplt pd a b p z, .vcmple pd a b p z, .vcmpgt pd a b p z, .vcmpge pd a b p z] →
      (ta = .none ∨ tb ≠ ta) → traps .none ta tb) ∧
    (i ∈ [Instr.vcmpuo pd a b p z, .vcmpcls pd a b p z] → (isFloat ta = false ∨ tb ≠ ta) → traps .none ta tb) ∧
    (i ∈ [Instr.vcmpeqVx pd a g p z, .vcmpneVx pd a g p z, .vcmpltVx pd a g p z, .vcmpleVx pd a g p z, .vcmpgtVx pd a g p z,
      .vcmpgeVx pd a g p z] → ta = .none → traps .none ta .none) ∧
    (i ∈ [Instr.vcmpuoVx pd a g p z, .vcmpclsVx pd a g p z] → isFloat ta = false → traps .none ta .none) ∧
    (i ∈ [Instr.vredsum d a p, .vredosum d a p, .vredmin d a p, .vredmax d a p] → ta = .none → traps td ta .none) ∧
    (i ∈ [Instr.vredand d a p, .vredor d a p, .vredxor d a p] → isInt ta = false → traps td ta .none) ∧
    (i = .vredsumW d a p → (ta = .none ∨ ws = 64) → traps td ta .none) ∧
    (i = .vcvt d a f p z c nt r → (ta = .none ∨ wrongPart ∨ keptBy (wt < ws)) → traps td ta .none) ∧
    (i = .vcvtBits d a f p z → (ta = .none ∨ wt ≠ ws ∨ keptBy False) → traps td ta .none) ∧
    (i = .vlds d g x p f → f = .e2m1 → traps f .none .none) ∧
    (i = .vldx d g b p f → (f = .e2m1 ∨ isInt tb = false) → traps f .none tb) ∧
    (i ∈ [Instr.vldAv d g x f, .vldAm d g x f] → f = .e2m1 → traps f .none .none) ∧
    (i = .vst a g x p nt → ta = .none → traps ta .none .none) ∧
    (i = .vsts a g x p nt → (ta = .none ∨ ta = .e2m1) → traps ta .none .none) ∧
    (i = .vstx a g b p nt → (ta = .none ∨ ta = .e2m1 ∨ isInt tb = false) → traps ta .none tb) ∧
    (i ∈ [Instr.vamoAdd d g b p o, .vamoMin d g b p o, .vamoMax d g b p o, .vamoAnd d g b p o, .vamoOr d g b p o, .vamoXor d g b p o] →
      (td ∉ word32 ∨ isInt tb = false) → traps td .none tb) ∧
    (i = .vamoSwap d g b p o → (td ∉ word32 ++ [.fp32, .fp64] ∨ isInt tb = false) → traps td .none tb) ∧
    (i ∈ [Instr.vamoFmin d g b p o, .vamoFadd d g b p o] → (td ∉ [Fmt.fp32, .fp64] ∨ isInt tb = false) → traps td .none tb)

/-! ## Vector arithmetic (chapters 7 and 8) -/

/-- R161, R190, R192, R196 to R198, R200: element arithmetic on integers, modulo 2^w; `vsadd` and `vssub` clamp, `vmulh` gives the high
half; division truncates, and by zero gives all ones. Inactive elements are zero or keep what vd held; no flag is raised. -/
def Obligations.VectorIntegers : Prop :=
  ∀ (s : State) (d a b : VReg) (g : GReg) (p : PReg) (z : Bool) (k : BitVec 8), VecReady s →
    let t := s.hart.tag a
    let w := width t
    let val (r : VReg) (j : Nat) : Int := elemInt t ((s.hart.reg r).elem w j)
    let x := val a
    let c (_ : Nat) : Int := elemInt t ((s.g g).toNat % 2 ^ w)
    let lo : Int := if isSigned t then -2 ^ (w - 1) else 0
    let hi : Int := if isSigned t then 2 ^ (w - 1) - 1 else 2 ^ w - 1
    let is (i : Instr) (r : Nat → Int) : Prop := WritesReg s i d t (s.hart.merged d t p z (fun j => wrap w (r j))) 0 false
    let two (y : Nat → Int) (add sub mul div min_ max_ mulh sadd ssub : Instr) : Prop :=
      is add (fun j => x j + y j) ∧ is sub (fun j => x j - y j) ∧ is mul (fun j => x j * y j) ∧
      is div (fun j => if y j = 0 then -1 else (x j).tdiv (y j)) ∧ is min_ (fun j => min (x j) (y j)) ∧
      is max_ (fun j => max (x j) (y j)) ∧ is mulh (fun j => (x j * y j).fdiv (2 ^ w)) ∧
      is sadd (fun j => max lo (min hi (x j + y j))) ∧ is ssub (fun j => max lo (min hi (x j - y j)))
    let fused (y : Nat → Int) (fma fms nfma : Instr) : Prop :=
      is fma (fun j => x j * y j + val d j) ∧ is fms (fun j => x j * y j - val d j) ∧ is nfma (fun j => val d j - x j * y j)
    isInt t = true → s.hart.mergesInto d t z →
    (s.hart.tag b = t → two (val b) (.vadd d a b p z) (.vsub d a b p z) (.vmul d a b p z) (.vdiv d a b p z) (.vmin d a b p z)
      (.vmax d a b p z) (.vmulh d a b p z) (.vsadd d a b p z) (.vssub d a b p z)) ∧
    two c (.vaddVx d a g p z) (.vsubVx d a g p z) (.vmulVx d a g p z) (.vdivVx d a g p z) (.vminVx d a g p z) (.vmaxVx d a g p z)
      (.vmulhVx d a g p z) (.vsaddVx d a g p z) (.vssubVx d a g p z) ∧
    (s.hart.tag d = t → s.hart.tag b = t → fused (val b) (.vfma d a b p z) (.vfms d a b p z) (.vnfma d a b p z)) ∧
    (s.hart.tag d = t → fused c (.vfmaVx d a g p z) (.vfmsVx d a g p z) (.vnfmaVx d a g p z)) ∧
    is (.vaddi d a k p z) (fun j => x j + k.toInt) ∧
    (isSigned t = true → is (.vabs d a p z) (fun j => |x j|) ∧ is (.vneg d a p z) (fun j => -x j))

/-- R192, R197, R199, R200: the bitwise operations, the shifts (the amount unsigned, the whole register in the VX forms; `vsra`
copies the top bit whatever the tag), the bit counts, and the moves, selections and broadcasts of any format. -/
def Obligations.VectorBits : Prop :=
  ∀ (s : State) (d a b : VReg) (g : GReg) (p : PReg) (z : Bool) (k : BitVec 8), VecReady s →
    let t := s.hart.tag a
    let w := width t
    let pat (r : VReg) (j : Nat) : Nat := (s.hart.reg r).elem w j
    let x := pat a
    let low (_ : Nat) : Nat := (s.g g).toNat % 2 ^ w
    let imm (_ : Nat) : Nat := wrap w k.toInt
    let is (i : Instr) (r : Nat → Nat) : Prop := WritesReg s i d t (s.hart.merged d t p z r) 0 false
    let logic (y : Nat → Nat) (and_ or_ xor_ : Instr) : Prop :=
      is and_ (fun j => x j &&& y j) ∧ is or_ (fun j => x j ||| y j) ∧ is xor_ (fun j => x j ^^^ y j)
    let shift (y : Nat → Nat) (sll srl sra : Instr) : Prop :=
      is sll (fun j => x j * 2 ^ y j % 2 ^ w) ∧ is srl (fun j => x j / 2 ^ y j) ∧
      is sra (fun j => wrap w ((BitVec.ofNat w (x j)).toInt.fdiv (2 ^ y j)))
    (isInt t = true → s.hart.mergesInto d t z →
      (s.hart.tag b = t → logic (pat b) (.vand d a b p z) (.vor d a b p z) (.vxor d a b p z) ∧
        shift (pat b) (.vsll d a b p z) (.vsrl d a b p z) (.vsra d a b p z)) ∧
      logic low (.vandVx d a g p z) (.vorVx d a g p z) (.vxorVx d a g p z) ∧
      logic imm (.vandi d a k p z) (.vori d a k p z) (.vxori d a k p z) ∧
      shift (fun _ => (s.g g).toNat) (.vsllVx d a g p z) (.vsrlVx d a g p z) (.vsraVx d a g p z) ∧
      shift (fun _ => k.toNat) (.vslli d a k p z) (.vsrli d a k p z) (.vsrai d a k p z) ∧
      is (.vclz d a p z) (fun j => w - (x j).size) ∧
      is (.vpopc d a p z) (fun j => ((List.range w).filter (fun n => (x j).testBit n)).length)) ∧
    (t ≠ .none → s.hart.mergesInto d t z → is (.vmov d a p z) x) ∧
    (t ≠ .none → s.hart.mergesInto d t false →
      let sel (y : Nat → Nat) (j : Nat) : Nat :=
        if j < s.hart.cnt w then (if s.hart.pbit p j then x j else y j) else pat d j
      (s.hart.tag b = t → WritesReg s (.vsel d a b p) d t (sel (pat b)) 0 false) ∧
      WritesReg s (.vselVx d a g p) d t (sel low) 0 false) ∧
    (s.hart.tag d ≠ .none → WritesReg s (.vbcast d g p z) d (s.hart.tag d)
      (s.hart.merged d (s.hart.tag d) p z (fun _ => (s.g g).toNat % 2 ^ width (s.hart.tag d))) 0 false)

/-- R165, R168 to R172, R174, R176, R190, R192, R196, R198: element arithmetic in a floating-point format. Each active element is the
exact result rounded once in FRM's mode, SR with the draw of SRSEED, SRCTR and the element's number, or its special case; FFLAGS takes
the OR of the active elements' flags; SRCTR counts an instruction that rounds stochastically and has an active element. FpArithmetic
pins the rounding itself. -/
def Obligations.VectorFloats : Prop :=
  ∀ (s : State) (d a b : VReg) (g : GReg) (p : PReg) (z : Bool), VecReady s →
    let t := s.hart.tag a
    let w := width t
    let pat (r : VReg) (j : Nat) : Nat := (s.hart.reg r).elem w j
    let x (j : Nat) : FpVal := unpack t (pat a j)
    let old (j : Nat) : FpVal := unpack t (pat d j)
    let low (_ : Nat) : Nat := (s.g g).toNat % 2 ^ w
    let rd := s.hart.rounds (Rnd.ofFrm s.hart.sc.frm)
    let draws := s.hart.mode == .sr && !(s.hart.actives p w).isEmpty
    let is (i : Instr) (n : Bool) (P : Nat → FpRes → Prop) : Prop := ∃ r : Nat → FpRes, (∀ j ∈ s.hart.actives p w, P j (r j)) ∧
      WritesReg s i d t (s.hart.merged d t p z (fun j => (r j).1)) (s.hart.flagsOf p w (fun j => (r j).2)) (n && draws)
    let two (y : Nat → Nat) (add sub mul div min_ max_ : Instr) : Prop :=
      is add true (fun j => IsSum t (rd j) false (x j) (unpack t (y j))) ∧
      is sub true (fun j => IsSum t (rd j) true (x j) (unpack t (y j))) ∧
      is mul true (fun j => IsProduct t (rd j) (x j) (unpack t (y j))) ∧
      is div true (fun j => IsQuotient t (rd j) (x j) (unpack t (y j))) ∧
      is min_ false (fun j => IsPick t false (pat a j) (y j)) ∧ is max_ false (fun j => IsPick t true (pat a j) (y j))
    let fused (y : Nat → Nat) (fma fms nfma : Instr) : Prop :=
      is fma true (fun j => IsFused t (rd j) false false (x j) (unpack t (y j)) (old j)) ∧
      is fms true (fun j => IsFused t (rd j) false true (x j) (unpack t (y j)) (old j)) ∧
      is nfma true (fun j => IsFused t (rd j) true false (x j) (unpack t (y j)) (old j))
    isFloat t = true → s.hart.mergesInto d t z →
    (s.hart.tag b = t → two (pat b) (.vadd d a b p z) (.vsub d a b p z) (.vmul d a b p z) (.vdiv d a b p z) (.vmin d a b p z)
      (.vmax d a b p z)) ∧
    two low (.vaddVx d a g p z) (.vsubVx d a g p z) (.vmulVx d a g p z) (.vdivVx d a g p z) (.vminVx d a g p z) (.vmaxVx d a g p z) ∧
    (s.hart.tag d = t → s.hart.tag b = t → fused (pat b) (.vfma d a b p z) (.vfms d a b p z) (.vnfma d a b p z)) ∧
    (s.hart.tag d = t → fused low (.vfmaVx d a g p z) (.vfmsVx d a g p z) (.vnfmaVx d a g p z)) ∧
    is (.vsqrt d a p z) true (fun j => IsRoot t (rd j) (x j)) ∧
    is (.vabs d a p z) false (fun j r => r = (pat a j % 2 ^ (w - 1), 0)) ∧
    is (.vneg d a p z) false (fun j r => r = (if pat a j < 2 ^ (w - 1) then pat a j + 2 ^ (w - 1) else pat a j - 2 ^ (w - 1), 0))

/-- R181, R182, Table 7.10: `vrcp` and `vrsqrt` give 1/x and 1/√x rounded once to nearest even whatever FRM holds, `vexp2` and `vlog2`
their exact results where these are exact; the special operands; no draw is counted. Any tag but FP16, BF16 and FP32 is left to the Format
trap. Other values rest on no clause here (log 21). -/
def Obligations.VectorFunctions : Prop :=
  ∀ (s : State) (d a : VReg) (p : PReg) (z : Bool), VecReady s →
    let t := s.hart.tag a
    let w := width t
    let x (j : Nat) : FpVal := unpack t ((s.hart.reg a).elem w j)
    let rne : Rounding := { mode := .rne }
    let once (v : ℝ) (r : FpRes) : Prop := RoundedOnce t rne v r
    let is (i : Instr) (P : FpVal → FpRes → Prop) : Prop := ∃ r : Nat → FpRes, (∀ j ∈ s.hart.actives p w, P (x j) (r j)) ∧
      WritesReg s i d t (s.hart.merged d t p z (fun j => (r j).1)) (s.hart.flagsOf p w (fun j => (r j).2)) false
    (t = .fp16 ∨ t = .bf16 ∨ t = .fp32) → s.hart.mergesInto d t z →
    is (.vrcp d a p z) (fun v r =>
      (v.finite → v.value ≠ 0 → once (1 / v.value) r) ∧ (v.isZero → r = (infOf t (negative v), 8)) ∧
      (∀ n, v = .inf n → r = (zeroOf t n, 0)) ∧ ∀ n, v = .nan n → r = nanOf t n) ∧
    is (.vrsqrt d a p z) (fun v r =>
      (v.finite → 0 < v.value → once (1 / Real.sqrt v.value) r) ∧ (v.isZero → r = (infOf t (negative v), 8)) ∧
      (v.finite → v.value < 0 → r = nanOf t true) ∧ (v = .inf true → r = nanOf t true) ∧ (v = .inf false → r = (0, 0)) ∧
      ∀ n, v = .nan n → r = nanOf t n) ∧
    is (.vexp2 d a p z) (fun v r =>
      (∀ k : Int, |k| < 4096 → v.finite → v.value = k → once ((2 : ℝ) ^ k) r) ∧ (v = .inf true → r = (0, 0)) ∧
      (v = .inf false → r = (infOf t false, 0)) ∧ ∀ n, v = .nan n → r = nanOf t n) ∧
    is (.vlog2 d a p z) (fun v r =>
      (∀ k : Int, v.finite → v.value = (2 : ℝ) ^ k → once k r) ∧ (v.finite → v.value = 1 → r = (0, 0)) ∧
      (v.isZero → r = (infOf t true, 8)) ∧
      (v.finite → v.value < 0 → r = nanOf t true) ∧ (v = .inf true → r = nanOf t true) ∧
      (v = .inf false → r = (infOf t false, 0)) ∧ ∀ n, v = .nan n → r = nanOf t n)

/-! ## Vector compares, reductions, permutes and conversions (chapters 7 and 8) -/

/-- R190, R192, R201, R202: a compare writes a predicate: the relation on active elements, zero or the old bit on inactive ones,
zero from VL.LEN / w up. Integer relations raise nothing; floating-point ones order real values and infinities, hold for no NaN but
`vcmpne` and `vcmpuo`, and raise NV for any NaN (orderings) or a signalling one; `vcmpcls` compares or tests classes. -/
def Obligations.VectorCompares : Prop :=
  ∀ (s : State) (d : PReg) (a b : VReg) (g : GReg) (p : PReg) (z : Bool), VecReady s → d ≠ 0 →
    let t := s.hart.tag a
    let w := width t
    let u (j : Nat) : Nat := (s.hart.reg a).elem w j
    let vb (j : Nat) : Nat := (s.hart.reg b).elem w j
    let vg (_ : Nat) : Nat := (s.g g).toNat % 2 ^ w
    let x (j : Nat) : FpVal := unpack t (u j)
    let is (i : Instr) (rel nv : Nat → Prop) : Prop := ∃ (r : Nat → Bool) (f : Nat → BitVec 5),
      (∀ j ∈ s.hart.actives p w, (r j = true ↔ rel j) ∧ (nv j → f j = 16) ∧ (¬nv j → f j = 0)) ∧
      WritesPred s i d (fun k => if s.hart.elems w ≤ k then false else if s.hart.active p w k then r k else !z && s.hart.pbit d k)
        (s.hart.flagsOf p w f)
    let ints (v : Nat → Nat) (eq ne lt le gt ge : Instr) : Prop :=
      let m (j : Nat) : Int := elemInt t (u j)
      let n (j : Nat) : Int := elemInt t (v j)
      let no (_ : Nat) : Prop := False
      is eq (fun j => m j = n j) no ∧ is ne (fun j => m j ≠ n j) no ∧ is lt (fun j => m j < n j) no ∧
      is le (fun j => m j ≤ n j) no ∧ is gt (fun j => n j < m j) no ∧ is ge (fun j => n j ≤ m j) no
    let floats (v : Nat → Nat) (eq ne lt le gt ge uo : Instr) : Prop :=
      let y (j : Nat) : FpVal := unpack t (v j)
      let nan (j : Nat) : Prop := (x j).isNaN ∨ (y j).isNaN
      let sig (j : Nat) : Prop := x j = .nan true ∨ y j = .nan true
      is eq (fun j => ¬nan j ∧ (x j).place = (y j).place) sig ∧ is ne (fun j => nan j ∨ (x j).place ≠ (y j).place) sig ∧
      is lt (fun j => ¬nan j ∧ (x j).place < (y j).place) nan ∧ is le (fun j => ¬nan j ∧ (x j).place ≤ (y j).place) nan ∧
      is gt (fun j => ¬nan j ∧ (y j).place < (x j).place) nan ∧ is ge (fun j => ¬nan j ∧ (y j).place ≤ (x j).place) nan ∧
      is uo nan sig
    (isInt t = true →
      (s.hart.tag b = t → ints vb (.vcmpeq d a b p z) (.vcmpne d a b p z) (.vcmplt d a b p z) (.vcmple d a b p z)
        (.vcmpgt d a b p z) (.vcmpge d a b p z)) ∧
      ints vg (.vcmpeqVx d a g p z) (.vcmpneVx d a g p z) (.vcmpltVx d a g p z) (.vcmpleVx d a g p z) (.vcmpgtVx d a g p z)
        (.vcmpgeVx d a g p z)) ∧
    (isFloat t = true →
      (s.hart.tag b = t → floats vb (.vcmpeq d a b p z) (.vcmpne d a b p z) (.vcmplt d a b p z) (.vcmple d a b p z)
        (.vcmpgt d a b p z) (.vcmpge d a b p z) (.vcmpuo d a b p z) ∧
        is (.vcmpcls d a b p z) (fun j => classBit t (u j) = classBit t (vb j)) (fun _ => False)) ∧
      floats vg (.vcmpeqVx d a g p z) (.vcmpneVx d a g p z) (.vcmpltVx d a g p z) (.vcmpleVx d a g p z) (.vcmpgtVx d a g p z)
        (.vcmpgeVx d a g p z) (.vcmpuoVx d a g p z) ∧
      is (.vcmpclsVx d a g p z) (fun j => (s.g g).toNat.testBit (classBit t (u j)) = true) (fun _ => False))

/-- R183 to R187, R203, Table 7.11: a reduction writes its result to element 0 and zeros above it, whatever vd held. Integer sums wrap;
floating-point sums, minima and maxima run over the tree of R183, inactive elements being the identities; `vredosum` adds in element
order; `vredsum.w` converts each active element exactly to the wider format first. SRCTR does not advance. -/
def Obligations.VectorReductions : Prop :=
  ∀ (s : State) (d a : VReg) (p : PReg) (k : Nat), VecReady s → 9 ≤ k → k ≤ 16 → s.hart.ln.len = 2 ^ k →
    let t := s.hart.tag a
    let w := width t
    let n := s.hart.elems w
    let act := s.hart.actives p w
    let pat (j : Nat) : Nat := (s.hart.reg a).elem w j
    let rd := scalarRounding s
    let ints := act.map (fun j => elemInt t (pat j))
    let lo : Int := if isSigned t then -2 ^ (w - 1) else 0
    let hi : Int := if isSigned t then 2 ^ (w - 1) - 1 else 2 ^ w - 1
    let is (i : Instr) (u : Fmt) (x : Nat) (f : BitVec 5) : Prop := WritesReg s i d u (fun j => if j = 0 then x else 0) f false
    let add (u : Fmt) (x y : Nat) (r : FpRes) : Prop := IsSum u rd false (unpack u x) (unpack u y) r
    let tree (i : Instr) (ident : Nat) (op : Nat → Nat → FpRes → Prop) : Prop := ∃ v : Nat → Nat → FpRes,
      (∀ j, v 0 j = (if s.hart.active p w j then pat j else ident, 0)) ∧ IsTree n op v ∧ is i t (v n.log2 0).1 (treeFlags n v)
    (isInt t = true →
      is (.vredsum d a p) t (wrap w ints.sum) 0 ∧ is (.vredosum d a p) t (wrap w ints.sum) 0 ∧
      is (.vredmin d a p) t (wrap w (ints.foldl min hi)) 0 ∧ is (.vredmax d a p) t (wrap w (ints.foldl max lo)) 0 ∧
      is (.vredand d a p) t ((act.map pat).foldl (fun x y => x &&& y) (2 ^ w - 1)) 0 ∧
      is (.vredor d a p) t ((act.map pat).foldl (fun x y => x ||| y) 0) 0 ∧
      is (.vredxor d a p) t ((act.map pat).foldl (fun x y => x ^^^ y) 0) 0 ∧
      (w < 64 → is (.vredsumW d a p) (if isSigned t then .i64 else .n64) (wrap 64 ints.sum) 0)) ∧
    (isFloat t = true →
      tree (.vredsum d a p) (zeroOf t true) (add t) ∧ tree (.vredmin d a p) (infOf t false) (IsPick t false) ∧
      tree (.vredmax d a p) (infOf t true) (IsPick t true) ∧
      (∃ acc : Nat → FpRes, acc 0 = (zeroOf t true, 0) ∧
        (∀ (m : Nat) (h : m < act.length), add t (acc m).1 (pat act[m]) (acc (m + 1))) ∧
        is (.vredosum d a p) t (acc act.length).1 (orAll ((List.range act.length).map (fun m => (acc (m + 1)).2)))) ∧
      (w < 64 →
        let u := if t = .fp32 then Fmt.fp64 else .fp32
        ∃ v : Nat → Nat → FpRes,
          (∀ j, s.hart.active p w j = false → v 0 j = (zeroOf u true, 0)) ∧
          (∀ j ∈ act, let x := unpack t (pat j)
            let y := unpack u (v 0 j).1
            (x.finite → y.finite ∧ y.value = x.value ∧ negative y = negative x ∧ (v 0 j).2 = 0) ∧
            (∀ b, x = .inf b → v 0 j = (infOf u b, 0)) ∧ ∀ b, x = .nan b → v 0 j = nanOf u b) ∧
          IsTree n (add u) v ∧
          is (.vredsumW d a p) u (v n.log2 0).1 (orAll (act.map (fun j => (v 0 j).2)) ||| treeFlags n v)))

/-- R189, R190, R204, R205: the permutes move elements of vs1's body; a position outside it supplies 0. `vcompress` packs the elements
that the predicate selects and zeros the rest of the body; `viota` counts the active elements below each. -/
def Obligations.VectorPermutes : Prop :=
  ∀ (s : State) (d a b : VReg) (g : GReg) (p : PReg) (z : Bool), VecReady s →
    let t := s.hart.tag a
    let w := width t
    let n := s.hart.cnt w
    let body (r : VReg) (j : Nat) : Nat := if j < n then (s.hart.reg r).elem w j else 0
    let amount := (s.g g).toNat
    let below (u : Nat) (j : Nat) : Nat := ((List.range j).filter (fun i => s.hart.active p u i)).length
    let is (i : Instr) (r : Nat → Nat) : Prop := WritesReg s i d t (s.hart.merged d t p z r) 0 false
    let picked := (List.range n).filter (fun i => s.hart.pbit p i)
    (t ≠ .none → s.hart.mergesInto d t z →
      is (.vslideup d a g p z) (fun j => if amount ≤ j then body a (j - amount) else 0) ∧
      is (.vslidedn d a g p z) (fun j => body a (j + amount)) ∧
      (isUnsigned (s.hart.tag b) = true → width (s.hart.tag b) = w →
        is (.vrgather d a b p z) (fun j => body a ((s.hart.reg b).elem w j))) ∧
      is (.vexpand d a p z) (fun j => body a (below w j)) ∧
      (s.hart.tag b = t →
        is (.vzip d a b p z) (fun j => if j % 2 = 0 then body a (j / 2) else body b (j / 2)) ∧
        is (.vunzip d a b p z) (fun j => if j < (n + 1) / 2 then body a (2 * j) else body b (2 * (j - (n + 1) / 2)))) ∧
      is (.vrev d a p z) (fun j => body a (n - 1 - j))) ∧
    (t ≠ .none → s.hart.mergesInto d t false → WritesReg s (.vcompress d a p) d t
      (fun j => if j < n then (picked[j]?.map (body a)).getD 0 else (s.hart.reg d).elem w j) 0 false) ∧
    (isInt (s.hart.tag d) = true → WritesReg s (.viota d p z) d (s.hart.tag d)
      (s.hart.merged d (s.hart.tag d) p z (below (width (s.hart.tag d)))) 0 false)

/-- R149, R166, R170 to R172, R174, R177 to R180, R189, R190, R194, R206, R207: a conversion reads and writes the part that PART names:
narrowing fills one part of vd and leaves the others, widening reads one part of vs1. Each active element is converted once in the mode
of RM (3: FRM's); `vcvt.bits` copies the bits. FFLAGS takes the OR; an SR conversion with an active element advances SRCTR (R194); that
body and predicate alone say whether it has one, also where none lies in the part it writes, is a reading (log 24). FpArithmetic pins the
rounding itself, and a conversion to an integer is pinned here in every mode (log 51). -/
def Obligations.VectorConversions : Prop :=
  ∀ (s : State) (d a : VReg) (t : Fmt) (p : PReg) (z : Bool) (k : BitVec 2) (sat : Bool) (r : BitVec 2), VecReady s →
    let src := s.hart.tag a
    let ws := width src
    let wt := width t
    let part := k.toNat
    let m := s.hart.ln.len / max ws wt
    let mode := if r = 0 then Rnd.rne else if r = 1 then .rtz else if r = 2 then .sr else s.hart.mode
    let reached (j : Nat) : Bool := if wt < ws then decide (part * m ≤ j ∧ j < part * m + m) else decide (j < m)
    let from_ (j : Nat) : Nat := if wt < ws then j - part * m else if ws < wt then part * m + j else j
    let x (j : Nat) : Nat := (s.hart.reg a).elem ws (from_ j)
    let act := (List.range (s.hart.elems wt)).filter (fun j => reached j && s.hart.active p wt j)
    let put (c : Nat → FpRes) (j : Nat) : Nat :=
      if reached j then (if s.hart.active p wt j then (c j).1 else if z then 0 else (s.hart.reg d).elem wt j)
      else (s.hart.reg d).elem wt j
    src ≠ .none → t ≠ .none → s.hart.tag d = t ∨ s.hart.tag d = .none ∨ (z = true ∧ ws ≤ wt) →
    ((ws = wt → part = 0) → (wt < ws → part < ws / wt) → (ws < wt → part < wt / ws) → ∃ c : Nat → FpRes,
      (∀ j ∈ act, IsConversion src t (s.hart.rounds mode j) sat (x j) (c j)) ∧
      WritesReg s (.vcvt d a t p z k sat r) d t (put c) (orAll (act.map (fun j => (c j).2)))
        (mode == .sr && (List.range (s.hart.elems wt)).any (s.hart.active p wt))) ∧
    (ws = wt → part = 0 → WritesReg s (.vcvtBits d a t p z) d t (put (fun j => (x j, 0))) 0 false)

/-! ## Lane grants (chapter 6) -/

/-- R131, R134 to R137, R379: `setvl` on a hart that has its cluster to itself grants the largest value that it accepts and that the power
budget allows: the powers of two, or the gang sizes where k[0] = 1, from min(cap, VLMIN) to cap = min(request rounded down to a power of two
in 512 to 65,536, VLC). gd and VL take it, TRIM is cleared, F is 1, VL / 512 groups back it, a square block where k[0] = 1; VSTAT.PWR and
GCUT say that the budget cut it, CONT is 0. Registers keep what lies below both VLs and their tags, predicates likewise; at a changed VL the
tiles lose their formats. Where the budget allows none, `setvl` gives 0 where k[1] = 1 and waits otherwise; where it accepts none it is a
Matrix shape trap. Which groups back the grant, and how it waits, are the model's choice (logs 1, 13). -/
def Obligations.LaneGrants : Prop :=
  ∀ (s : State) (d a : GReg) (k : BitVec 2) (m : Nat), Runs s s.hart.id.ref → s.hart.vq = [] →
    (s.hart.tr.voff = false ∨ s.hart.tr.hm = true) → s.hart.ln.vlmax = 2 ^ m → 9 ≤ m → m ≤ 16 →
    (∀ h ∈ s.others, h.id.clusterKey ≠ s.hart.id.clusterKey ∧ groupsOf s.hart.id.clusterKey h.buffered = []) →
    let cap := min (2 ^ Nat.log2 (min (max (s.g a).toNat 512) 65536)) s.hart.ln.vlmax
    let square := k.getLsbD 0
    let accepts (v : Nat) : Prop := (∃ n, 9 ≤ n ∧ n ≤ 16 ∧ v = 2 ^ n) ∧ min cap s.hart.ln.vlmin ≤ v ∧ v ≤ cap ∧
      (square = true → (sideOf v).isSome = true)
    let affordable (v : Nat) : Prop := ∀ g, s.power.gov[s.hart.id.facet]? = some g →
      v / 512 * (if square then 94 else 60) * g.ratio ≤ vget g.allow s.hart.id.cluster 0 * 1000
    let old := s.hart.ln.len
    let leaves (v : Nat) (cut : Prop) (seq : Nat) (u : State) : Prop :=
      OnlyG s u d (BitVec.ofNat 64 v) ∧
      OnlyHart { s with nextUid := seq, power := u.power } u { s.hart.wentOn with
        sc := { s.hart.wentOn.sc with g := u.hart.sc.g }, ln := u.hart.ln, vec := u.hart.vec } ∧
      (¬cut → u.power = s.power) ∧ (cut → ∀ g, s.power.gov[s.hart.id.facet]? = some g →
        u.power = { s.power with gov := vset s.power.gov s.hart.id.facet { g with gcut := true } }) ∧
      u.hart.ln.len = v ∧ u.hart.ln.tv = false ∧ u.hart.ln.trim = 0 ∧ u.hart.ln.fold = 0 ∧ u.hart.ln.released = false ∧
      u.hart.ln.groups.length = v / 512 ∧ (u.hart.ln.pwr = true ↔ cut) ∧ u.hart.ln.cont = false ∧
      (u.hart.ln.sq = true → (sideOf v).isSome = true) ∧ (square = true → 0 < v → u.hart.ln.sq = true) ∧
      u.hart.ln.vlmax = s.hart.ln.vlmax ∧ u.hart.ln.vlmin = s.hart.ln.vlmin ∧
      u.hart.ln.vstart = (if s.hart.tr.hm then s.hart.ln.vstart else 0) ∧
      (old = v → u.hart.vec = s.hart.vec) ∧
      (old ≠ v → (∀ r, u.hart.tag r = s.hart.tag r ∧
          (u.hart.reg r).bits.toNat = (s.hart.reg r).bits.toNat % 2 ^ min old v) ∧
        (∀ p i, p ≠ 0 → u.hart.pbit p i = (s.hart.pbit p i && decide (i < min old v / 4))) ∧
        ∀ t, (u.hart.tile t).fmt = .none)
    (∀ v, accepts v → affordable v → (∀ w, accepts w → v < w → ¬affordable w) →
      ∃ u, Commits s (.setvl d a k) u ∧ leaves v (∃ w, accepts w ∧ v < w) (s.nextUid + 1) u) ∧
    ((∃ w, accepts w) → (∀ w, accepts w → ¬affordable w) →
      (k.getLsbD 1 = true → ∃ u, Commits s (.setvl d a k) u ∧ leaves 0 True s.nextUid u) ∧
      (k.getLsbD 1 = false → ∃ t u, exec (.setvl d a k) s = .next t ∧ exec (.vqEntryCommit s.hart.id.ref) t = .next u ∧
        OnlyHart t u { t.hart with ln := { t.hart.ln with req := u.hart.ln.req } } ∧ u.hart.ln.req ≠ none)) ∧
    ((∀ w, ¬accepts w) → TrapsAtHead s (.setvl d a k) 0x05 (BitVec.ofNat 64 (encodeWord (.setvl d a k) + old * 2 ^ 32)))

/-- R128, R138, R140 to R142: `vcfg` zeroes a register and sets its tag; `vmvg` gives an element, sign-extended in an I format, or 0
outside the body; `vins` replaces one element of the body; `vfree` zeroes the registers and p1 to p7, clears the tiles and gives up
the groups, keeping VL and the tags. A register without a tag is a Format trap of `vmvg` and `vins`. -/
def Obligations.GrantInstructions : Prop :=
  ∀ (s : State) (d v : VReg) (f : Fmt) (gd a i : GReg), VecReady s →
    let k := (s.g i).toNat
    let tv := s.hart.tag v
    let td := s.hart.tag d
    WritesReg s (.vcfg d f) d f (fun _ => 0) 0 false ∧
    (tv ≠ .none → CommitsG s (.vmvg gd i v) gd
      (if k < s.hart.cnt (width tv) then BitVec.ofInt 64 (elemInt tv ((s.hart.reg v).elem (width tv) k)) else 0)) ∧
    (tv = .none → TrapsAtHead s (.vmvg gd i v) 0x03 (BitVec.ofNat 64 (encodeWord (.vmvg gd i v)))) ∧
    (td ≠ .none → (s.hart.reg d).bits.toNat < 2 ^ s.hart.ln.len → WritesReg s (.vins d a i) d td
      (fun j => if j = k ∧ k < s.hart.cnt (width td) then (s.g a).toNat else (s.hart.reg d).elem (width td) j) 0 false) ∧
    (td = .none → TrapsAtHead s (.vins d a i) 0x03 (BitVec.ofNat 64 (encodeWord (.vins d a i)))) ∧
    ∃ u, Commits s .vfree u ∧ SameG s u ∧ OnlyHart s u { s.hart.wentOn with ln := u.hart.ln, vec := u.hart.vec } ∧
      u.hart.ln.len = s.hart.ln.len ∧ u.hart.ln.trim = s.hart.ln.trim ∧ u.hart.ln.groups = [] ∧ u.hart.ln.released = true ∧
      (∀ r, (u.hart.reg r).bits = 0 ∧ u.hart.tag r = s.hart.tag r) ∧ (∀ p n, p ≠ 0 → u.hart.pbit p n = false) ∧
      ∀ t, (u.hart.tile t).fmt = .none

/-! ## Vector memory accesses in the near window (chapter 11) -/

/-- R254, R265 to R267, R270, R276, R281: a load reads its active elements and writes vd whole: other elements are zero, the tag is the
format. Addresses are unit-stride, strided or indexed; an E2M1 element is a nibble. `vld.av` reads the body elements below the first
that a row of the selected stream still has to write, all of them where there is none, and trims VL to those it read; `vld.am` reads
every body element; with the first missing, or any, they wait, and at an address that is no multiple of 128 they are Misaligned (log
35). A `vldff` whose lowest active element succeeds and whose element k above it lies outside the segment loads the elements below k,
writes zeros above them, and trims VL to k instead of trapping. A chunk is a row (log 27). -/
def Obligations.VectorLoads : Prop :=
  (∀ (s : State) (d v : VReg) (b x : GReg) (p : PReg) (f : Fmt), VecReady s → NoElementRead s → f ≠ .none →
     let w := width f
     let n := max 1 (w / 8)
     let tv := s.hart.tag v
     let val (m : List Host.Cell) (q j : Nat) : Nat := if w = 4 then readLE m q 1 / 2 ^ (4 * (j % 2)) else readLE m q n
     let unit (j : Nat) : Word := s.g b + s.g x + BitVec.ofNat 64 (if w = 4 then j / 2 else j * (w / 8))
     let stride (j : Nat) : Word := s.g b + BitVec.ofNat 64 j * s.g x
     let index (j : Nat) : Word := s.g b + BitVec.ofInt 64 (elemInt tv ((s.hart.reg v).elem (width tv) j))
     let loads (i : Instr) (sel : Nat → Bool) (addr : Nat → Word) : Prop :=
       (∀ (m : Nat → List Host.Cell) (q : Nat → Nat),
         (∀ j, j < s.hart.elems w → sel j = true → VecReads s (addr j) n (m j) (q j)) →
         WritesReg s i d f (fun j => if sel j then val (m j) (q j) j else 0) 0 false) ∧
       ∀ k, k < s.hart.elems w → (∀ j, j < s.hart.elems w → (sel j = true ↔ j = k)) → MappedAt s (addr k) n →
         (∀ c, l2Copy s (addr k) = some c → c.r = false) →
         let a := (addr k).toNat
         LoadStops s i (addr k) k ∧
         (∀ s1, home s s.sp s.pt a .load = (.zeros, s1) → ∃ u, Commits s i u ∧ RegWritten s1 u d f (fun _ => 0) 0 false) ∧
         ∀ pte s1, home s s.sp s.pt a .load = (.ok pte, s1) → isHbm (pteFrame pte) = true → natBits pte 4 2 = 0 →
           let pa := pteFrame pte + a % 65536
           ∃ u ls bk, Commits s i u ∧ RegWritten { s1 with lines := ls, backing := bk } u d f
               (fun j => if j = k then val s1.mem pa k else 0) 0 false ∧
             ∃ c ∈ ls, c.place = .l2 s.hart.id.facet ∧ c.isLine (cacheSpace s.sp a) (a / 128) = true ∧ c.pline = pa / 128
     loads (.vld d b x p f) (s.hart.active p w) unit ∧ loads (.vldff d b x p f) (s.hart.active p w) unit ∧
     (f ≠ .e2m1 → loads (.vlds d b x p f) (s.hart.active p w) stride ∧
       (isInt tv = true → loads (.vldx d b v p f) (fun j => s.hart.active p w j && decide (j < s.hart.cnt (width tv))) index) ∧
       ((vget s.hart.streams s.hart.sc.cpSel.toNat Stream.empty).queue = [] → (s.g b + s.g x).toNat % 128 = 0 →
         loads (.vldAv d b x f) (s.hart.active 0 w) unit ∧ loads (.vldAm d b x f) (s.hart.active 0 w) unit))) ∧
  (∀ (s : State) (d : VReg) (b x : GReg) (f : Fmt) (k : Nat), VecReady s → NoElementRead s → f ≠ .none → f ≠ .e2m1 →
     let w := width f
     let n := w / 8
     let body := s.hart.cnt w
     let base := s.g b + s.g x
     let addr (j : Nat) : Word := base + BitVec.ofNat 64 (j * n)
     let missing (j : Nat) : Prop := ∃ o ∈ (vget s.hart.streams s.hart.sc.cpSel.toNat Stream.empty).queue, ∃ r ∈ o.rows,
       r.complete = false ∧ ∃ i, i < n ∧ (addr j + BitVec.ofNat 64 i - rowDest o r).toNat < o.len
     let waits (i : Instr) : Prop := ∃ t, exec i s = .next t ∧ exec (.vqEntryCommit s.hart.id.ref) t = .next t
     (base.toNat % 128 ≠ 0 → (s.space s.sp).logBase = 0 → MayTrap s → NoCause s → ∀ i ∈ [Instr.vldAv d b x f, .vldAm d b x f],
       ∃ t u, exec i s = .next t ∧ exec (.vqEntryCommit s.hart.id.ref) t = .next u ∧ u.hart.tr.code = 0x06 ∧ u.hart.tr.val = base ∧
         u.hart.tr.elem = 0 ∧ u.hart.tr.vq = true ∧ u.hart.tr.pc = (s.hart.sc.pc.setWidth 56).setWidth 64 ∧
         u.hart.sc.pc = (s.space s.sp).tvec.setWidth 64 * 4 ∧ u.hart.vec = s.hart.vec) ∧
     (base.toNat % 128 = 0 →
       (0 < body → missing 0 → waits (.vldAv d b x f)) ∧ (k < body → missing k → waits (.vldAm d b x f)) ∧
       ∀ (m : Nat → List Host.Cell) (q : Nat → Nat),
       ((∀ j, j < body → ¬missing j) → (∀ j, j < body → VecReads s (addr j) n (m j) (q j)) →
         ∀ i ∈ [Instr.vldAv d b x f, .vldAm d b x f],
         WritesReg s i d f (fun j => if j < body then readLE (m j) (q j) n else 0) 0 false) ∧
       (0 < k → k < body → (∀ j, j < k → ¬missing j) → missing k → (∀ j, j < k → VecReads s (addr j) n (m j) (q j)) →
         ∃ u, Commits s (.vldAv d b x f) u ∧ u.hart.ln.tv = true ∧ u.hart.ln.trim = BitVec.ofNat 15 k ∧ u.hart.ln.len = s.hart.ln.len ∧
           SameG s u ∧ SameBytes s u ∧ (∀ r, r ≠ d → u.hart.reg r = s.hart.reg r) ∧ u.hart.tag d = f ∧
           ∀ j, j < s.hart.elems w → (u.hart.reg d).elem w j =
             if j < k then readLE (m j) (q j) n % 2 ^ w else 0))) ∧
  ∀ (s : State) (d : VReg) (b x : GReg) (p : PReg) (f : Fmt) (k l : Nat) (m : Nat → List Host.Cell) (q : Nat → Nat), VecReady s →
    NoElementRead s → f ≠ .none →
    let w := width f
    let n := max 1 (w / 8)
    let addr (j : Nat) : Word := s.g b + s.g x + BitVec.ofNat 64 (if w = 4 then j / 2 else j * (w / 8))
    l < k → s.hart.active p w l = true → s.hart.active p w k = true →
    (∀ j, j < k → s.hart.active p w j = true → VecReads s (addr j) n (m j) (q j)) →
    (∀ j, k ≤ j → s.hart.active p w j = true → ∃ c, CheckFails s (addr j) n c) →
    ∃ u, Commits s (.vldff d b x p f) u ∧ u.hart.ln.tv = true ∧ u.hart.ln.trim = BitVec.ofNat 15 k ∧
      u.hart.ln.len = s.hart.ln.len ∧ SameG s u ∧ SameBytes s u ∧ (∀ r, r ≠ d → u.hart.reg r = s.hart.reg r) ∧ u.hart.tag d = f ∧
      u.hart.sc.pc = s.pc4 ∧ u.hart.tr = s.hart.tr ∧ ∀ j, j < s.hart.elems w → (u.hart.reg d).elem w j =
        if s.hart.active p w j = true ∧ j < k then
          (if w = 4 then readLE (m j) (q j) 1 / 2 ^ (4 * (j % 2)) else readLE (m j) (q j) n) % 2 ^ w
        else 0

/-- R151, R162, R254, R257, R271, R272, Table 11.1: a store writes its active elements in ascending order and nothing else; an E2M1 element
writes its nibble alone. The vector state stays as it is. At mapped addresses it retires one line for each line of memory, under the mask
of its elements; where 64 lines are held it waits, VSTART at its element. An element that fails a check traps with its index in TRAPELEM
and VSTART, the lower ones done. -/
def Obligations.VectorStores : Prop :=
  ∀ (s : State) (v x : VReg) (b g : GReg) (p : PReg) (nt : Bool), VecReady s → FromStart s → Memory.wf s.seg = true →
    let t := s.hart.tag v
    let w := width t
    let n := max 1 (w / 8)
    let tx := s.hart.tag x
    let pat (j : Nat) : Nat := (s.hart.reg v).elem w j
    let unit (j : Nat) : Word := s.g b + s.g g + BitVec.ofNat 64 (if w = 4 then j / 2 else j * (w / 8))
    let stride (j : Nat) : Word := s.g b + BitVec.ofNat 64 j * s.g g
    let index (j : Nat) : Word := s.g b + BitVec.ofInt 64 (elemInt tx ((s.hart.reg x).elem (width tx) j))
    let stores (i : Instr) (sel : Nat → Bool) (addr : Nat → Word) (holds : State → Nat → Prop) : Prop :=
      (∀ j, sel j = true → InSegment s (addr j) n) →
      ∃ u, Commits s i u ∧ u.hart.vec = s.hart.vec ∧
        StoreFrame s u 0 (fun c => ∀ j, sel j = true → c < nearOff (addr j) ∨ nearOff (addr j) + n ≤ c) ∧
        ∀ j, sel j = true → (∀ i, j < i → sel i = true → w = 4 ∨ nearOff (addr i) + n ≤ nearOff (addr j) ∨
          nearOff (addr j) + n ≤ nearOff (addr i)) → holds u j
    let whole (addr : Nat → Word) (u : State) (j : Nat) : Prop := readLE u.seg (nearOff (addr j)) n = pat j
    let act := s.hart.active p w
    let bitAt (addr : Nat → Word) (j : Nat) : Nat := (addr j).toNat % 128 * 8 + if w = 4 then 4 * (j % 2) else 0
    let line (addr : Nat → Word) (j : Nat) : Nat := (addr j).toNat / 128
    let retires (i : Instr) (sel : Nat → Bool) (addr : Nat → Word) : Prop :=
      let js := (List.range (s.hart.elems w)).filter sel
      ((∀ j ∈ js, Mapped s (addr j) n) → (∀ l ∈ s.hart.stores, l.seq ≠ s.hart.sc.iseq) →
        (s.hart.stores.length + (js.map (line addr)).dedup.length ≤ 64 →
          ∃ u ls, Commits s i u ∧ RetireFrame s u ls ∧ Retires s nt ls ∧ (ls.map (fun l => l.line)).Nodup ∧
            (∀ k, k ∈ ls.map (fun l => l.line) ↔ k ∈ js.map (line addr)) ∧
            ∀ l ∈ ls, l.elems.map (fun e => e.idx) = js.filter (fun j => line addr j == l.line) ∧
              (∀ z, l.mask.getLsbD z = true ↔ ∃ j ∈ js, line addr j = l.line ∧ bitAt addr j ≤ z ∧ z < bitAt addr j + w) ∧
              ∀ j ∈ js, line addr j = l.line →
                (∀ i ∈ js, j < i → line addr i = l.line → bitAt addr i + w ≤ bitAt addr j ∨ bitAt addr j + w ≤ bitAt addr i) →
                l.data.toNat / 2 ^ bitAt addr j % 2 ^ w = pat j) ∧
        (∀ k, js.head? = some k → s.hart.stores.length = 64 → AtHead s i (fun t u => u.hart.vq = t.hart.vq ∧ u.hart.vq ≠ [] ∧
          u.hart.stores = s.hart.stores ∧ u.hart.startAt = k ∧ SameBytes s u))) ∧
      ∀ k c, k ∈ js → (∀ j ∈ js, j < k → InSegment s (addr j) n) → CheckFails s (addr k) n c → MayTrap s → NoCause s →
        AtHead s i (fun _ u => HeadTrapped s u c (addr k) k ∧ u.hart.ln.vstart = BitVec.ofNat 16 k ∧ u.hart.vec = s.hart.vec ∧
          u.hart.stores = s.hart.stores ∧ (∀ b, memRead u.mem b = memRead s.mem b) ∧
          (∀ b, (∀ j ∈ js, j < k → b < nearOff (addr j) ∨ nearOff (addr j) + n ≤ b) → memRead u.seg b = memRead s.seg b) ∧
          ∀ j ∈ js, j < k → (∀ i ∈ js, j < i → i < k → nearOff (addr i) + n ≤ nearOff (addr j) ∨ nearOff (addr j) + n ≤ nearOff (addr i)) →
            w ≠ 4 → readLE u.seg (nearOff (addr j)) n = pat j)
    (t ≠ .none → retires (.vst v b g p nt) act unit) ∧
    (t ≠ .none → t ≠ .e2m1 → stores (.vst v b g p nt) act unit (whole unit) ∧
      stores (.vsts v b g p nt) act stride (whole stride) ∧ retires (.vsts v b g p nt) act stride ∧
      (isInt tx = true → let sel (j : Nat) : Bool := act j && decide (j < s.hart.cnt (width tx))
        stores (.vstx v b x p nt) sel index (whole index) ∧ retires (.vstx v b x p nt) sel index)) ∧
    (t = .e2m1 → stores (.vst v b g p nt) act unit (fun u j =>
      readLE u.seg (nearOff (unit j)) 1 / 2 ^ (4 * (j % 2)) % 16 = pat j ∧
      ∀ i, i / 2 = j / 2 → act i = false → readLE u.seg (nearOff (unit j)) 1 / 2 ^ (4 * (i % 2)) % 16 =
        readLE s.seg (nearOff (unit j)) 1 / 2 ^ (4 * (i % 2)) % 16))

/-- R257, R266, R274, R275, Tables 11.1 and 11.7: a vector atomic on distinct near addresses gives each active element its old value, stores
its new one, and ORs the elements' flags into FFLAGS; every other element, register and byte stays. An element at a mapped address is done
at its home, waits there with VSTART at it, or traps with its index in TRAPELEM and VSTART; so does one that fails a check, the lower ones
done. One value for each byte whatever the caches hold is the model's choice (log 8). -/
def Obligations.VectorAtomics : Prop :=
  ∀ (s : State) (d x : VReg) (b : GReg) (p : PReg) (sc : Scope), VecReady s → FromStart s → Memory.wf s.seg = true →
    let t := s.hart.tag d
    let tx := s.hart.tag x
    let w := width t
    let n := w / 8
    let act := (List.range (s.hart.elems w)).filter (fun j => s.hart.active p w j && decide (j < s.hart.cnt (width tx)))
    let addr (j : Nat) : Word := s.g b + BitVec.ofInt 64 (elemInt tx ((s.hart.reg x).elem (width tx) j))
    let near (j : Nat) : Nat := readLE s.seg (nearOff (addr j)) n
    let y (j : Nat) : Nat := (s.hart.reg d).elem w j
    let arg (j : Nat) : Int := elemInt t (y j)
    let each (old : Nat → Nat) (is : Instr → (Nat → FpRes → Prop) → Prop) : Prop :=
      let int (j : Nat) : Int := elemInt t (old j)
      let gives (i : Instr) (new : Nat → Nat) : Prop := is i (fun j r => r = (new j, 0))
      (t = .i32 ∨ t = .n32 ∨ t = .i64 ∨ t = .n64 →
        gives (.vamoAdd d b x p sc) (fun j => (old j + y j) % 2 ^ w) ∧
        gives (.vamoMin d b x p sc) (fun j => wrap w (min (int j) (arg j))) ∧
        gives (.vamoMax d b x p sc) (fun j => wrap w (max (int j) (arg j))) ∧
        gives (.vamoAnd d b x p sc) (fun j => old j &&& y j) ∧ gives (.vamoOr d b x p sc) (fun j => old j ||| y j) ∧
        gives (.vamoXor d b x p sc) (fun j => old j ^^^ y j) ∧ gives (.vamoSwap d b x p sc) y) ∧
      (t = .fp32 ∨ t = .fp64 → gives (.vamoSwap d b x p sc) y ∧
        is (.vamoFmin d b x p sc) (fun j => IsPick t false (old j) (y j)) ∧
        is (.vamoFadd d b x p sc) (fun j => IsSum t { mode := .rne } false (unpack t (old j)) (unpack t (y j))))
    let all := [Instr.vamoAdd d b x p sc, .vamoMin d b x p sc, .vamoMax d b x p sc, .vamoAnd d b x p sc, .vamoOr d b x p sc,
      .vamoXor d b x p sc, .vamoSwap d b x p sc, .vamoFmin d b x p sc, .vamoFadd d b x p sc]
    let floats := [Instr.vamoFmin d b x p sc, .vamoFadd d b x p sc]
    let fits (i : Instr) : Prop := if t = .fp32 ∨ t = .fp64 then i ∈ floats ∨ i = .vamoSwap d b x p sc
      else t ∈ [Fmt.i32, .n32, .i64, .n64] ∧ i ∉ floats
    let done (u : State) (old : Nat → Nat) (js : List Nat) : Prop :=
      u.hart.vec = { s.hart.vec with v := u.hart.vec.v } ∧ (∀ q, q ≠ d → u.hart.reg q = s.hart.reg q) ∧ u.hart.tag d = t ∧
      ∀ j, j < s.hart.elems w → (u.hart.reg d).elem w j = if j ∈ js then old j else y j
    let is (i : Instr) (P : Nat → FpRes → Prop) : Prop := ∃ (u : State) (r : Nat → FpRes), (∀ j ∈ act, P j (r j)) ∧
      Commits s i u ∧ StoreFrame s u (orAll (act.map (fun j => (r j).2)))
        (fun c => ∀ j ∈ act, c < nearOff (addr j) ∨ nearOff (addr j) + n ≤ c) ∧
      done u near act ∧ ∀ j ∈ act, readLE u.seg (nearOff (addr j)) n = (r j).1
    isInt tx = true →
    ((∀ j ∈ act, InSegment s (addr j) n) → act.Pairwise (fun i j => addr i ≠ addr j) → each near is) ∧
    (∀ k, act = [k] → MappedAt s (addr k) n →
      let home_ := home s s.sp s.pt (addr k).toNat .atomic
      (∀ pte s1, home_ = (.ok pte, s1) → Memory.wf s1.mem = true →
        let pa := pteFrame pte + (addr k).toNat % 65536
        each (fun _ => readLE s1.mem pa n) (fun i P => ∃ (u : State) (r : FpRes), P k r ∧ Commits s i u ∧
          u = { s1 with mem := u.mem, backing := u.backing, lines := u.lines }.withHart { s.hart.wentOn with
            sc := { s.hart.wentOn.sc with fflags := s.hart.sc.fflags ||| r.2 }
            ln := s.hart.ln.worked u.hart.ln s.hart.tr.hm
            vec := u.hart.vec } ∧
          done u (fun _ => readLE s1.mem pa n) act ∧ readLE u.mem pa n = r.1 ∧
          ∀ e, e < pa ∨ pa + n ≤ e → memRead u.mem e = memRead s1.mem e)) ∧
      ∀ i ∈ all, fits i →
        (∀ s1, home_ = (.mig, s1) ∨ home_ = (.busy, s1) →
          AtHead s i (fun t u => u = s1.withHart { t.hart with ln := u.hart.ln } ∧ u.hart.startAt = k)) ∧
        ∀ c s1, home_ = (.fault c, s1) → MayTrap s → NoCause s → AtHead s i (fun _ u =>
          HeadTrapped s u (BitVec.ofNat 8 c) (addr k) k ∧ u.hart.ln.vstart = BitVec.ofNat 16 k ∧ u.hart.vec = s.hart.vec ∧
            ∀ e, memRead u.mem e = memRead s1.mem e)) ∧
    ∀ k c, k ∈ act → (∀ j ∈ act, j < k → InSegment s (addr j) n) →
      (act.filter (fun j => decide (j < k))).Pairwise (fun i j => addr i ≠ addr j) →
      CheckFails s (addr k) n c → MayTrap s → NoCause s → (t ∈ [.i32, .n32, .i64, .n64]) → AtHead s (.vamoAdd d b x p sc) (fun _ u =>
        let js := act.filter (fun j => decide (j < k))
        HeadTrapped s u c (addr k) k ∧ u.hart.ln.vstart = BitVec.ofNat 16 k ∧ done u near js ∧ (∀ e, memRead u.mem e = memRead s.mem e) ∧
        (∀ e, (∀ j ∈ js, e < nearOff (addr j) ∨ nearOff (addr j) + n ≤ e) → memRead u.seg e = memRead s.seg e) ∧
        ∀ j ∈ js, readLE u.seg (nearOff (addr j)) n = (near j + y j) % 2 ^ w)

/-- R276 to R280, Table 11.9: `vst.r` and `vst.t` write the header and the data of a register, a predicate or a tile at a multiple of 128;
`vld.r` and `vld.t` of a header that passes take the data, the tag or the format. The data of a vector register stands in the
implementation's layout. At mapped addresses an image's lines are retired, or read from the L2's copies; a line that fails a check traps
with its number in TRAPELEM and VSTART, the lower ones retired, and a header that its home refuses traps with VSTART 0 and its record
(Tables 11.1, 15.6). The layout is opaque (log 5); the zero SIDE byte of a register image is a reading (log 35). -/
def Obligations.Images : Prop :=
  ∀ (s : State) (v : VReg) (q : PReg) (t : TReg) (b x : GReg) (l : Nat), VecReady s → FromStart s → NoElementRead s →
    Memory.wf s.seg = true → s.hart.ln.len = 2 ^ l → 9 ≤ l →
    let a := s.g b + s.g x
    let vl := s.hart.ln.len
    let num (B : Nat → Nat) (k n : Nat) : Nat := (List.range n).foldl (fun x i => x + B (k + i) * 256 ^ i) 0
    let header (B : Nat → Nat) (kind fmt side size : Nat) : Prop :=
      num B 0 2 = 0x0720 ∧ B 2 = kind ∧ B 3 = fmt ∧ B 4 = l ∧ B 5 = side ∧ num B 6 2 = 0 ∧ num B 8 4 = size ∧ num B 12 116 = 0
    let room (n : Nat) : Prop := a.toNat % 128 = 0 ∧ s.segBytes ≤ 0x400000 ∧ nearVa ≤ a.toNat ∧ nearOff a + n ≤ s.segBytes
    let dataBit (B : Nat → Nat) (k : Nat) : Bool := (B (128 + k / 8)).testBit (k % 8)
    let at_ (k : Nat) : Word := a + BitVec.ofNat 64 (128 * k)
    let stands (ls : List StoreLine) (n : Nat) : Prop := Retires s false ls ∧ ls.length = n / 128 + (if n % 128 = 0 then 0 else 1) ∧
      ∀ k l, ls[k]? = some l → l.line = (at_ k).toNat / 128 ∧ l.mask.toNat = 2 ^ (8 * min 128 (n - 128 * k)) - 1
    let lineByte (ls : List StoreLine) (k : Nat) : Nat := (ls[k / 128]?.map (fun l => l.data.toNat / 2 ^ (8 * (k % 128)) % 256)).getD 0
    let saves (i : Instr) (n : Nat) (P : (Nat → Nat) → Prop) : Prop :=
      (room (roundUp n 128) → ∃ u, Commits s i u ∧ u.hart.vec = s.hart.vec ∧
        StoreFrame s u 0 (fun c => c < nearOff a ∨ nearOff a + n ≤ c) ∧ P (fun k => readLE u.seg (nearOff a + k) 1)) ∧
      ((∀ k, 128 * k < n → Mapped s (at_ k) 128) → (∀ l ∈ s.hart.stores, l.seq ≠ s.hart.sc.iseq) →
        s.hart.stores.length + roundUp n 128 / 128 ≤ 64 → ∃ u ls, Commits s i u ∧ RetireFrame s u ls ∧ stands ls n ∧ P (lineByte ls))
    let img (m : Nat → List Host.Cell) (q : Nat → Nat) (k : Nat) : Nat := readLE (m (k / 128)) (q (k / 128) + k % 128) 1
    let reads (n : Nat) (m : Nat → List Host.Cell) (q : Nat → Nat) : Prop :=
      a.toNat % 128 = 0 ∧ ∀ k, 128 * k < n → VecReads s (at_ k) (min 128 (n - 128 * k)) (m k) (q k)
    saves (.vstR v b x false) (128 + vl / 8) (fun B => header B 1 (s.hart.tag v).code.toNat 0 (vl / 8) ∧
      ∀ k : Fin vl, dataBit B (Config.imageLayout vl k).val = (s.hart.reg v).bits.getLsbD k.val) ∧
    saves (.vstR (q.setWidth 5) b x true) (128 + vl / 32) (fun B => header B 2 0 0 (vl / 32) ∧
      ∀ k, k < vl / 4 → dataBit B k = s.hart.pbit q k) ∧
    (∀ side, sideOf vl = some side →
      let n := if (s.hart.tile t).fmt = .none then 0 else 64 / width (s.hart.tile t).fmt * side
      saves (.vstT t b x) (128 + 4 * n * n) (fun B => header B 3 (s.hart.tile t).fmt.code.toNat side (4 * n * n) ∧
        ∀ k, k < n * n → num B (128 + 4 * k) 4 = ((s.hart.tile t).acc.getD k 0).toNat)) ∧
    (∀ k c, a.toNat % 128 = 0 → 128 * k < 128 + vl / 8 → (∀ j, j < k → Mapped s (at_ j) 128) → CheckFails s (at_ k) 128 c → MayTrap s →
      NoCause s →
      (∀ l ∈ s.hart.stores, l.seq ≠ s.hart.sc.iseq) → s.hart.stores.length + k ≤ 64 → AtHead s (.vstR v b x false) (fun _ u =>
        HeadTrapped s u c (at_ k) k ∧ u.hart.ln.vstart = BitVec.ofNat 16 k ∧ u.hart.vec = s.hart.vec ∧ SameBytes s u ∧
        ∃ ls, u.hart.stores = s.hart.stores ++ ls ∧ stands ls (128 * k))) ∧
    (MappedAt s a 128 → (∀ c, l2Copy s a = some c → c.r = false) → LoadStops s (.vldR v b x false) a 0) ∧
    ∀ (m : Nat → List Host.Cell) (y : Nat → Nat),
    let B := img m y
    (∀ f : Fmt, header B 1 f.code.toNat 0 (vl / 8) → reads (128 + vl / 8) m y → ∃ u, Commits s (.vldR v b x false) u ∧
      VecFrame s u 0 false ∧ SameG s u ∧ u.hart.vec = { s.hart.vec with v := u.hart.vec.v } ∧ u.hart.tag v = f ∧
      (∀ r, r ≠ v → u.hart.reg r = s.hart.reg r) ∧ (u.hart.reg v).bits.toNat < 2 ^ vl ∧
      ∀ k : Fin vl, (u.hart.reg v).bits.getLsbD k.val = dataBit B (Config.imageLayout vl k).val) ∧
    (header B 2 0 0 (vl / 32) → reads (128 + vl / 32) m y → q ≠ 0 →
      WritesPred s (.vldR (q.setWidth 5) b x true) q (dataBit B) 0) ∧
    (∀ (f : Fmt) (side : Nat), sideOf vl = some side → (f = .none ∨ matrixFmt f = true) →
      let n := if f = .none then 0 else 64 / width f * side
      header B 3 f.code.toNat side (4 * n * n) → reads (128 + 4 * n * n) m y →
      WritesTile s (.vldT t b x) t f n (fun k => num B (128 + 4 * k) 4) 0) ∧
    (a.toNat % 128 ≠ 0 → TrapsAtHead s (.vstR v b x false) 0x06 a)

/-! ## Predicates and matrix gangs (chapters 8 and 9) -/

/-- R208, Table 8.6: the predicate instructions act on all VL.LEN / 4 bits, whatever TRIM is; `pcnt` counts and `pffs` finds the
places where both sources are set. -/
def Obligations.Predicates : Prop :=
  ∀ (s : State) (d a b : PReg) (g : GReg), VecReady s →
    let n := s.hart.elems 4
    let x := s.hart.pbit a
    let y := s.hart.pbit b
    let both := (List.range n).filter (fun k => x k && y k)
    let is (i : Instr) (r : Nat → Bool) : Prop := WritesPred s i d r 0
    (d ≠ 0 → is (.pand d a b) (fun k => x k && y k) ∧ is (.por d a b) (fun k => x k || y k) ∧
      is (.pxor d a b) (fun k => x k != y k) ∧ is (.pandn d a b) (fun k => x k && !y k) ∧ is (.pnot d a) (fun k => !x k) ∧
      is (.pmov d a) x ∧ is (.pset g d) (fun k => decide (k < (s.g g).toNat)) ∧
      is (.pbrk d a b) (fun k => y k && (List.range k).all (fun j => !(x j && y j)))) ∧
    CommitsG s (.pcnt g a b) g (BitVec.ofNat 64 both.length) ∧
    (∀ k, both.head? = some k → CommitsG s (.pffs g a b) g (BitVec.ofNat 64 k)) ∧
    (both = [] → CommitsG s (.pffs g a b) g (BitVec.ofInt 64 (-1)))

/-- R210 to R220: on a gang of side s, `mzero` gives a tile a format and zeros; the outer products add, beat after beat in the order of
depth, the products of the active elements of two panels to every accumulator: fused and rounded to nearest even in FP32, or modulo
2^32; `mrd` and `mrdc` read rows or columns from gr on, zeros beyond the tile; `mwr` writes rows. At any other VL all of them raise
Matrix shape. -/
def Obligations.MatrixGangs : Prop :=
  ∀ (s : State) (t : TReg) (a b : VReg) (p : PReg) (g : GReg) (f : Fmt), VecReady s → matrixFmt f = true →
    let tile := s.hart.tile t
    let w := width f
    let all := [Instr.oacc t a b p, .osub t a b p, .oaccN t a b p, .mzero t f, .mrd t a g, .mrdc t a g, .mwr t a g]
    (sideOf s.hart.ln.len = none → ∀ i ∈ all,
      TrapsAtHead s i 0x05 (BitVec.ofNat 64 (encodeWord i + s.hart.ln.len * 2 ^ 32))) ∧
    ∀ side, sideOf s.hart.ln.len = some side →
      let n := 64 / w * side
      let rho := (s.g g).toNat
      let old (k : Nat) : Nat := (tile.acc.getD k 0).toNat
      let pair (k c : Nat) : Bool := s.hart.active p w (c * n + k / n) && s.hart.active p w (c * n + k % n)
      let left (k c : Nat) : Nat := (s.hart.reg a).elem w (c * n + k / n)
      let right (k c : Nat) : Nat := (s.hart.reg b).elem w (c * n + k % n)
      let total (k : Nat) : Int :=
        ((List.range side).map (fun c => if pair k c then elemInt f (left k c) * elemInt f (right k c) else 0)).sum
      let ints (i : Instr) (minus : Bool) : Prop :=
        WritesTile s i t f n (fun k => wrap 32 (if minus then old k - total k else old k + total k)) 0
      let floats (i : Instr) (minus : Bool) : Prop := ∃ v : Nat → Nat → FpRes, (∀ k, v k 0 = (old k, 0)) ∧
        (∀ k c, k < n * n → c < side → if pair k c then IsFused .fp32 { mode := .rne } minus false (unpack f (left k c))
          (unpack f (right k c)) (unpack .fp32 (v k c).1) (v k (c + 1)) else v k (c + 1) = ((v k c).1, 0)) ∧
        WritesTile s i t f n (fun k => (v k side).1)
          (orAll ((List.range (n * n)).flatMap (fun k => (List.range side).map (fun c => (v k (c + 1)).2))))
      WritesTile s (.mzero t f) t f n (fun _ => 0) 0 ∧
      (tile.fmt = .none → ∀ i ∈ [Instr.oacc t a b p, .osub t a b p, .oaccN t a b p],
        TrapsAtHead s i 0x03 (BitVec.ofNat 64 (encodeWord i + (s.hart.tag a).code.toNat * 2 ^ 36 + (s.hart.tag b).code.toNat * 2 ^ 40))) ∧
      (tile.fmt = f → s.hart.tag a = f → s.hart.tag b = f →
        (isFloat f = true → floats (.oacc t a b p) false ∧ floats (.osub t a b p) true) ∧
        (isSigned f = true → ints (.oacc t a b p) false ∧ ints (.osub t a b p) true) ∧
        (isUnsigned f = true → ints (.oaccN t a b p) false)) ∧
      (tile.fmt = f →
        let u := if isFloat f then Fmt.fp32 else .i32
        let row (k : Nat) : Nat := rho + k / n
        WritesReg s (.mrd t a g) a u (fun k => if row k < n then old (row k * n + k % n) else 0) 0 false ∧
        WritesReg s (.mrdc t a g) a u (fun k => if row k < n then old (k % n * n + row k) else 0) 0 false ∧
        (s.hart.tag a = u → WritesTile s (.mwr t a g) t f n (fun k =>
          if rho ≤ k / n ∧ k / n < rho + 2 * side / (64 / w) then (s.hart.reg a).elem 32 ((k / n - rho) * n + k % n) else old k) 0))

/-! ## Handing copies over (chapter 12) -/

/-- R286 to R288, R291 to R294, R301: a copy instruction that passes its checks hands one operation to its stream: OPS counts it, and its
rows lie at the near and memory addresses of its DIM registers; a gather has a row for each active element, out of range below 0 or at its
bound, and one without an active element is done at once. The checks of Table 12.3 come in its order, each with its cause, TRAPVAL and
TRAPELEM: the length, the near pitch and the swizzle, the number of rows, the bases, the memory pitch, the near window, the segment;
`cpg` first checks its tag. That R226 and R227 are checked of its base and its rows after those and before the hand-off is a reading (log
27); that its Format trap keeps VSTART, where R292 has a trap of a copy clear it, and that BND is set at the commit for all rows that are
out of range, are the model's choices (log 27). `cpmask` shows the rows that are complete. -/
def Obligations.CopyHandOff : Prop :=
  ∀ (s : State) (d a : GReg) (v : VReg) (n : BitVec 4) (p q : PReg), VecReady s →
    let st := vget s.hart.streams n.toNat Stream.empty
    let d0 := s.hart.sc.dim0
    let d1 := s.hart.sc.dim1
    let d2 := s.hart.sc.dim2
    let len := d0.toNat % 2 ^ 20
    let count := d2.toNat % 2 ^ 20
    let pitch : Int := (d0.extractLsb' 20 40).toInt
    let step : Int := (d1.extractLsb' 20 40).toInt
    let swz := d1.toNat / 2 ^ 60 % 4
    let tv := s.hart.tag v
    let act := s.hart.actives p (width tv)
    let idx (j : Nat) : Int := elemInt tv ((s.hart.reg v).elem (width tv) j)
    let hands (i : Instr) (kind : CopyKind) (rows : List CopyRow) (bnd : BitVec 16) : Prop := RowsLegal s len rows → ∃ u o,
      Commits s i u ∧ OnlyHart s u { s.hart.wentOn with
        sc := { s.hart.wentOn.sc with cpBnd := bnd }, ln := s.hart.ln.worked u.hart.ln s.hart.tr.hm, streams := u.hart.streams } ∧
      u.hart.streams = vset s.hart.streams n.toNat { st with
        ops := st.ops + 1, newest := some o, queue := if rows.isEmpty then [] else [o], done := if rows.isEmpty then st.done + 1 else st.done } ∧
      o.kind = kind ∧ o.len = len ∧ o.swz = swz ∧ o.rows = rows ∧ o.bar = st.bar ∧ o.seq = s.hart.sc.iseq ∧ o.cls = s.hart.sc.prio ∧
      o.nt = d0.getLsbD 60 ∧ o.leave = d2.getLsbD 60
    let row (near mem : Word) (i : Nat) (k : Int) (num : Word) (fill : Bool) : CopyRow :=
      { idx := i, near := nearOff near + i * step.toNat, mem := mem + BitVec.ofInt 64 (k * pitch), num := num, fill := fill
        complete := false, held := false, code := 0, delivered := false, replayed := false, sent := false, found := none }
    let length := len % 16 = 0 ∧ 16 ≤ len ∧ len ≤ 65536
    let nearPitch := step % 16 = 0 ∧ (len : Int) ≤ step ∧ len % (16 * 2 ^ swz) = 0
    let shape := length ∧ nearPitch ∧ pitch % 16 = 0
    let counted := 0 < count ∧ count ≤ 16384
    let block := shape ∧ counted
    let place (near mem : Word) : Prop := mem.toNat % 16 = 0 ∧ inNear near.toNat = true ∧ inNear mem.toNat = false ∧
      EntryReady s mem.toNat ∧ addressOk s s.sp s.pt mem.toNat = true
    let fits (near : Word) (k : Nat) : Prop := nearOff near + k * step.toNat + len ≤ s.segBytes
    let blockRows (near mem : Word) : List CopyRow := (List.range count).map (fun k => row near mem k k 0 false)
    let out (j : Nat) : Bool := decide (idx j < 0) || (decide (count ≠ 0) && decide ((count : Int) ≤ idx j))
    let gathered := act.map (fun j => row (s.g d) (s.g a) j (idx j) (BitVec.ofInt 64 (idx j)) (out j))
    let spread (c : CopyKind) := c = .gather ∨ c = .toNear ∨ count ≤ 1 ∨ len ≤ pitch.natAbs
    (st.queue = [] →
      (block → place (s.g d) (s.g a) → (∀ k, k < count → fits (s.g d) k) →
        hands (.cpt d a n) .toNear (blockRows (s.g d) (s.g a)) s.hart.sc.cpBnd) ∧
      (block → (count = 1 ∨ len ≤ pitch.natAbs) → place (s.g a) (s.g d) → (∀ k, k < count → fits (s.g a) k) →
        hands (.cpl d a n) .toMemory (blockRows (s.g a) (s.g d)) s.hart.sc.cpBnd) ∧
      (shape → isInt tv = true → place (s.g d) (s.g a) → (∀ j ∈ act, fits (s.g d) j) →
        hands (.cpg d a v n p) .gather gathered
          (if act.any out then s.hart.sc.cpBnd ||| (1 <<< n.toNat) else s.hart.sc.cpBnd))) ∧
    (isInt tv = false → TrapsAtHead s (.cpg d a v n p) 0x03 (BitVec.ofNat 64 (encodeWord (.cpg d a v n p) + tv.code.toNat * 2 ^ 40))) ∧
    (∀ c ∈ [(Instr.cpt d a n, s.g d, s.g a, CopyKind.toNear, blockRows (s.g d) (s.g a)),
        (.cpl d a n, s.g a, s.g d, .toMemory, blockRows (s.g a) (s.g d)), (.cpg d a v n p, s.g d, s.g a, .gather, gathered)],
      let near := c.2.1
      let mem := c.2.2.1
      let kind := c.2.2.2.1
      let rows := c.2.2.2.2
      let traps (code : BitVec 8) (val : Word) (elem : Nat) : Prop := TrapsAtHead s c.1 code val elem
      let counts := kind = .gather ∨ counted
      let based := length ∧ nearPitch ∧ counts ∧ mem.toNat % 16 = 0
      let pitched := based ∧ pitch % 16 = 0 ∧ spread kind
      let reaches (r : CopyRow) : Prop := ¬(r.fill = true ∧ d2.getLsbD 60 = true)
      let inside (r : CopyRow) : Prop := reaches r → r.near + len ≤ s.segBytes
      let checked := pitched ∧ inNear near.toNat = true ∧ inNear mem.toNat = false
      let passed := checked ∧ (∀ r ∈ rows, inside r) ∧ ∀ x, EntryReady s x
      let legal (r : CopyRow) (k : Nat) : Prop := addressOk s s.sp s.pt (r.mem + BitVec.ofNat 64 k).toNat = true
      s.hart.ln.vstart = 0 → (kind = .gather → isInt tv = true) →
      (¬length → traps 0x06 d0 0) ∧ (length → ¬nearPitch → traps 0x06 d1 0) ∧ (length → nearPitch → ¬counts → traps 0x06 d2 0) ∧
      (length → nearPitch → counts → mem.toNat % 16 ≠ 0 → traps 0x06 mem 0) ∧
      (based → (pitch % 16 ≠ 0 ∨ ¬spread kind) → traps 0x06 d0 0) ∧
      (pitched → inNear near.toNat = false → traps 0x08 near 0) ∧
      (pitched → inNear near.toNat = true → inNear mem.toNat = true → traps 0x08 mem 0) ∧
      (checked → ∀ k r, rows[k]? = some r → (∀ x ∈ rows.take k, inside x) → ¬inside r →
        traps 0x08 (BitVec.ofNat 64 (nearVa + max r.near s.segBytes)) r.idx) ∧
      (passed → addressOk s s.sp s.pt mem.toNat = false → traps 0x08 mem 0) ∧
      (passed → addressOk s s.sp s.pt mem.toNat = true → ∀ k r j, rows[k]? = some r → RowsLegal s len (rows.take k) → r.fill = false →
        j < len → (∀ x, x < j → legal r x) → ¬legal r j → traps 0x08 (r.mem + BitVec.ofNat 64 j) r.idx)) ∧
    (q ≠ 0 → ∀ o, st.queue = [o] → WritesPred s (.cpmask q n) q (fun k => o.rows.any (fun r => r.idx == k && r.complete)) 0)

/-! ## Power and time (chapters 16 and 17) -/

/-- R377 to R379, R381, R384 to R386, R400, R403, R224: a governor register write clamps what it takes or is ignored whole; a tick rescales
and divides the budget; the governor takes its steps in order, goes to the folds at once where a rail's current passes 110 %, and undoes
one for each 100 µs under its budget; gates close after their idle times; the accumulators take what is measured, and a read of an assigned
low half latches the high half; sensors shed and throttle a facet, and a write that moves WARN or RESUME counts for that at once (R386,
R391); TIME steps, and PPSV stands for 1.1 s. Register writes count in READY and EMERGENCY only (R415, R416). What is measured comes with
the events, and the order of lending and undoing, and that IDLE stays set while idle cycles are inserted, are the model's choice or reading
(log 17). That an event whose condition does not hold leaves the state is the model's choice (log 14). -/
def Obligations.PowerAndTime : Prop :=
  ∀ (s : State) (f : Nat) (v : Word) (r : HartRef), f < 8 →
    let g := s.gov f
    let now := s.clock.now
    let x := v.toNat
    let put (i : Instr) (g' : Governor) : Prop := exec i s = .next { s with power := { s.power with gov := vset s.power.gov f g' } }
    let works := s.boot.state = .ready ∨ s.boot.state = .emergency
    let fbud := min (x / 2 ^ 16 % 2 ^ 12) 2400
    let didt := x / 2 ^ 32 % 2 ^ 12
    let warn := x % 2 ^ 8
    let crit := min (x / 2 ^ 8 % 2 ^ 8) 105
    let resume := x / 2 ^ 16 % 2 ^ 8
    let ran := s.clock.ran
    let due := g.thrSince + 1000000 ≤ ran
    let reheated (k : Governor) : Governor :=
      let hot := decide (k.warn.toNat ≤ k.hot.toNat)
      { k with shed := hot, thrSince := if k.shed = hot then k.thrSince else ran }
    let warms (i : Instr) (g' : Governor) : Prop := ∃ t, exec i s = .next t ∧
      t = { s with power := { s.power with gov := vset s.power.gov f g', emergency := t.power.emergency } } ∧
      (s.power.emergency = none → t.power.emergency = none) ∧
      ∀ e, s.power.emergency = some e → t.power.emergency = some { e with
        cool := if t.power.gov.toList.all (fun k => decide (k.hot.toNat ≤ k.resume.toNat)) then some (e.cool.getD ran) else none }
    (¬works → (∀ dw, exec (.governorWrite f dw v) s = .next s) ∧ (∀ k, exec (.accountingClear k) s = .next s) ∧
      exec (.timeStep v) s = .next s) ∧
    (works → warms (.governorWrite f 0 v) { g with
      lbud := BitVec.ofNat 12 (min (min (x % 2 ^ 12) 1550) fbud), fbud := BitVec.ofNat 12 fbud
      didt := if didt < 128 then g.didt else BitVec.ofNat 12 didt }) ∧
    (works → warms (.governorWrite f 1 v) (reheated (if resume + 5 ≤ warn ∧ warn < crit ∧ crit ≤ 110 then
      { g with warn := BitVec.ofNat 8 warn, crit := BitVec.ofNat 8 crit, resume := BitVec.ofNat 8 resume } else g))) ∧
    (works → warms (.governorWrite f 3 v) { g with
      gcut := g.gcut && !v.getLsbD 0, idle := g.idle && (!v.getLsbD 1 || decide (2 ≤ g.step))
      gfold := g.gfold && !v.getLsbD 2, thrdn := g.thrdn && !v.getLsbD 3 }) ∧
    (∀ ratio, ∃ g', put (.governorTick f ratio) g' ∧
      g' = { g with ratio := max 500 (min ratio 2000), allow := g'.allow, minsp := g'.minsp } ∧
      ((∀ h ∈ s.harts, h.id.facet = f → h.ln.req = none) → ∀ c, c < 32 → vget g'.allow c 0 = g.lbud.toNat * 250 / 32) ∧
      ((∀ h ∈ s.harts, (h.id.facet = f → h.ln.groups = []) ∧ ∀ c, c < 32 → groupsOf (f * 32 + c) h.buffered = []) →
        g'.minsp = 8)) ∧
    (∀ draw : Draw,
      let above := g.fbud.toNat * 250 < draw.mw
      let surge := 110 < draw.rail
      let needs := above ∨ surge
      let excess := needs ∨ ∃ c, c < 32 ∧ vget g.allow c 0 < clusterCost s f c g.ratio
      let base := { g with under := none, excess := decide needs }
      let calm := { g with excess := false }
      let waited := g.since + 100000 ≤ ran
      let lowers := above ∧ g.step < 6 ∧ waited ∧ g.thr ≠ 3 ∧ ∀ h ∈ s.harts, h.id.facet = f → foldable h = false
      let step (g' : Governor) : Prop := put (.governorStep f draw) g'
      (excess → g.step = 0 → ¬surge → step { base with step := 1, since := ran }) ∧
      (excess → g.step = 1 → ¬surge → step { base with step := 2, since := ran, idle := true }) ∧
      (g.step < 2 → surge → step { base with step := 3, since := ran, idle := true }) ∧
      (excess → g.step = 2 → waited ∨ surge → step { base with step := 3, since := ran }) ∧
      (excess → g.step = 2 → ¬waited → ¬surge → step base) ∧
      (excess → 3 ≤ g.step → lowers → step { base with step := g.step + 1, since := ran, thrdn := true, thr := g.thr + 1 }) ∧
      (excess → 3 ≤ g.step → ¬lowers → step base) ∧
      (¬excess → g.under = none → step { calm with under := some ran }) ∧
      (¬excess → ∀ t, g.under = some t → g.step = 0 ∨ ran < t + 100000 → step calm) ∧
      (¬excess → ∀ t, g.under = some t → g.step ≠ 0 → t + 100000 ≤ ran → ∃ g', step g' ∧
        g' = { calm with step := g.step - 1, since := ran, under := some ran, thr := g'.thr } ∧ (g.step ≤ 3 → g'.thr = g.thr))) ∧
    (s.hart.run ≠ .idle → s.hart.id.ref = r → (∀ h ∈ s.others, h.id.ref ≠ r) →
      (s.hart.ln.groups ≠ [] → 4096000 ≤ s.hart.ln.laneIdle →
        exec (.laneClockGate r) s = .next (s.withHart { s.hart with ln := { s.hart.ln with clockGated := true } })) ∧
      (s.hart.ln.laneIdle < 4096000 → exec (.laneClockGate r) s = .next s) ∧
      (8192000 ≤ s.hart.ln.mxIdle →
        exec (.matrixGate r) s = .next (s.withHart { s.hart with ln := { s.hart.ln with awake := [] } })) ∧
      (s.hart.ln.mxIdle < 8192000 → exec (.matrixGate r) s = .next s)) ∧
    (∀ added : List (Nat × Nat), ∃ t, exec (.energyUpdate added) s = .next t ∧
      t = { s with power := { s.power with energy := t.power.energy } } ∧
      (∀ off, energyOffset off = true →
        energyAt t off = energyAt s off + BitVec.ofNat 64 ((added.filter (fun a => a.1 == off)).map (fun a => a.2)).sum) ∧
      energyAt t 0x4008 = energyAt s 0x4008 + BitVec.ofNat 64 ((added.filter (fun a => energyOffset a.1)).map (fun a => a.2)).sum) ∧
    (∀ q off, energyAssigned off = false → exec (.energyLowRead q off) s = .next s) ∧
    (∀ q off, energyAssigned off = true → ∃ t, exec (.energyLowRead q off) s = .next t ∧
      t = { s with power := { s.power with latches := t.power.latches } } ∧
      ∀ u : State, u.power.latches = t.power.latches → readEnergyHigh u q off = (energyAt s off).toNat / 2 ^ 32) ∧
    (∀ q off, exec (.energyHighRead q off) s = .next s) ∧
    (∀ temp : BitVec 8, warms (.thermalWarn f temp) (reheated { g with hot := temp })) ∧
    ((¬due → put (.throttleStep f) g) ∧
      (due → g.warn.toNat ≤ g.hot.toNat → put (.throttleStep f) { g with
        thr := BitVec.ofNat 2 (min 3 (g.thr.toNat + 1)), thrdn := g.thrdn || decide (g.thr ≠ 3), thrSince := ran }) ∧
      (due → g.hot.toNat + 3 < g.warn.toNat → g.step ≤ 3 →
        put (.throttleStep f) { g with thr := BitVec.ofNat 2 (g.thr.toNat - 1), thrSince := ran }) ∧
      (due → g.hot.toNat < g.warn.toNat → g.warn.toNat ≤ g.hot.toNat + 3 → put (.throttleStep f) g)) ∧
    (∃ t, exec .accountingUpdate s = .next t ∧ t = { s with hart := t.hart, others := t.others, spaces := t.spaces } ∧
      (∀ h ∈ t.harts, h.unbilled = 0 ∧ h.unbilledLane = 0) ∧
      ∀ k, t.space k = { s.space k with
        acHart := (s.space k).acHart +
          BitVec.ofNat 64 ((s.harts.filter (fun h => h.id.space.toNat == k)).map (fun h => h.unbilled)).sum
        acLane := (s.space k).acLane +
          BitVec.ofNat 64 ((s.harts.filter (fun h => h.id.space.toNat == k)).map (fun h => h.unbilledLane)).sum }) ∧
    (works → ∀ k, ∃ t u, exec (.accountingClear k) s = .next t ∧ exec .accountingUpdate s = .next u ∧
      t = { u with spaces := t.spaces } ∧ (∀ j, j ≠ k → t.space j = u.space j) ∧
      t.space k = { u.space k with acHart := 0, acLane := 0, acDone := 0, acEnded := 0, acRecs := 0 }) ∧
    (works → exec (.timeStep v) s = .next { s with clock := { s.clock with now := now + v, steps := s.clock.steps + 1 } }) ∧
    exec .ppsEdge s = .next { s with clock := { s.clock with pps := now, ppsv := true, ppsAt := ran } } ∧
    (s.clock.ppsv = true → s.clock.ppsAt + 1100000000 ≤ ran →
      exec .ppsTimeout s = .next { s with clock := { s.clock with ppsv := false } }) ∧
    ((s.clock.ppsv = false ∨ ran < s.clock.ppsAt + 1100000000) → exec .ppsTimeout s = .next s)

/-! ## Barriers, plans and causes that arise by themselves (chapters 14 and 15) -/

/-- R71, R72, R82, R334, R341, R342, R344, R345, R354, R355, R363, R372, R374: a barrier completes once every participant has arrived and the
windows before it are closed, and not before; a waiter resumes at its release time, its phase apart from the one before; a plan write
is pending; a hart takes its first pending
cause at a boundary, in the order of R354, TRAPELEM of an asynchronous 0x09 being the number of its records; the watchdog raises its notice
each period of the WDOG that holds, and a change of WDOG begins no period anew; a word that is no instruction raises Illegal and a
continuation word Continuation, with the word in TRAPVAL and no number taken. What a
completion records, the lane clocks of its instant and the waiters' release times, on which facets it occurs and which waiters hold its
window open are the model's readings (logs 15, 37). That a release that waits takes 0x09 of its lines itself is a reading (log 31), so are
the numbering of words that are none (log 38) and TRAPNPC, the PC, of a trap with VQ = 0 (log 30); what a change of WDOG does to the time
already run is the model's choice (log 56). That an event whose condition does not hold leaves the state is the model's choice (log
14). -/
def Obligations.AsynchronousEvents : Prop :=
  ∀ (s : State) (k : BarKind) (owner facet f : Nat) (b : BitVec 3) (x : Barrier) (r : HartRef) (v : Word) (w : BitVec 32)
    (gen : BitVec 32) (second : Option (BitVec 32)), facet < 8 → f < 8 →
    let h := s.hart
    let p := vget s.power.plan f PhasePlan.initial
    let sp := v.toNat / 2 ^ 8 % 2 ^ 9
    let period := (s.space s.sp).wdog.toNat * 1000000
    let put (dw : Nat) (p' : PhasePlan) : Prop :=
      exec (.phasePlanWrite f dw v) s = .next { s with power := { s.power with plan := vset s.power.plan f p' } }
    let notice (n : Notices) : Hart := { h with notice := n }
    let number := if h.waitsInside then h.sc.iseq + 1 else h.sc.iseq
    let causes (code : BitVec 8) (val : Word) (n : Notices) : Prop := ∃ t, exec (.asyncCauseTake r) s = .next t ∧
      ImageOf h.vq t.hart.tr.image ∧ OnlyHart s t { notice n with
        sc := { h.sc with pc := (s.space s.sp).tvec.setWidth 64 * 4, iseq := number }, ln := { h.ln with req := none, headDevc := false, hmStart := 0, headFound := none }
        vq := [], wait := .none, due := none
        tr := { h.tr with code := code, async := true, vq := false, pc := h.sc.pc, npc := h.sc.pc, val := val, elem := 0, hm := true
                          vqn := BitVec.ofNat 7 h.vq.length, vqsel := 0, image := t.hart.tr.image } }
    (barrierOf s k owner facet b.toNat = some x →
      ((x.members ≠ [] ∨ x.left ≠ []) → (∀ m ∈ x.members, m ∈ x.arrived) → windowsClosed s k b.toNat x = true →
        ∃ t y z zs, exec (.barrierComplete k owner facet b) s = .next t ∧ barrierOf t k owner facet b.toNat = some y ∧
          y.cur = x.cur + 1 ∧ y.arrived = [] ∧ y.left = [] ∧ y.members = x.members ∧ y.windows = z :: zs ∧ (∀ v ∈ zs, v ∈ x.windows) ∧
          z.gen = x.cur ∧ z.lanes = s.clock.lane ∧
          z.release.map (fun q => q.1) = x.members ∧
          t = { s with teams := t.teams, farms := t.farms, power := { s.power with plan := t.power.plan } } ∧ SameBytes s t) ∧
      (windowsClosed s k b.toNat x = false → exec (.barrierComplete k owner facet b) s = .next s) ∧
      (x.members = [] → x.left = [] → exec (.barrierComplete k owner facet b) s = .next s) ∧
      ((∃ m ∈ x.members, m ∉ x.arrived) → exec (.barrierComplete k owner facet b) s = .next s)) ∧
    (Runs s r → h.wait = .barrier (barSlot k b.toNat) gen → myBarrier s k = some (owner, facet) →
      barrierOf s k owner facet b.toNat = some x →
      let at_ := myRelease s x gen
      (x.cur ≠ gen → released s x gen = true → phaseSpaced s k at_ = true →
        ((∃ m ∈ x.members, m ∉ x.arrived) → exec (.barrierPhaseRelease r) s = .next ((markPhase s k at_).waitFor .none)) ∧
        ∃ t, exec (.barrierPhaseRelease r) s = .next t ∧ t.hart = { h with wait := .none } ∧ t.others = s.others ∧ SameBytes s t) ∧
      ((x.cur = gen ∨ released s x gen = false ∨ phaseSpaced s k at_ = false) → exec (.barrierPhaseRelease r) s = .next s)) ∧
    (s.boot.state ≠ .ready → s.boot.state ≠ .emergency → ∀ dw, exec (.phasePlanWrite f dw v) s = .next s) ∧
    (s.boot.state = .ready ∨ s.boot.state = .emergency → put 0 (if 8 ≤ sp ∧
      sp ≤ 256 then { p with nph := BitVec.ofNat 4 v.toNat, spacing := BitVec.ofNat 9 sp } else p) ∧
      put 1 { p with phlo := v } ∧ put 2 { p with phhi := v }) ∧
    (Runs s r → h.tr.hm = false → (s.space s.sp).teEn = true → headStarted s h = false → h.due = none →
      h.wait.mustFinish = false ∧ h.wait ≠ .commitQueue →
      (∀ t, h.notice.thermal = some t → causes 0x14 t { h.notice with thermal := none }) ∧
      (∀ t, h.notice.thermal = none → h.notice.preempt = some t → causes 0x13 t { h.notice with preempt := none }) ∧
      (h.notice.thermal = none → h.notice.preempt = none → h.undelivered = true →
          (h.wait ≠ .release ∨ h.undeliveredRow = true ∨ h.vq ≠ [] ∨ h.notice.watchdog ≠ none) →
        ∃ t, exec (.asyncCauseTake r) s = .next t ∧ t.hart.tr.code = 0x09 ∧ t.hart.tr.async = true ∧ t.hart.tr.pc = h.sc.pc ∧
          t.hart.tr.val = BitVec.ofNat 64 ((h.recs.headD 0).toNat % 2 ^ 56) ∧ t.hart.tr.nrec.toNat = min h.recs.length 65535 ∧
          t.hart.tr.elem.toNat = min h.recs.length 65535 ∧ t.hart.tr.npc = h.sc.pc ∧
          t.hart.recs = [] ∧ (∀ l ∈ t.hart.stores, l.stage = .held → l.delivered = true) ∧ t.hart.tr.hm = true ∧
          t.hart.sc = { h.sc with pc := (s.space s.sp).tvec.setWidth 64 * 4, iseq := number } ∧ ImageOf h.vq t.hart.tr.image ∧
          t.others = s.others ∧ SameBytes s t) ∧
      (∀ ms, h.notice.thermal = none → h.notice.preempt = none → h.undelivered = false → h.notice.watchdog = some ms →
        causes 0x15 ms { h.notice with watchdog := none })) ∧
    (Runs s r → (∀ k ∈ s.others, k.id.ref ≠ r) →
      (0 < period → h.dogAt / period < h.runNs / period → exec (.watchdog r) s = .next (s.withHart
        { h with dogAt := h.runNs, notice := { h.notice with watchdog := some (BitVec.ofNat 64 (h.runNs / 1000000)) } })) ∧
      ((period = 0 ∨ h.runNs / period ≤ h.dogAt / period) → exec (.watchdog r) s = .next s) ∧
      let t := writeTe s s.sp 0 v.toNat
      let ended := 0 < period ∧ h.dogAt / period < h.runNs / period
      (t.space s.sp).wdog.toNat = v.toNat / 2 ^ 56 ∧
      (v.toNat / 2 ^ 56 = (s.space s.sp).wdog.toNat → t.hart = h) ∧
      (v.toNat / 2 ^ 56 ≠ (s.space s.sp).wdog.toNat → t.hart = { h with
        dogAt := h.runNs
        notice := { h.notice with watchdog := if ended then some (BitVec.ofNat 64 (h.runNs / 1000000)) else h.notice.watchdog } })) ∧
    (MayTrap s → headStarted s h = false → ∃ t u, exec (.illegalWord w second) s = .next t ∧ exec (.continuation w) s = .next u ∧
      TrapTaken s t 0x01 false h.sc.pc h.sc.pc (BitVec.ofNat 64 (w.toNat + (second.map BitVec.toNat).getD 0 * 2 ^ 32)) 0 h.sc.iseq ∧
      TrapTaken s u 0x02 false h.sc.pc h.sc.pc (BitVec.ofNat 64 w.toNat) 0 h.sc.iseq)

/-! ## Bring-up, firmware and links (chapter 18) -/

/-- R9, R392, R405, R407, R409 to R412, R415 to R419: a start measures and verifies the image in flash before it runs, derives the alias
key pair from the measurement and certifies it, and leaves READY, or RECOVERY with the reason; a cold reset leaves everything else at its
reset value but the fused counter; a restart changes no byte of HBM and, but after a trip, no team; an image is staged when its signature
verifies; attestation answers one request at a time, with all that its response holds, and another meanwhile is told BUSY; links go up and
down with their vectors, and what a dropped port held is lost and recorded. HST takes a write of HOSTTO alone, HCMD the two commands.
Verification, keys and signatures are opaque (log 12), so is how a restart's training ends (log 20), and what a restart keeps is a reading
(log 28); that a masked vector leaves nothing and a raised one stays (log 18), and what an event record of a lost message holds (log 16),
are the model's choice, and so is that an event whose condition does not hold leaves the state (log 14). -/
def Obligations.BringUpAndLinks : Prop :=
  ∀ (s : State) (image : Image) (trained features : Bool) (p : BitVec 3) (peer : BitVec 8) (nonce : BitVec 256) (v : Word),
    let st := s.boot.state
    let b := s.boot
    let fails (fused : Nat) (x : Image) : BitVec 8 :=
      if Config.verifies x.bytes x.signature = false then 1 else if x.rollback < fused then 2 else if x.formatOk = false then 3 else 0
    let started (t : State) (fused : Nat) (x : Image) (trained : Bool) (why : BitVec 8) : Prop :=
      t.boot.image = x ∧ t.boot.measurement = sha256 x.bytes ∧ t.boot.identity = identitySeed ∧
      t.boot.alias_ = aliasSeed (sha256 x.bytes) ∧ t.boot.aliasKey = Config.publicKey (aliasSeed (sha256 x.bytes)) ∧
      t.boot.aliasCert = Config.sign identitySeed (bytesOf t.boot.aliasKey) ∧
      (fails fused x ≠ 0 → t.boot.state = .recovery ∧ t.boot.fail = fails fused x ∧ t.boot.memok = false ∧ t.boot.fused = fused) ∧
      (fails fused x = 0 → t.boot.fused = max fused x.rollback) ∧
      (fails fused x = 0 → trained = false → t.boot.state = .recovery ∧ t.boot.fail = 4 ∧ t.boot.memok = false) ∧
      (fails fused x = 0 → trained = true → why ≠ 0 → t.boot.state = .recovery ∧ t.boot.fail = why ∧ t.boot.memok = false) ∧
      (fails fused x = 0 → trained = true → why = 0 → t.boot.state = .ready ∧ t.boot.fail = 0 ∧ t.boot.memok = true)
    let kept (t : State) : Prop := (∀ a, memRead t.mem a = memRead s.mem a) ∧
      (st ≠ .tripped → t = { s with boot := t.boot, tick := s.tick + 1 }) ∧ (st = .tripped → ∀ x ∈ t.teams, x.live = false)
    let link : BitVec 8 := if b.linkUp = true ∧ b.features = false then 5 else 0
    let accepted := st = .ready ∨ st = .recovery ∨ st = .tripped
    let works := st ≠ .rom ∧ st ≠ .verify
    let raised (n : Nat) : BitVec 8 := if b.msixMask.getLsbD n then b.msix else b.msix ||| BitVec.ofNat 8 (2 ^ n)
    let port := vget s.ports p.toNat { en := false, up := false, peer := 0, retry := 0, lost := 0, flight := [] }
    let restarts (i : Instr) (x : Image) : Prop := ∃ t, exec i s = .next t ∧
      started t b.fused x (Config.trains s.tick) link ∧ kept t
    (∃ t, exec (.coldReset image trained) s = .next t ∧ started t b.fused image trained 0 ∧
      t = { State.reset with boot := t.boot, tick := s.tick, nextUid := s.nextUid, agenda := s.agenda }) ∧
    (accepted → restarts .hcmdRestart b.image ∧ restarts (.configWrite (.hub 0x10) 1) b.image ∧
      (∀ x, b.staged = some x → restarts .hcmdInstall x ∧ restarts (.configWrite (.hub 0x10) 2) x) ∧
      (b.staged = none → exec .hcmdInstall s = .next s)) ∧
    (¬accepted → exec .hcmdRestart s = .next s ∧ exec .hcmdInstall s = .next s) ∧
    let verified := Config.verifies image.bytes image.signature = true
    (works → verified → exec (.doeImageWrite image) s = .next { s with boot := { b with staged := some image } }) ∧
    ((¬works ∨ ¬verified) → exec (.doeImageWrite image) s = .next s) ∧
    (works → (b.nonce = none ∨ b.response ≠ none) →
      exec (.attestRequest nonce) s = .next { s with boot := { b with nonce := some nonce, response := none } }) ∧
    (works → b.nonce ≠ none → b.response = none →
      exec (.attestRequest nonce) s = .next { s with boot := { b with answer := .busy } }) ∧
    (¬works → exec (.attestRequest nonce) s = .next s) ∧
    (∀ n, b.nonce = some n → b.response = none → ∃ a : AttestResponse,
      exec .attestResponseReady s = .next { s with boot := { b with response := some a, msix := raised 3 } } ∧
      a.nonce = n ∧ a.measurement = b.measurement ∧ a.rollback = b.fused ∧ a.fuses = Config.fuses ∧
      a.hst = BitVec.ofNat 64 (readReg s .hst) ∧ a.aliasKey = b.aliasKey ∧ a.aliasCert = b.aliasCert ∧
      a.signature = Config.sign b.alias_ a.message) ∧
    ((b.nonce = none ∨ b.response ≠ none) → exec .attestResponseReady s = .next s) ∧
    ((features = true ∨ (st ≠ .ready ∧ st ≠ .recovery)) →
      exec (.cxlLinkTrain features) s = .next { s with boot := { b with linkUp := true, features := features } }) ∧
    (features = false → (st = .ready ∨ st = .recovery) → ∃ t, exec (.cxlLinkTrain features) s = .next t ∧
      t = { s with boot := { b with
        linkUp := true, features := false, state := .recovery, fail := 5, memok := false
        msix := if st = .recovery then b.msix else raised 1 } }) ∧
    exec (.peerLinkUp p peer) s = .next { s with
      ports := vset s.ports p.toNat { port with up := true, peer := peer }
      boot := { b with msix := if port.up then b.msix else raised 2 } } ∧
    (∃ t, exec (.peerLinkDown p) s = .next t ∧ t = { s with
        events := t.events, boot := { b with msix := t.boot.msix }
        ports := vset s.ports p.toNat { port with
          up := false, flight := [], lost := BitVec.ofNat 16 (min 0xFFFF (port.lost.toNat + port.flight.length)) } } ∧
      (st = .tripped → t.events = s.events) ∧
      (st ≠ .tripped → t.events.map (fun e => (e.part, e.queue, e.msgType, e.code)) = s.events.map (fun e => (e.part, e.queue, e.msgType, e.code)) ++
        port.flight.map (fun m => (m.part, BitVec.ofNat 16 m.queue, msgType m.msg, 6#8))) ∧
      (port.up = true → b.msixMask.getLsbD 2 = false → t.boot.msix.getLsbD 2 = true)) ∧
    exec (.flitRetry p) s = .next { s with
      ports := vset s.ports p.toNat (if port.up then { port with retry := port.retry + 1 } else port) } ∧
    ((st = .ready ∨ st = .emergency) →
      exec (.configWrite (.hub 0) v) s = .next { s with boot := { b with hostto := b.hostto && !v.getLsbD 5 } }) ∧
    ((st ≠ .ready ∧ st ≠ .emergency) → exec (.configWrite (.hub 0) v) s = .next s)

/-! ## Heat (chapter 16) -/

/-- R386 to R389, R391 to R393, R416: an emergency starts when a sensor reaches CRIT in READY and lists every team; its five stages stop
the teams, save them one by one, write the caches back and empty them, and leave HBM as it is; its record marks the teams that stand wholly
in HBM as saved, as that of a trip does (R389, R393); it ends after 100 ms at or below RESUME, in
RECOVERY where the link has lost a required feature; its teams resume where they were, a later one by itself; a trip takes the caches with
it, and HBM keeps only what had been written back. The record's moment and what a trip keeps are readings (log 28); where in its facet's
save area a context stands, and what its bytes are, is the implementation's (log 22), and how far a resumed hart is folded the model's
choice (log 50), as is that an event whose condition does not hold leaves the state (log 14). -/
def Obligations.Emergencies : Prop :=
  ∀ (s : State) (f : Nat) (temp : BitVec 8), f < 8 →
    let st := s.boot.state
    let now := s.clock.now
    let ran := s.clock.ran
    let saved (x : Team) : Prop := x.spaceSaved = true ∨ ((s.part x.part.toNat).state = .hbm ∧ x.live = false ∧
      (x.segUnits = 0 ∨ x.holdsSegment = false) ∧ ∀ c ∈ s.lines, c.ofTeam x = true → ∀ b ∈ s.backing, b.1 / 128 ≠ c.pline)
    let staged (e : Emergency) (t : State) (n : Nat) : Prop := exec .emergencyStageComplete s = .next t ∧
      t.power.emergency = some { e with stage := n } ∧ t.boot = { s.boot with memok := s.boot.memok && n != 3 } ∧
        ∀ a, memRead t.mem a = memRead s.mem a
    (st = .ready → (s.gov f).crit.toNat ≤ temp.toNat → ∃ t pm, exec (.thermalEmergency f temp) s = .next t ∧
      t.boot.state = .emergency ∧ t.power.emergency = some { facet := f, temp := temp, start := now, stage := 0, cool := none } ∧
      t.power.pm = some pm ∧ pm.magic = true ∧ pm.stage = 0 ∧ pm.tcrit = now ∧ pm.facet.toNat = f ∧ pm.temp = temp ∧
      pm.entries.length = s.teams.length ∧ (∀ x ∈ s.teams, ∃ e ∈ pm.entries, e.team = x.uid ∧ (e.saved = true ↔ saved x)) ∧
      t = { s with boot := t.boot, power := t.power }) ∧
    ((st ≠ .ready ∨ temp.toNat < (s.gov f).crit.toNat) → exec (.thermalEmergency f temp) s = .next s) ∧
    (∀ e, s.power.emergency = some e →
      (e.stage = 0 → stage1Over s = true → ∃ t, staged e t 1 ∧ ∀ x ∈ t.teams, x.live = false) ∧
      (e.stage = 1 → Memory.wf s.mem = true → (∃ x ∈ s.teams, x.spaceSaved = false) → ∃ t x,
        exec .emergencyStageComplete s = .next t ∧ t.power.emergency = some e ∧ t.boot = s.boot ∧ x ∈ s.teams ∧ x.spaceSaved = false ∧
        (∀ y ∈ t.teams, y.uid = x.uid → y.spaceSaved = true) ∧
        (∀ y ∈ s.teams, y.spaceSaved = false → savedBefore s x y = true) ∧
        let before := (s.teams.filter (fun y => y.facet == x.facet && y.spaceSaved)).length
        let area := (Config.capWord 3 (1 + x.facet)).toNat + before * Config.contextLines * 128
        ∀ a, a < area ∨ area + Config.contextLines * 128 ≤ a → memRead t.mem a = memRead s.mem a) ∧
      (e.stage = 1 → (∀ x ∈ s.teams, x.spaceSaved = true) → ∃ t, staged e t 2 ∧ t.teams = s.teams) ∧
      (e.stage = 2 → ∃ t, staged e t 3 ∧ t.backing = [] ∧ t.streamEntries = []) ∧
      (e.stage = 3 → ∃ t, staged e t 4 ∧ t.lines = s.lines) ∧
      (e.stage = 4 → ∃ t, staged e t 5 ∧ t.lines = [] ∧ t.walks = []) ∧
      ((e.stage ≠ 5 ∨ e.cool = none) → exec .thermalResume s = .next s) ∧
      (∀ c, e.stage = 5 → e.cool = some c → ran < c + 100000000 → exec .thermalResume s = .next s) ∧
      (∀ c, e.stage = 5 → e.cool = some c → c + 100000000 ≤ ran → (∀ x ∈ s.teams, x.status ≠ .stopped .thermal) →
        ∃ t, exec .thermalResume s = .next t ∧
          (linkLacks s = false → t.boot.state = .ready ∧ t.boot.memok = true) ∧
          (linkLacks s = true → t.boot.state = .recovery ∧ t.boot.fail = 5 ∧ t.boot.memok = false) ∧ t.power.emergency = none ∧
          t.teams = s.teams.map (fun x => { x with spaceSaved := false }) ∧ t.others = s.others ∧ t.hart = s.hart ∧
          t.mem = s.mem) ∧
      (∀ c k, e.stage = 5 → e.cool = some c → c + 100000000 ≤ ran → linkLacks s = false → s.teams = [k] →
        k.status = .stopped .thermal → (∀ h ∈ s.others, h.run ≠ .idle) → (s.harts.map (fun h => h.id.ref)).Nodup →
        (∀ h ∈ s.harts, h.id.ref.team = k.uid → (h.ln.len = 0 ∨ h.ln.released = true) ∧ h.settled = true) →
        ∃ t y, exec .thermalResume s = .next t ∧ t.boot.state = .ready ∧ t.teams = [y] ∧ t.mem = s.mem ∧
          y = { k with status := .resident, segSaved := false, spaceSaved := false, bars := y.bars } ∧
          ∀ h ∈ s.harts, h.id.ref.team = k.uid → ∃ g ∈ t.harts,
            g.id = { h.id with phys := physOf k.facet k.cluster (k.slots.getD h.id.ref.idx 0) } ∧ g.sc = h.sc ∧ g.vec = h.vec ∧
            g.ln.len = h.ln.len ∧ g.tr = h.tr ∧ g.vq = h.vq ∧ g.stores = h.stores ∧ g.streams = h.streams ∧ g.wait = h.wait ∧
            g.run = h.run ∧ g.notice =
              if (s.space k.space.toNat).note then h.notice else { h.notice with preempt := none, thermal := none })) ∧
    (∀ k u, s.team? k.uid = some k → k.status = .stopped .thermal → st = .ready → s.power.emergency = none →
      resumeTeam 0 s k.uid k.facet k.cluster k.slots .thermal = some u → exec (.teamResume k.uid) s = .next u) ∧
    (s.power.emergency = none → exec .emergencyStageComplete s = .next s ∧ exec .thermalResume s = .next s) ∧
    (st ≠ .tripped → 115 ≤ temp.toNat → Memory.wf s.mem = true → (s.backing.map Prod.fst).Nodup →
      ∃ t pm, exec (.hardTrip f temp) s = .next t ∧ t.boot.state = .tripped ∧ t.boot.memok = false ∧ t.power.emergency = none ∧
        t.power.pm = some pm ∧ pm.magic = true ∧ pm.facet.toNat = f ∧ pm.temp = temp ∧ pm.ttrip = now ∧
        pm.cause = (if s.power.emergency.isSome then 2 else 3) ∧
        ((s.power.emergency = none ∨ s.power.pm = none) → ∀ x ∈ s.teams, ∃ e ∈ pm.entries, e.team = x.uid ∧ (e.saved = true ↔ saved x)) ∧
        (∀ p, s.power.emergency ≠ none → s.power.pm = some p → pm.entries.length = p.entries.length ∧
          ∀ e ∈ pm.entries, ∀ x, s.team? e.team = some x → (e.saved = true ↔ saved x)) ∧ t.lines = [] ∧ t.walks = [] ∧ t.backing = [] ∧
        (∀ x ∈ t.teams, x.live = false) ∧ (∀ c ∈ s.backing, memRead t.mem c.1 = c.2) ∧
        ∀ a, a ∉ s.backing.map Prod.fst → memRead t.mem a = memRead s.mem a) ∧
    ((st = .tripped ∨ temp.toNat < 115) → exec (.hardTrip f temp) s = .next s) ∧
    (st = .ready ∨ st = .emergency ∨ st = .tripped →
      exec .postmortemClear s = .next { s with power := { s.power with pm := s.power.pm.map (fun p => { p with magic := false }) } }) ∧
    (st ≠ .ready → st ≠ .emergency → st ≠ .tripped → exec .postmortemClear s = .next s)

/-! ## Accesses of memory (chapters 10 and 11) -/

/-- R236, R240, R242 to R247, R254, R258 to R260, R262, R316, R407: a load takes its bytes from the hart's own L1 copy with R set, else
from such a copy in its facet's L2, else from the frame its home translates to, whatever the copies without R hold. On a DEVC page of
the hub window it reads the register; in the host window it makes one read, of its own bytes (DEVC) or of the 64-byte host line (WC),
waits for the answer and takes its bytes, once no earlier store of the hart can be a device-class one to that window (R316) and no
uncommitted vector entry accesses memory. A fault of the home is a trap with the address; while the page migrates or a snoop is out the
access waits. A store, plain or release, with its own writable L1 copy changes its bytes at once and leaves no copy of the line
elsewhere, where the host holds no copy of the line; any other, on a page of any class, retires a line, or waits while 64 are held. An
atomic is done at its home. One value for each byte whatever the caches hold, loads in order, that a WC read takes a whole host line,
that any earlier entry that may access memory holds a store back, and that a release checks the address before it waits, are the model's
choice or reading (logs 7, 8, 10, 11, 31), as is how an instruction waits (log 1); a read of a hub offset without a register ends the
run (log 6). -/
def Obligations.MappedAccesses : Prop :=
  ∀ (s : State) (g b d : GReg) (i : BitVec 11) (o : MemOrder) (sc : Scope), Memory.wf s.mem = true →
    let a := s.ea b i
    let own := Place.l1d s.hart.id.core
    let l2 := Place.l2 s.hart.id.facet
    let copy (p : Place) (a : Word) : Option CacheLine := copyAt s p (cacheSpace s.sp a.toNat) (a.toNat / 128)
    let at_ (c : CacheLine) (a : Word) : Nat := c.pline * 128 + a.toNat % 128
    let x := (s.g g).toNat
    let y := s.g g
    let waits (s1 : State) (w : Wait) : Out := .next (s1.withHart { s.hart with wait := w })
    let loads := [(Instr.ldB g b i, a, 1, true), (.ldBu g b i, a, 1, false), (.ldH g b i, a, 2, true), (.ldHu g b i, a, 2, false),
        (.ldW g b i, a, 4, true), (.ldWu g b i, a, 4, false), (.ldD g b i, a, 8, false), (.ldAcqW g b sc, s.g b, 4, false),
        (.ldAcqD g b sc, s.g b, 8, false)]
    let v (q : Instr × Word × Nat × Bool) (m : Nat) : Word := if q.2.2.2 then BitVec.ofInt 64 (signedOf q.2.2.1 m) else BitVec.ofNat 64 m
    (NoDeviceRead s → ∀ q ∈ loads, MappedAt s q.2.1 q.2.2.1 →
      let va := q.2.1.toNat
      (∀ c, (copy own q.2.1 = some c ∨ ((∀ e, copy own q.2.1 = some e → e.r = false) ∧ copy l2 q.2.1 = some c)) → c.r = true →
        ∃ ls, (∀ e ∈ ls, (∃ k ∈ s.lines, e = k ∨ e = { k with own := false }) ∨ e = { c with place := own, own := false }) ∧
          Gives (exec q.1 s) { s with lines := ls } g (v q (readLE s.mem (at_ c q.2.1) q.2.2.1))) ∧
      ((∀ e, (copy own q.2.1 = some e ∨ copy l2 q.2.1 = some e) → e.r = false) →
        (∀ pte s1, home s s.sp s.pt va .load = (.ok pte, s1) →
          let pa := pteFrame pte + va % 65536
          let wc := natBits pte 4 2 == 1
          (isHbm pa = true → ∃ ls bk, Gives (exec q.1 s) { s1 with lines := ls, backing := bk } g (v q (readLE s1.mem pa q.2.2.1))) ∧
          let earlier := ∃ l ∈ s.hart.stores, l.stage = .retired ∨
            ((l.stage = .device ∨ (l.stage = .window ∧ wc = false)) ∧ isHub (l.pa * 128) = isHub pa)
          (isHbm pa = false → earlier → exec q.1 s = waits s1 .stores) ∧
          (isHbm pa = false → ¬earlier → s.hart.queueTouches = true → exec q.1 s = waits s1 .queue) ∧
          (isHbm pa = false → ¬earlier → s.hart.queueTouches = false →
            (isHub pa = true → wc = false →
              (hubRead s1 (s.hartid s.hart.id).toNat (pa % 2 ^ 50) q.2.2.1 = none → exec q.1 s = .fault (.hubUnassigned (pa % 2 ^ 50))) ∧
              ∀ m s2, hubRead s1 (s.hartid s.hart.id).toNat (pa % 2 ^ 50) q.2.2.1 = some (m, s2) → ∃ ws,
                Gives (exec q.1 s) { s2 with windowOps := ws } g (v q m) ∧ ∀ w ∈ ws, w ∈ s.windowOps) ∧
            (isHub pa = false → exec q.1 s = .next ({ s1 with windowOps := s1.windowOps ++ [
              ({ hart := s.hart.id.ref, seq := s.hart.sc.iseq, idx := 0, pa := if wc then pa / 64 * 64 else pa
                 size := if wc then 64 else q.2.2.1, write := false, devc := !wc, data := 0, mask := 0
                 answer := none } : WindowOp)] }.withHart { s.hart with wait := if wc then .stall else .window })))) ∧
        (∀ s1, home s s.sp s.pt va .load = (.zeros, s1) → Gives (exec q.1 s) s1 g 0) ∧
        (∀ s1, home s s.sp s.pt va .load = (.mig, s1) ∨ home s s.sp s.pt va .load = (.busy, s1) →
          exec q.1 s = waits s1 .stall) ∧
        ∀ k s1, home s s.sp s.pt va .load = (.fault k, s1) → exec q.1 s = trapAt s1 (BitVec.ofNat 8 k) q.2.1)) ∧
    (∀ q ∈ loads, ∀ w, s.windowOp? s.hart.sc.iseq 0 = some w →
      (w.answer = none → exec q.1 s = waits s (if w.size = 64 then .stall else .window)) ∧
      ∀ z : BitVec 512, w.answer = some z → (∀ l ∈ s.hart.stores, l.line ≠ q.2.1.toNat / 128) → ∃ ws,
        Gives (exec q.1 s) { s with windowOps := ws } g
          (v q (z.toNat / (if w.size = 64 then 2 ^ (8 * (q.2.1.toNat % 64)) else 1) % 2 ^ (8 * q.2.2.1))) ∧ ∀ w ∈ ws, w ∈ s.windowOps) ∧
    (NoDeviceRead s → ∀ q ∈ loads.map (fun q => (q.1, q.2.1, q.2.2.1)) ++ [(Instr.stB g b i, a, 1), (.stH g b i, a, 2), (.stW g b i, a, 4),
        (.stD g b i, a, 8), (.stRelW g b sc, s.g b, 4), (.stRelD g b sc, s.g b, 8), (.amoAdd d b g o sc, s.g b, 8)],
      q.2.1.toNat % q.2.2 = 0 → ∀ s1, entrySnoop s s.sp q.2.1.toNat = some s1 →
        exec q.1 s = waits s1 .stall) ∧
    (∀ q ∈ [(Instr.stB g b i, 1), (.stH g b i, 2), (.stW g b i, 4), (.stD g b i, 8)], a.toNat % q.2 = 0 → EntryReady s a.toNat →
      addressOk s s.sp s.pt a.toNat = true → s.hart.queueTouches = true → exec q.1 s = waits s .queue) ∧
    (∀ q ∈ [(Instr.stB g b i, a, 1, false), (.stH g b i, a, 2, false), (.stW g b i, a, 4, false), (.stD g b i, a, 8, false),
        (.stRelW g b sc, s.g b, 4, true), (.stRelD g b sc, s.g b, 8, true)],
      MappedAt s q.2.1 q.2.2.1 → s.hart.queueTouches = false → (q.2.2.2 = true → ReleaseReady s sc) →
      let va := q.2.1.toNat
      let n := q.2.2.1
      ((∀ c, copy own q.2.1 = some c → c.w = false ∨ hostHolds s c.pline = true) →
        (64 ≤ s.hart.stores.length → exec q.1 s = waits s .stores) ∧
        (s.hart.stores.length < 64 → ∃ l,
          exec q.1 s = .next (s.withHart { s.hart.wentOn with stores := s.hart.stores ++ [l] }) ∧
          l.line = va / 128 ∧ l.mask.toNat = (2 ^ (8 * n) - 1) * 2 ^ (va % 128 * 8) ∧
          l.data.toNat = x % 2 ^ (8 * n) * 2 ^ (va % 128 * 8) ∧ l.stage = .retired ∧ l.vector = false ∧
          l.seq = s.hart.sc.iseq ∧ l.addr = s.hart.sc.pc.setWidth 56 ∧ l.handler = s.hart.tr.hm)) ∧
      (∀ c, copy own q.2.1 = some c → c.w = true → hostHolds s c.pline = false → ∃ t, exec q.1 s = .next t ∧
        t = { s with mem := t.mem, backing := t.backing, lines := t.lines }.withHart s.hart.wentOn ∧
        readLE t.mem (at_ c q.2.1) n = x % 256 ^ n ∧
        (∀ e, e < at_ c q.2.1 ∨ at_ c q.2.1 + n ≤ e → memRead t.mem e = memRead s.mem e) ∧
        ∀ e ∈ t.lines, (∃ k ∈ s.lines, e = k ∨ e = { k with own := true }) ∧
          (e.isLine (cacheSpace s.sp va) (va / 128) = true → e.place = own ∨ e.place = l2))) ∧
    (MappedAt s (s.g b) 8 → s.hart.queueTouches = false → ((o = .release ∨ o = .acqRel) → ReleaseReady s sc) →
      (∀ k s1, home s s.sp s.pt (s.g b).toNat .atomic = (.fault k, s1) →
        exec (.amoAdd d b g o sc) s = trapAt s1 (BitVec.ofNat 8 k) (s.g b)) ∧
      (∀ s1, home s s.sp s.pt (s.g b).toNat .atomic = (.mig, s1) ∨ home s s.sp s.pt (s.g b).toNat .atomic = (.busy, s1) →
        exec (.amoAdd d b g o sc) s = waits s1 .stall) ∧
      ∀ pte s1, home s s.sp s.pt (s.g b).toNat .atomic = (.ok pte, s1) →
      let pa := pteFrame pte + (s.g b).toNat % 65536
      let old := readLE s1.mem pa 8
      let w : Word := BitVec.ofNat 64 old
      let lo := fpMinMax .fp64 false old x
      let sum := fpAddV .fp64 { mode := .rne } (unpack .fp64 old) (unpack .fp64 x)
      ∀ q ∈ [(Instr.amoAdd d b g o sc, (old + x) % 2 ^ 64, 0#5), (.amoAnd d b g o sc, old &&& x, 0), (.amoOr d b g o sc, old ||| x, 0),
        (.amoXor d b g o sc, old ^^^ x, 0), (.amoMin d b g o sc, (BitVec.ofInt 64 (min w.toInt y.toInt)).toNat, 0),
        (.amoMax d b g o sc, (BitVec.ofInt 64 (max w.toInt y.toInt)).toNat, 0), (.amoMinu d b g o sc, min old x, 0),
        (.amoMaxu d b g o sc, max old x, 0), (.amoSwap d b g o sc, x, 0),
        (.amoCas d b g o sc, if old = (s.g d).toNat then x else old, 0),
        (.amoIncb d b g o sc, if old < x then old + 1 else old, 0), (.amoFmin d b g o sc, lo.1, lo.2),
        (.amoFadd d b g o sc, sum.1, sum.2)],
        ∃ t, exec q.1 s = .next t ∧ OnlyG s t d w ∧ readLE t.mem pa 8 = q.2.1 ∧
          (∀ e, e < pa ∨ pa + 8 ≤ e → memRead t.mem e = memRead s1.mem e) ∧
          t = { s1 with mem := t.mem, backing := t.backing, lines := t.lines }.withHart { s.hart.wentOn with
            sc := { s.hart.wentOn.sc with g := t.hart.sc.g, fflags := s.hart.sc.fflags ||| q.2.2 } })

/-- R241 to R248, R251, R252, R272, R288, R293, R295, R297, R305, R306, R326, R360, R390, R407, R408: a retired line is performed under
its mask at its home or its cached copy, combined, queued for its device, or held with a record where the home refuses it; one that
combined or was queued is translated when it leaves; none moves while the dies stand still or once its hart's context is saved (R388,
R392, R415, R416; a reading, log 28); a home's answer fills the facet's L2, and none sets A and D for a store or atomic that does not go
there; a released frame loses its owner and every copy of its page; the host reads and writes lines with what its MetaValue asks,
answers snoops or fails to, and its late data is dropped; an access of its window ends with its answer; a copy row writes its near side,
or the near row's bytes to memory, piece by piece, and no other byte, and arrives at its operation's byte barrier, or is held with its
record; a record that cannot be written yet leaves the line or row as it is but for when its fault was found (R361; log 39). A combined
line follows the hart's earlier device-class stores to its window (R316). A row in one step, the answers of the host and what a snoop
for data leaves it are the model's choice (logs 7, 11, 18), as are a row's write under the copy that its check found where a fill has
evicted it, one value for each byte whatever the caches hold (log 8), which rows come before a row that is served (log 48), and that an
event whose condition does not hold leaves the state (log 14). -/
def Obligations.MemoryEvents : Prop :=
  ∀ (s : State) (r : HartRef) (i j f pa line : Nat) (l : StoreLine) (va : Word) (n : BitVec 4) (hold : HostMeta) (x ans : BitVec 512)
    (y : BitVec 1024) (o : CopyOp) (q : CopyRow) (seq : Word), Runs s r → Memory.wf s.mem = true →
    Memory.wf s.seg = true →
    let h := s.hart
    let a := va.toNat
    let writes := s.boot.state = .ready ∨ s.boot.state = .emergency
    let served := (s.boot.state = .ready ∧ s.boot.memok = true) ∨
      (s.boot.state = .emergency ∧ ∀ e, s.power.emergency = some e → e.stage < 3)
    let told (x : HostAnswer) : State := { s with boot := { s.boot with answer := x } }
    let gone : List HostLine := (s.hostLines.filter (fun k => !(k.pline == line && k.inval))).map (fun k =>
      if k.pline = line then { k with any := false, snooped := none } else k)
    let late (p : Nat) : Prop := ∃ k ∈ s.hostLines, k.pline = p ∧ k.late = true
    let expired (k : HostLine) : Bool := k.pline == line && !k.late &&
      (k.snooped.map (fun t => decide (t + 10000000 ≤ s.clock.ran))).getD false
    let cs := cacheSpace s.sp (l.line * 128)
    let laid (m m' : List Host.Cell) (p : Nat) : Prop :=
      (∀ k, k < 128 → memRead m' (p * 128 + k) = (memRead m (p * 128 + k) &&& ~~~(l.mask.extractLsb' (8 * k) 8)) |||
        (l.data.extractLsb' (8 * k) 8 &&& l.mask.extractLsb' (8 * k) 8)) ∧
      ∀ e, e < p * 128 ∨ p * 128 + 128 ≤ e → memRead m' e = memRead m e
    let performed (s1 t : State) (p : Nat) : Prop := laid s1.mem t.mem p ∧
      t = { s1 with mem := t.mem, backing := t.backing, lines := t.lines }.withHart { h with stores := h.stores.eraseIdx i }
    let held (s2 : State) (k : Nat) (rec : Word) : Hart :=
      { s2.hart with stores := updAt h.stores i (fun l => { l with stage := .held, code := BitVec.ofNat 8 k, found := none }), recs := h.recs ++ [rec] }
    let waits (s2 : State) : State :=
      s2.withHart { s2.hart with stores := updAt h.stores i (fun l => { l with found := some (l.found.getD s.clock.now) }) }
    let home_ := home s s.sp s.pt (l.line * 128) .store
    let at_ (pte : Nat) : Nat := (pteFrame pte + l.line * 128 % 65536) / 128
    let becomes (s1 : State) (g : StoreLine → StoreLine) : State := s1.withHart { h with stores := updAt h.stores i g }
    let asked (e : Instr) : Prop :=
      (∀ pte s1, home_ = (.ok pte, s1) → isHbm (pteFrame pte) = true → natBits pte 4 2 = 0 →
        ∃ t, exec e s = .next t ∧ performed s1 t (at_ pte)) ∧
      (∀ pte s1, home_ = (.ok pte, s1) → natBits pte 4 2 = 2 → exec e s =
        .next (becomes s1 (fun l => { l with stage := .device, pa := at_ pte, elems := l.pieces }))) ∧
      (∀ s1, home_ = (.mig, s1) → exec e s = .next (becomes s1 (fun l => { l with stage := .migrating }))) ∧
      (∀ s1, home_ = (.busy, s1) → exec e s = .next s1) ∧
      (∀ k s1 s2 rec, home_ = (.fault k, s1) → l.handler = false → l.again = false →
        writeRecord s1 (lineRecord s.clock.now l (BitVec.ofNat 8 k) false false) = (s2, some rec) →
        exec e s = .next (s2.withHart (held s2 k rec))) ∧
      (∀ k s1 s2, home_ = (.fault k, s1) → l.handler = false → l.again = false →
        writeRecord s1 (lineRecord s.clock.now l (BitVec.ofNat 8 k) false false) = (s2, none) → exec e s = .next (waits s2)) ∧
      ∀ k s1, home_ = (.fault k, s1) → l.again = true →
        exec e s = .next (becomes s1 (fun l => { l with stage := .held, code := BitVec.ofNat 8 k }))
    (diesStill s = false → contextSaved s r = false → h.stores[i]? = some l → (∀ k ∈ h.stores.take i, k.meets l = false) →
      (∀ e ∈ [(Instr.storeLineTranslate r i, StoreStage.retired), (.migStallResume r i, .migrating)], l.stage = e.2 →
        let l1 := if l.vector then none else some (Place.l1d h.id.core)
        (∀ c, granted s (l.line * 128) l1 (fun c => c.w) = some c →
          (snoopLine s c.pline true = none → ∃ t, exec e.1 s = .next t ∧ performed s t c.pline) ∧
          ∀ s1, snoopLine s c.pline true = some s1 → exec e.1 s = .next s1) ∧
        (granted s (l.line * 128) l1 (fun c => c.w) = none → asked e.1 ∧
          ∀ pte s1, home_ = (.ok pte, s1) → natBits pte 4 2 = 1 →
            exec e.1 s = .next (becomes s1 (fun l => { l with stage := .combining, pa := at_ pte })))) ∧
      (l.stage = .combining → (∀ k j, h.stores[j]? = some k → j ≠ i → k.line = l.line → k.stage ≠ .combining) →
        asked (.storeLineTranslate r i) ∧ ∀ pte s1, home_ = (.ok pte, s1) → natBits pte 4 2 = 1 →
          let pa := at_ pte * 128
          let free := isHbm pa = true ∨ ∀ k ∈ h.stores.take i, k.stage = .combining ∨ k.stage = .window ∨ k.stage = .held ∨
            (k.stage = .device ∧ isHub (k.pa * 128) ≠ isHub pa)
          (¬free → exec (.storeLineTranslate r i) s = .next s1) ∧
          (free → isHost (at_ pte * 128) = true → exec (.storeLineTranslate r i) s =
            .next { becomes s1 (fun l => { l with stage := .window, pa := at_ pte }) with
              windowOps := s1.windowOps ++ windowWrites s l (at_ pte * 128) }) ∧
          (free → isHost (at_ pte * 128) = false → ∃ t, exec (.storeLineTranslate r i) s = .next t ∧ performed s1 t (at_ pte) ∧
            ∀ c ∈ t.lines, c ∈ s1.lines ∧ c.isLine cs l.line = false)) ∧
      (∀ d es pte s1, l.stage = .device → h.stores = [l] → l.elems = d :: es → (∀ w ∈ s.windowOps, w.hart ≠ r) →
        home_ = (.ok pte, s1) → natBits pte 4 2 = 2 → isHost (at_ pte * 128 + d.off / 2) = true → exec (.storeLineTranslate r i) s =
          .next { becomes s1 (fun l => { l with pa := at_ pte }) with
            windowOps := s1.windowOps ++ [{ hart := r, seq := l.seq, idx := d.idx, pa := at_ pte * 128 + d.off / 2
                                            size := max 1 (d.size / 2), write := true, devc := true, data := d.data, mask := d.mask
                                            answer := none }] })) ∧
    ((diesStill s = true ∨ contextSaved s r = true) →
      exec (.storeLineTranslate r i) s = .next s ∧ exec (.migStallResume r i) s = .next s) ∧
    (∀ kind pte s1, (kind = .load ∨ kind = .fetch) → inNear a = false → EntryReady s a → addressOk s s.sp s.pt a = true →
      home s s.sp s.pt a kind = (.ok pte, s1) → isHbm (pteFrame pte) = true → natBits pte 4 2 = 0 →
      ∃ t c, exec (.homeRequest r va kind) s = .next t ∧ t = { s1 with lines := t.lines, backing := t.backing } ∧ c ∈ t.lines ∧
        c.place = .l2 h.id.facet ∧ c.isLine (cacheSpace s.sp a) (a / 128) = true ∧ c.pline = (pteFrame pte + a % 65536) / 128 ∧
        c.r = natBit pte 1 ∧ c.x = natBit pte 3 ∧ c.w = (natBit pte 2 && natBit pte 9) ∧ ∀ e ∈ t.lines, e = c ∨ e ∈ s1.lines) ∧
    ((∀ k ∈ h.stores, k.line = a / 128 → k.stage ≠ .retired) → exec (.homeRequest r va .store) s = .next s) ∧
    (h.stalledAmo a = false → exec (.homeRequest r va .atomic) s = .next s) ∧
    (writes → exec (.frameRelease f) s =
      .next { s with frames := s.frames.map (fun o => if o.frame = f then { o with releasing := true } else o) }) ∧
    (¬writes → exec (.frameRelease f) s = .next s) ∧
    (∀ o, s.frames.find? (fun o => o.frame == f && o.releasing) = some o → ∃ t, exec (.frameReleaseComplete f) s = .next t ∧
      t = { s with frames := s.frames.filter (fun o => o.frame != f), lines := t.lines, walks := t.walks, backing := t.backing } ∧
      ∀ c, c ∈ t.lines ↔ c ∈ s.lines ∧ c.ofPage o.cspace o.vpage = false) ∧
    ((∀ o ∈ s.frames, o.frame = f → o.releasing = false) → exec (.frameReleaseComplete f) s = .next s) ∧
    (served → isHbm pa = true → pa % 64 = 0 →
      (late (pa / 128) → exec (.hostMemAccess pa (some x) hold) s = .next (told .poison)) ∧
      (¬late (pa / 128) → ∃ t, exec (.hostMemAccess pa (some x) hold) s = .next t ∧
        t = { told .written with
          mem := t.mem, backing := t.backing, lines := s.lines.filter (fun c => c.pline != pa / 128) } ∧
        readLE t.mem pa 64 = x.toNat ∧ ∀ e, e < pa ∨ pa + 64 ≤ e → memRead t.mem e = memRead s.mem e) ∧
      (∃ t, exec (.hostMemAccess pa none hold) s = .next t ∧
        t = { told (.data (BitVec.ofNat 512 (readLE s.mem pa 64))) with
          backing := t.backing, hostLines := t.hostLines, lines := t.lines } ∧
        (hold = .noOp → t.hostLines = s.hostLines ∧ t.lines = s.lines) ∧
        (hold = .shared → (∃ k ∈ t.hostLines, k.pline = pa / 128 ∧ k.late = false) ∧
          ∀ c ∈ t.lines, c.pline = pa / 128 → c.w = false ∧ c.own = false) ∧
        (hold = .any → (∃ k ∈ t.hostLines, k.pline = pa / 128 ∧ k.late = false ∧ k.any = true) ∧
          ∀ c ∈ t.lines, c ∈ s.lines ∧ c.pline ≠ pa / 128))) ∧
    (¬served → isHbm pa = true → pa % 64 = 0 → exec (.hostMemAccess pa none hold) s = .next (told .poison) ∧
      exec (.hostMemAccess pa (some x) hold) s = .next (told .dropped)) ∧
    (late line → exec (.hostBirsp line none) s = .next s ∧ exec (.hostBirsp line (some y)) s = .next (told .poison)) ∧
    (¬late line → (∃ k ∈ s.hostLines, k.pline = line ∧ k.snooped ≠ none) →
      exec (.hostBirsp line none) s = .next { s with hostLines := gone } ∧
      (¬served → exec (.hostBirsp line (some y)) s = .next { told .dropped with hostLines := gone }) ∧
      (served → ∃ t, exec (.hostBirsp line (some y)) s = .next t ∧ readLE t.mem (line * 128) 128 = y.toNat ∧
        t = { s with mem := t.mem, backing := t.backing, lines := s.lines.filter (fun c => c.pline != line), hostLines := gone } ∧
        ∀ e, e < line * 128 ∨ line * 128 + 128 ≤ e → memRead t.mem e = memRead s.mem e)) ∧
    ((∃ k ∈ s.hostLines, expired k = true) → exec (.hostSnoopTimeout line) s = .next { s with
      hostLines := s.hostLines.map (fun k => if expired k then { k with late := true } else k)
      boot := { s.boot with
        hostto := true, msix := if s.boot.msixMask.getLsbD 4 then s.boot.msix else s.boot.msix ||| 16 } }) ∧
    ((∀ k ∈ s.hostLines, expired k = false) → exec (.hostSnoopTimeout line) s = .next s) ∧
    exec (.hostToDeviceSnoop line) s = .next s ∧
    (∀ w, s.windowOps.find? (fun k => k.hart == r && k.seq == seq && k.answer.isNone) = some w →
      (w.write = false → exec (.hostWindowCompletion r seq ans) s =
        .next { s with windowOps := s.windowOps.map (fun k => if k = w then { k with answer := some ans } else k) }) ∧
      (w.write = true → ∃ t, exec (.hostWindowCompletion r seq ans) s = .next t ∧ t.windowOps = s.windowOps.erase w ∧
        SameBytes s t ∧ ∀ k ∈ t.hart.stores, ∃ m ∈ h.stores, k = m ∨ k = { m with elems := m.elems.tail, mask := lineMask m.elems.tail }) ∧
      (w.write = true → w.devc = true → ∀ t, exec (.hostWindowCompletion r seq ans) s = .next t → ∀ m ∈ h.stores,
        (m.stage = .device ∧ m.seq = seq ∧ (m.elems.head?.map (fun e => e.idx)) = some w.idx) ∨ m ∈ t.hart.stores)) ∧
    ((h.stream n).queue[i]? = some o → o.rows[j]? = some q → q.complete = false → q.held = false → q.sent = false → h.stores = [] →
      diesStill s = false → s.power.emergency = none → partParked s h.id.part = false → rowsAhead s o < 4 →
      let apart := ∀ b, o.bar = some b → (b + 8 ≤ q.near ∨ q.near + o.len ≤ b) ∧ o.len % (16 * 2 ^ o.swz) = 0
      let arrives (m m' : List Host.Cell) : Prop := ∀ b, o.bar = some b →
        let u := BitVec.ofNat 64 (readLE m b 8)
        let v := BitVec.ofNat 64 (readLE m' b 8)
        let c := BitVec.ofInt 48 ((u.extractLsb' 0 48).toInt - o.len)
        v.extractLsb' 0 48 = c ∧ v.getLsbD 48 = u.getLsbD 48 ∧
        v.getLsbD 49 = (u.getLsbD 49 || (u.getLsbD 48 && decide (c.toInt ≤ 0))) ∧
        v.getLsbD 50 = (u.getLsbD 50 || (u.getLsbD 48 && decide (c.toInt < 0))) ∧ v.extractLsb' 51 13 = u.extractLsb' 51 13
      let over_ : Hart := h.setStream n (Stream.settle ((h.stream n).updRow i j (fun k => { k with complete := true, held := false })))
      let group (k : Nat) : Nat := q.near + 16 * (k ^^^ q.idx % 2 ^ o.swz)
      let spared (e : Nat) : Prop := ∀ b, o.bar = some b → e < b ∨ b + 8 ≤ e
      let chunks := lineChunks q.mem.toNat o.len
      (apart → q.fill = true → ∃ t, exec (.copyRowComplete r n i j) s = .next t ∧ t.hart = over_ ∧
        t.others = s.others ∧ (∀ e, memRead t.mem e = memRead s.mem e) ∧ arrives s.seg t.seg ∧
        ∀ e, spared e → memRead t.seg e = if o.leave = false ∧ q.near ≤ e ∧ e < q.near + o.len then 0 else memRead s.seg e) ∧
      (∀ w s2, apart → q.fill = false → o.kind ≠ .toMemory → Memory.wf s2.seg = true → attemptRow s o q = .over w [] s2 →
        ∃ t, exec (.copyRowComplete r n i j) s = .next t ∧
          t = { s2 with teams := t.teams, windowOps := t.windowOps }.withHart over_ ∧ t.others = s.others ∧
          (∀ x ∈ t.teams, x ∈ s2.teams ∨ (x.uid = h.id.ref.team ∧ ∃ y ∈ s2.teams, x = { y with seg := x.seg })) ∧ arrives s2.seg t.seg ∧
          (∀ k, k < o.len / 16 → readLE t.seg (group k) 16 = w / 2 ^ (128 * k) % 2 ^ 128) ∧
          (o.len % (16 * 2 ^ o.swz) = 0 → ∀ e, spared e → (e < q.near ∨ q.near + o.len ≤ e) →
            memRead t.seg e = memRead s.seg e)) ∧
      (∀ w s2, q.fill = false → o.kind = .toMemory → Memory.wf s2.mem = true → attemptRow s o q = .over w [] s2 →
        ∃ (us : Nat → State) (z : Nat) (t : State), us 0 = s2 ∧
          (∀ k, k < o.len / 16 → z / 2 ^ (128 * k) % 2 ^ 128 = readLE s.seg (group k) 16) ∧
          (∀ k c, chunks[k]? = some c →
            let u := us k
            let u' := us (k + 1)
            let a := (q.mem + BitVec.ofNat 64 c.1).toNat
            let bytes := z / 2 ^ (8 * c.1) % 2 ^ (8 * c.2)
            let copy := (granted u a none (fun c => c.w)).or (granted s2 a none (fun c => c.w))
            let wrote (m : List Host.Cell) (p : Nat) : Prop :=
              readLE u'.mem p c.2 = bytes ∧ ∀ e, e < p ∨ p + c.2 ≤ e → memRead u'.mem e = memRead m e
            (∀ d, copy = some d → wrote u.mem (d.pline * 128 + a % 128)) ∧
            (copy = none → ∀ pte u1, home u u.sp u.pt a .store = (.ok pte, u1) →
              let pa := pteFrame pte + a % 65536
              (isHbm pa = true → wrote u1.mem pa) ∧
              (isHbm pa = false → u' = { u1 with windowOps := u1.windowOps ++
                (windowWrites u (chunkLine u o a c.2 bytes) (pa / 128 * 128)).map (fun w => { w with idx := q.key c.1 }) }))) ∧
          exec (.copyRowComplete r n i j) s = .next t ∧ t.mem = (us chunks.length).mem ∧ t.others = s.others ∧
          (∀ e, spared e → memRead t.seg e = memRead s.seg e) ∧
          (rowInFlight (us chunks.length) o q = false → t.hart = over_ ∧ arrives s.seg t.seg) ∧
          (rowInFlight (us chunks.length) o q = true → t.seg = s.seg ∧
            t.hart = h.setStream n ((h.stream n).updRow i j (fun k => { k with sent := true })))) ∧
      (∀ w e rest s2 s3, q.fill = false → o.handler = false → attemptRow s o q = .over w (e :: rest) s2 →
        writeRecord (forgetRow s o q) (rowRecord s.clock.now o q (e :: rest) false) = (s3, none) →
        exec (.copyRowFault r n i j) s = .next (s3.withHart (h.setStream n ((h.stream n).updRow i j (fun k =>
          { k with found := some (k.found.getD s.clock.now) }))))) ∧
      (∀ w e rest s2 s3 rec, q.fill = false → o.handler = false → attemptRow s o q = .over w (e :: rest) s2 →
        writeRecord (forgetRow s o q) (rowRecord s.clock.now o q (e :: rest) false) = (s3, some rec) →
        ∃ t, exec (.copyRowFault r n i j) s = .next t ∧ t.mem = s3.mem ∧ t.hart.recs = h.recs ++ [rec] ∧
          t.hart.streams = vset h.streams n.toNat ((h.stream n).updRow i j (fun k =>
            { k with held := true, code := BitVec.ofNat 8 e.2, delivered := false, found := none }))))

/-! ## The lane allocator (chapter 6) -/

/-- R64, R134 to R137, R143, R148, R155, R158, R160, R379, R380: a waiting request rises by a class for each 256 µs; a `setvl` that waits is
granted when a value fits; a released hart is bound again at its VL before its next entry starts; a fold halves a hart's groups and an
unfold doubles them: VL, its registers and what they hold stay as they are; a context that is switched out is not folded before its save;
the governor folds nothing on a cluster within its allowance of a facet within its budget, which is a reading of when its third step folds
(log 17). Which groups are taken and kept is the model's choice (log 13), as is that an event whose condition does not hold leaves the
state (log 14). -/
def Obligations.LaneEvents : Prop :=
  ∀ (s : State) (r : HartRef) (e : VqEntry) (q : List VqEntry) (d a : GReg) (k : BitVec 2) (m : Nat) (g : GrantReq) (i : Instr),
    Runs s r →
    let h := s.hart
    let l := h.ln
    let alone := ∀ x ∈ s.others, x.id.clusterKey ≠ h.id.clusterKey ∧ groupsOf h.id.clusterKey x.buffered = []
    let pays (n : Nat) (square : Bool) : Prop := ∀ g, s.power.gov[h.id.facet]? = some g →
      n * (if square then 94 else 60) * g.ratio ≤ vget g.allow h.id.cluster 0 * 1000
    let wanted := min (2 ^ Nat.log2 (min (max e.opa.toNat 512) 65536)) l.vlmax
    let rebacked (u : State) : Prop := u.hart = { h with ln := u.hart.ln } ∧ u.hart.ln.len = l.len ∧ u.hart.ln.trim = l.trim ∧
      u.others = s.others ∧ u.teams = s.teams ∧ SameBytes s u
    (l.req = some g → (∀ x ∈ s.others, x.id.ref ≠ r) →
      (0 < g.effective → 256000 * (g.raised + 1) ≤ s.clock.ran - g.arrived → exec (.laneRequestAge r) s =
        .next (s.withHart { h with ln := { l with req := some { g with raised := g.raised + 1 } } })) ∧
      ((g.effective = 0 ∨ s.clock.ran - g.arrived < 256000 * (g.raised + 1)) → exec (.laneRequestAge r) s = .next s)) ∧
    (h.vq = e :: q → e.instr = some (.setvl d a k) → l.req = some g → alone → l.vlmax = 2 ^ m → 9 ≤ m → m ≤ 16 →
      pays (wanted / 512) (k.getLsbD 0) → (k.getLsbD 0 = true → (sideOf wanted).isSome = true) →
      ∃ u, exec (.setvlGrant r) s = .next u ∧ OnlyG s u d (BitVec.ofNat 64 wanted) ∧ u.hart.ln.len = wanted ∧ u.hart.ln.req = none ∧
        u.hart.ln.groups.length = wanted / 512 ∧ u.hart.ln.fold = 0 ∧ u.hart.ln.released = false ∧ u.hart.ln.tv = false ∧
        (l.len = wanted → u.hart.vec = h.vec) ∧ OnlyHart { s with nextUid := s.nextUid + 1 } u
          { h with sc := { h.sc with g := u.hart.sc.g }, ln := u.hart.ln, vec := u.hart.vec, vq := q }) ∧
    (h.vq = e :: q → e.instr = some i → needsNoBacking i = false → l.released = true → alone → l.len = 2 ^ m → 9 ≤ m → m ≤ 16 →
      pays (l.len / 512) l.square → ∃ u, exec (.rebind r) s = .next u ∧ rebacked u ∧ u.hart.ln.released = false ∧
        u.hart.ln.fold = 0 ∧ u.hart.ln.groups.length = l.len / 512) ∧
    (l.released = false → exec (.rebind r) s = .next s) ∧
    (foldableNow s h = true → (foldAsked s h = true ∨ foldByGovernor s h = true) →
      ∃ u, exec (.fold r 0) s = .next u ∧ rebacked u ∧ u.hart.ln.fold = l.fold + 1 ∧
        u.hart.ln.groups = l.groups.take (l.groups.length / 2) ∧ u.hart.ln.folds.toNat = min 65535 (l.folds.toNat + 1) ∧
        (foldAsked s h = false → (u.gov h.id.facet).gfold = true)) ∧
    ((l.groups = [] ∨ 3 ≤ l.fold ∨ h.tr.voff = true) → exec (.fold r 0) s = .next s) ∧
    (foldAsked s h = false → (s.gov h.id.facet).excess = false →
      clusterCost s h.id.facet h.id.cluster (s.gov h.id.facet).ratio ≤ vget (s.gov h.id.facet).allow h.id.cluster 0 →
      exec (.fold r 0) s = .next s) ∧
    (0 < l.fold → l.released = false → deviceBusy s h = false → governorFolds s h.id.facet = false → alone → 2 * l.groups.length ≤ 128 →
      pays (2 * l.groups.length) l.square → ∃ u, exec (.unfold r) s = .next u ∧ rebacked u ∧ u.hart.ln.fold = l.fold - 1 ∧
        u.hart.ln.groups.length = 2 * l.groups.length ∧ ∀ x ∈ l.groups, x ∈ u.hart.ln.groups) ∧
    (l.fold = 0 → exec (.unfold r) s = .next s)

/-! ## Modules and partitions (chapters 1 and 3) -/

/-- R22, R24 to R26, R38, R53, R54: a module that passes every check is installed whole under the lowest free number; one that fails a
check changes nothing but what jxload reports: the step that refuses it. A module with no queue, no team and no timed message of its own is
removed; both work through the host's accesses of HBM, so only while those are served. A partition is enabled when its facets and its VLP
are legal and free; OUT halts it, its teams stop and it stands in the shadow; IN brings it back to RUNNING, a team that holds no lanes
where it was, once its stores are performed or held; a shadow that another partition's takes is written to HBM. Addresses, frames and
tables come with the event, and a removed module's stack pages stay mapped (log 19); a stopped team stays in State (log 22); that a
partition on its way back holds its facets (log 29), which step reports a refusal (log 45), and that an event whose condition does not hold
leaves the state (log 14), are the model's choice or reading. -/
def Obligations.ModulesAndPartitions : Prop :=
  ∀ (s : State) (space part num modNo : Nat) (file : List Byte) (plan : LoadPlan) (placed : List (SectionEnt × Nat)) (p : BitVec 3),
    let x := s.part p.toNat
    let mods := (s.space space).modules
    let put (y : Partition) : State := { s with parts := vset s.parts p.toNat y }
    let clash := ∃ q, q < 8 ∧ q ≠ p.toNat ∧ (s.part q).holds = true ∧ (s.part q).facets &&& x.facets ≠ 0
    let legal := x.facets ≠ 0 ∧ 9 ≤ x.logVlp.toNat ∧ x.logVlp.toNat ≤ 16
    let works := s.boot.state = .ready ∨ s.boot.state = .emergency
    let told (a : LoadAnswer) : Option LoadReport := some { space := space, answer := a }
    let serves := (s.boot.state = .ready ∧ s.boot.memok = true) ∨
      (s.boot.state = .emergency ∧ ∀ e, s.power.emergency = some e → e.stage < 3)
    (¬serves → exec (.moduleLoad space part file plan) s = .next { s with loadReport := told .unchanged } ∧
      exec (.moduleRemove space modNo) s = .next { s with loadReport := told .unchanged }) ∧
    (serves → (∀ n, loadRefusal s space part file = some n →
        exec (.moduleLoad space part file plan) s = .next { s with loadReport := told (.refused n) }) ∧
      (∀ vlc s1, placedSections (fileSections file) plan.bases = some placed → loadRefusal s space part file = none →
        clampedMax s part file = some vlc → planOk s space part file placed plan = true → mapModule s space part file placed plan = some s1 →
        freeModule (s.space space) = some num →
        ∃ t m, exec (.moduleLoad space part file plan) s = .next t ∧
          t = { s1 with spaces := t.spaces, loadReport := told (.installed num) } ∧
          (t.space space).modules = m :: (s1.space space).modules ∧ (∀ j, j ≠ space → t.space j = s1.space j) ∧ m.num = num ∧
          (∀ j, j < num → ∃ k ∈ mods, k.num = j) ∧ (∀ k ∈ mods, k.num ≠ num) ∧ m.vlc = vlc ∧
          m.vlmin = 2 ^ fileLE file 8 1 ∧ m.vlmax = 2 ^ fileLE file 9 1 ∧ m.crc.toNat = fileLE file 0x20 4 ∧
          m.handlers.length = fileLE file 0x0A 2 ∧ m.sections.length = placed.length)) ∧
    (∀ m, mods.find? (fun k => k.num == modNo) = some m →
      (serves → (∀ q ∈ s.queues, q.space.toNat = space → q.modNo.toNat = modNo →
          q.en = false ∧ q.held = [] ∧ ∀ k ∈ s.timers, k.queue ≠ q.num) →
        (∀ k ∈ s.teams, k.space.toNat = space → k.modNo ≠ modNo) → ∃ t, exec (.moduleRemove space modNo) s = .next t ∧
          t = { s with
            mem := t.mem, backing := t.backing, lines := t.lines, walks := t.walks, spaces := t.spaces
            loadReport := told (.removed modNo) } ∧
          (t.space space).modules = mods.filter (fun k => k.num != modNo) ∧ (∀ j, j ≠ space → t.space j = s.space j)) ∧
      ((∃ k ∈ s.teams, k.space.toNat = space ∧ k.modNo = modNo) →
        exec (.moduleRemove space modNo) s = .next { s with loadReport := told .unchanged })) ∧
    (works → x.en = false → legal → ¬clash → exec (.partitionEnable p) s = .next (put { x with en := true })) ∧
    (works → x.en = false → (¬legal ∨ clash) → exec (.partitionEnable p) s = .next (put { x with badcfg := true })) ∧
    (works → x.state = .running → exec (.partitionOut p) s = .next (put { x with state := .halting })) ∧
    (works → x.state ≠ .running → exec (.partitionOut p) s = .next (put { x with badcfg := true })) ∧
    (works → (x.state = .shadow ∨ x.state = .hbm) → ¬clash → exec (.partitionIn p) s = .next (put { x with restoring := true })) ∧
    (works → (x.state = .running ∨ x.state = .halting ∨ clash) →
      exec (.partitionIn p) s = .next (put { x with badcfg := true })) ∧
    (¬works → ∀ i ∈ [Instr.partitionEnable p, .partitionOut p, .partitionIn p], exec i s = .next s) ∧
    (x.state = .halting → s.boot.state = .ready → s.power.emergency = none → (∀ t ∈ s.teams, t.part = p → t.live = true →
      stoppable s t.uid = true) →
      ∃ t, exec (.partitionHaltComplete p) s = .next t ∧ (t.part p.toNat).state = .shadow ∧
        (∀ q, q < 8 → q ≠ p.toNat → t.part q = if (s.part q).state = .shadow ∧ (s.part q).facets &&& x.facets ≠ 0 then
          { s.part q with state := .hbm } else s.part q) ∧
        t = { s with
          hart := t.hart, others := t.others, teams := t.teams, parts := t.parts
          farms := t.farms, windowOps := t.windowOps, mem := t.mem, backing := t.backing, lines := t.lines } ∧
        ((∀ q, q < 8 → q ≠ p.toNat → (s.part q).state = .shadow → (s.part q).facets &&& x.facets = 0) →
          t.mem = s.mem ∧ t.backing = s.backing ∧ t.lines = s.lines) ∧
        (∀ k ∈ t.teams, k.part = p → k.live = false) ∧ (∀ k ∈ s.teams, k.part = p → k.live = true →
          ∃ y ∈ t.teams, y = { k with status := .stopped .parked, bars := y.bars }) ∧
        ∀ k ∈ s.teams, k.part = p → k.live = true → ∀ h ∈ t.harts, h.id.ref.team = k.uid → h.ln.groups = [] ∧ h.ln.req = none) ∧
    ((x.state ≠ .halting ∨ s.boot.state ≠ .ready ∨ s.power.emergency ≠ none) →
      exec (.partitionHaltComplete p) s = .next s) ∧
    (x.restoring = true → s.boot.state = .ready → s.power.emergency = none →
      ((∀ t ∈ s.teams, t.part ≠ p) →
        exec (.partitionRestoreComplete p) s = .next (put { x with state := .running, restoring := false })) ∧
      (∀ k, s.teams = [k] → k.part = p → k.status = .stopped .parked →
        (∀ h ∈ s.harts, h.id.ref.team = k.uid →
          (h.ln.len = 0 ∨ h.ln.released = true) ∧ ∀ l ∈ h.stores, l.stage = .held) → (∀ n ∈ k.slots, n < 512) →
        ∃ t y, exec (.partitionRestoreComplete p) s = .next t ∧ t.team? k.uid = some y ∧ y.status = .resident ∧
          y.facet = k.facet ∧ y.cluster = k.cluster ∧ y.slots = k.slots ∧ y.seg = k.seg ∧ (t.part p.toNat).state = .running ∧
          (t.part p.toNat).restoring = false ∧ t.mem = s.mem ∧ t.lines = s.lines)) ∧
    ((x.restoring = false ∨ s.boot.state ≠ .ready ∨ s.power.emergency ≠ none) → exec (.partitionRestoreComplete p) s = .next s)

/-! ## Messages, dispatch and placement (chapters 2 and 3) -/

/-- R27 to R29, R31 to R34, R38, R39, R42, R43, R45, R260, R411, R415, R433: `launch` reads its 64 bytes, from the segment, a cached
copy or the frame of its page, once the vector queue is empty and its release is done, and gives the disposition of the message; held
stores make it trap with 0x09, and it performs nothing; one that passes every check stands in the first free entry of the ring, or in
the timer unit when it names an instant; a wake write, a timer that is due and a peer's message take the same way; a message for another
device takes its place at its port (log 46). A refused message of a hart shows in gd alone; any other is counted and recorded. A queue
is enabled when its configuration is legal. A message whose ring entry, or the translation of it, needs a line that the host holds waits
for the host's answer: a launch at its instruction, a timed one in the timer unit, one of the host or a peer on its link with those behind
it (R252, R408; where it waits is the model's choice, log 33). How an instruction waits is the model's choice (log 1). The launch event
records are a list (log 16), and the space and partition of a ring entry are a reading (log 33). That an event whose condition does not
hold leaves the state is the model's choice (log 14). -/
def Obligations.Messages : Prop :=
  ∀ (s : State) (d a : GReg) (i : BitVec 11) (qn dev : Nat) (m : BitVec 512) (slot pa : Nat) (port : BitVec 3) (n : BitVec 12),
    qn ≤ 0xFFFF → dev < 256 → Memory.wf s.mem = true →
    let q := s.queue qn
    let own := dev = s.devnum.toNat
    let up (st : HostState) : Prop := st = .ready ∨ st = .emergency
    let sound (m : BitVec 512) : Prop := malformed m = false ∧ mustUnd s q m = false
    let room (s : State) := q.en = true ∧ s.boot.state ≠ .tripped ∧ q.freeEntry = some slot ∧ ringEntry s q slot = some pa
    let due (m : BitVec 512) : Option Int := (optValue s q m 1).map (resolveInstant s.clock.now)
    let enters (s t : State) (m : BitVec 512) (dl : Option Int) (o : Origin) : Prop :=
      t = { s with mem := t.mem, backing := t.backing, lines := t.lines, queues := t.queues } ∧
      t.queue qn = { q with
        held := slot :: q.held, lastSlot := some slot
        pending := q.pending ++ [{ slot := slot, msg := m, deadline := dl, origin := o }] } ∧
      (∀ k, k ≠ qn → t.queue k = s.queue k) ∧ readLE t.mem pa 64 = m.toNat ∧
      ∀ e, e < pa ∨ pa + 64 ≤ e → memRead t.mem e = memRead s.mem e
    let drops (s t : State) (m : BitVec 512) (code : BitVec 8) (o : Origin) : Prop :=
      (t.queue qn).lastCode = code ∧ (t.queue qn).drops.toNat = min 65535 (q.drops.toNat + 1) ∧ (t.queue qn).pending = q.pending ∧
      t.events = s.events ++
        [{ time := s.clock.now, part := q.part, queue := BitVec.ofNat 16 qn, msgType := msgType m, code := code, origin := o }] ∧
      t = { s with queues := t.queues, events := t.events, boot := { s.boot with msix := t.boot.msix } }
    let queued (o : Origin) (e : Instr) : Prop :=
      (∀ s1, s.inbound = [] → ringWaits s (.of o) qn m false = some s1 →
        exec e s = .next { s1 with inbound := [{ origin := o, queue := qn, msg := m }] }) ∧
      (s.inbound ≠ [] → exec e s = .next { s with inbound := s.inbound ++ [{ origin := o, queue := qn, msg := m }] })
    let fired (x : Timed) : Sender := { origin := .timer, owner := x.launched, hart := none }
    let legal := q.ringVa.toNat % 4096 = 0 ∧ q.logDepth.toNat ≤ 14 ∧ (q.mod? s).isSome = true ∧
      (q.strm = true → 1 ≤ q.slines.toNat ∧ q.slines.toNat ≤ 8192 ∧ q.timeout ≠ 0)
    let dest := s.g d
    let at_ := s.ea a i
    let msg := BitVec.ofNat 512 (readLE s.seg (nearOff at_) 64)
    let sc : Scope := if own then .package else .system
    let copy (p : Place) : Option CacheLine := copyAt s p (cacheSpace s.sp at_.toNat) (at_.toNat / 128)
    let l1 := Place.l1d s.hart.id.core
    let l2 := Place.l2 s.hart.id.facet
    let waits (s : State) (w : Wait) : Prop := exec (.launch d a i) s = .next (s.withHart { s.hart with wait := w })
    let open_ := q.part = s.hart.id.part ∧ (q.space = s.hart.id.space ∨ q.openq = true)
    (at_.toNat % 64 ≠ 0 → exec (.launch d a i) s = trapAt s 0x06 at_) ∧
    let results (s1 : State) (msg : BitVec 512) : Prop :=
      let answers (code : BitVec 8) : Prop := Gives (exec (.launch d a i) s) s1 d (BitVec.ofNat 64 code.toNat)
      (dest.toNat / 2 ^ 24 ≠ 0 → answers 4) ∧ (∀ s2, launchWaits s1 dest msg = some s2 → waits s2 .committed) ∧
      (dest.toNat / 2 ^ 24 = 0 →
        (malformed msg = true → answers 4) ∧
        (own → malformed msg = false → ¬open_ → answers 9) ∧
        (own → malformed msg = false → open_ → (q.en = false ∨ s.boot.state = .tripped) → answers 2) ∧
        (own → malformed msg = false → open_ → q.en = true → s.boot.state ≠ .tripped → mustUnd s q msg = true → answers 3) ∧
        (own → sound msg → open_ → q.en = true → s.boot.state ≠ .tripped → (optValue s q msg 2).isSome = true →
          16384 ≤ s.timers.length → answers 10) ∧
        (own → sound msg → open_ → q.en = true → s.boot.state ≠ .tripped → optValue s q msg 2 = none → q.freeEntry = none → answers 1) ∧
        (own → sound msg → open_ → room s1 → launchWaits s1 dest msg = none → optValue s q msg 2 = none →
          ∃ u, enters s1 u msg (due msg) .launch ∧
          Gives (exec (.launch d a i) s) u d 0) ∧
        (∀ v, own → sound msg → open_ → room s1 → launchWaits s1 dest msg = none → optValue s q msg 2 = some v → s.timers.length < 16384 →
          Gives (exec (.launch d a i) s) { s1 with
            timers := s.timers ++ [{ at_ := resolveInstant s.clock.now v, queue := qn, msg := msg, deadline := due msg
                                     launched := some (s.hart.id.space, s.hart.id.part) }] } d 0) ∧
        (∀ p, ¬own → malformed msg = false → routeTo s dev = some p → ∃ ps,
          Gives (exec (.launch d a i) s) { s1 with ports := ps } d 0 ∧ ∀ x, s.ports[p]? = some x → ∃ y, ps[p]? = some y ∧
            y = { x with flight := y.flight } ∧ y.flight = atEgress
              { device := BitVec.ofNat 8 dev, queue := qn, msg := msg, origin := .launch, part := s.hart.id.part
                source := some s.hart.id.ref, cls := msgClass msg } x.flight) ∧
        (¬own → malformed msg = false → routeTo s dev = none → answers 6))
    (NoElementRead s → dest.toNat % 2 ^ 16 = qn → dest.toNat / 2 ^ 16 % 2 ^ 8 = dev →
      (InSegment s at_ 64 →
        (ReleaseReady s sc → results s msg) ∧ (s.hart.vq ≠ [] → waits s .commitQueue) ∧
        (s.hart.vq = [] → (∃ l ∈ s.hart.stores, l.stage = .held) → exec (.launch d a i) s = trapAt s 0x09 at_) ∧
        (s.hart.vq = [] → (∀ l ∈ s.hart.stores, l.stage ≠ .held) → (∃ l ∈ s.hart.stores, l.reached sc = false) → waits s .committed)) ∧
      (MappedAt s at_ 64 → ReleaseReady s sc →
        (∀ c, (copy l1 = some c ∨ ((∀ e, copy l1 = some e → e.r = false) ∧ copy l2 = some c)) → c.r = true →
          ∃ ls, (∀ e ∈ ls, (∃ k ∈ s.lines, e = k ∨ e = { k with own := false }) ∨ e = { c with place := l1, own := false }) ∧
            results { s with lines := ls } (BitVec.ofNat 512 (readLE s.mem (c.pline * 128 + at_.toNat % 128) 64))) ∧
        ((∀ e, (copy l1 = some e ∨ copy l2 = some e) → e.r = false) →
          (∀ pte s1, home s s.sp s.pt at_.toNat .load = (.ok pte, s1) → isHbm (pteFrame pte) = true → ∃ ls bk,
            results { s1 with lines := ls, backing := bk } (BitVec.ofNat 512 (readLE s1.mem (pteFrame pte + at_.toNat % 65536) 64))) ∧
          (∀ k s1, home s s.sp s.pt at_.toNat .load = (.fault k, s1) →
            exec (.launch d a i) s = trapAt s1 (BitVec.ofNat 8 k) at_) ∧
          ∀ s1, home s s.sp s.pt at_.toNat .load = (.mig, s1) ∨ home s s.sp s.pt at_.toNat .load = (.busy, s1) →
            exec (.launch d a i) s = .next (s1.withHart { s.hart with wait := .committed })))) ∧
    (up s.boot.state → sound m →
      (room s → optValue s q m 2 = none → s.inbound = [] → ringWaits s (.of .host) qn m false = none →
        ∃ t, exec (.wakeWrite (qn * 64) 64 m) s = .next t ∧ enters s t m (due m) .host) ∧
      (q.en = false → s.inbound = [] → ∃ t, exec (.wakeWrite (qn * 64) 64 m) s = .next t ∧ drops s t m 2 .host) ∧
      queued .host (.wakeWrite (qn * 64) 64 m)) ∧
    (up s.boot.state → ∃ t, exec (.wakeWrite (qn * 64 + 8) 8 m) s = .next t ∧ drops s t m 4 .host) ∧
    (∀ x, s.ports[port.toNat]? = some x → x.en = true → x.up = true → up s.boot.state → own → mustUnd s q m = false →
      (room s → optValue s q m 2 = none → s.inbound = [] → ringWaits s (.of .peer) qn m false = none →
        ∃ t, exec (.peerMessageReceive port (BitVec.ofNat 8 dev) qn m) s = .next t ∧ enters s t m (due m) .peer) ∧
      (q.en = false → s.inbound = [] →
        ∃ t, exec (.peerMessageReceive port (BitVec.ofNat 8 dev) qn m) s = .next t ∧ drops s t m 2 .peer) ∧
      queued .peer (.peerMessageReceive port (BitVec.ofNat 8 dev) qn m)) ∧
    (∀ x, s.ports[port.toNat]? = some x → (x.en = false ∨ x.up = false) →
      exec (.peerMessageReceive port (BitVec.ofNat 8 dev) qn m) s = .next s) ∧
    (∀ x rest, s.inbound = x :: rest →
      (takesMessages s = false → takeInbound s = s) ∧
      (up s.boot.state → (∀ s1, ringWaits s (.of x.origin) x.queue x.msg false = some s1 → takeInbound s = s1) ∧
        (x.queue = qn → ringWaits s (.of x.origin) qn x.msg false = none → mustUnd s q x.msg = false →
          (room s → optValue s q x.msg 2 = none → enters { s with inbound := rest } (takeInbound s) x.msg (due x.msg) x.origin) ∧
          (q.en = false → x.origin ≠ .launch → drops { s with inbound := rest } (takeInbound s) x.msg 2 x.origin)))) ∧
    (∀ rest, s.agenda = .inbound :: rest → step s = .next (takeInbound { s with agenda := rest })) ∧
    (∀ x, s.timers = [x] → x.queue = qn → up s.boot.state →
      (x.at_ ≤ (s.clock.now.toNat : Int) → denied q x.launched = true →
        ∃ t, exec (.timerFire 0) s = .next t ∧ drops { s with timers := [] } t x.msg 9 .timer) ∧
      (x.at_ ≤ (s.clock.now.toNat : Int) → denied q x.launched = false → mustUnd s q x.msg = false →
        (room s → ringWaits s (fired x) qn x.msg true = none →
          ∃ t, exec (.timerFire 0) s = .next t ∧ enters { s with timers := [] } t x.msg x.deadline .timer) ∧
        (∀ s1, ringWaits s (fired x) qn x.msg true = some s1 → exec (.timerFire 0) s = .next s1) ∧
        (q.en = false → ∃ t, exec (.timerFire 0) s = .next t ∧ drops { s with timers := [] } t x.msg 2 .timer)) ∧
      ((s.clock.now.toNat : Int) < x.at_ → exec (.timerFire 0) s = .next s)) ∧
    (¬up s.boot.state → ∀ j ∈ [Instr.timerFire 0, .queueEnable qn, .queueDisable qn, .queueMaxteamsWrite qn n], exec j s = .next s) ∧
    (up s.boot.state → (q.en = false → legal → exec (.queueEnable qn) s = .next (s.setQueue { q with en := true, drops := 0 })) ∧
      (q.en = false → ¬legal → exec (.queueEnable qn) s = .next (s.setQueue { q with badcfg := true })) ∧
      (q.en = true → exec (.queueEnable qn) s = .next s)) ∧
    (up s.boot.state → ∃ t u, exec (.queueDisable qn) s = .next t ∧ exec (.queueMaxteamsWrite qn n) s = .next u ∧
      t.queue qn = { q with en := false } ∧ u.queue qn = { q with maxTeams := n } ∧
      (∀ k, k ≠ qn → t.queue k = s.queue k ∧ u.queue k = s.queue k) ∧
      t = { s with queues := t.queues, hart := t.hart, others := t.others, teams := t.teams, farms := t.farms } ∧
      u = { s with queues := u.queues, hart := u.hart, others := u.others, teams := u.teams, farms := u.farms } ∧
      ∀ x ∈ s.teams, (x.queue ≠ qn ∨ (∃ h ∈ s.harts, h.id.ref.team = x.uid ∧ runsHandler h = true)) →
        (∀ y ∈ s.teams, y.uid = x.uid → y = x) → x ∈ t.teams ∧ x ∈ u.teams)

/-- R10, R11, R35 to R37, R41, R47, R49, R50, R53, R56 to R58, R60, R61, R398: Onyx serves a pending queue of the highest class; its
head message is retired when late or unbound, starts a farm, or goes to a free hart. A handler starts with the state of R10 once its
initial grant is made. A team is placed on the first cluster with room, a GANG farm whole or not at all; for RT and HIGH the team of the
lowest class, of these the one started last, is pre-empted where that makes room, its harts' state kept. A team moves and resumes with
its harts' state; an idle server retires; a stream's entry drains after its timeout and is freed. The stack region, that a launch waits
for one, the lowest free harts as a team's slots and the descriptor that a message keeps from its dispatch are the model's choice (log 25),
as are how far a resumed hart is folded and on which cluster it resumes (log 50), and DEADLINE looked at when a message comes to the front
(log 53); a retired message's record stands in the list of events (log 16). Whose class a team has, that a victim must make room and which
victim it is (R60) are readings or choices of log 40; that a retired message counts in no DROPS, and what holds a resumption, are readings
(logs 32, 29). That an event whose condition does not hold leaves the state is the model's choice (log 14). -/
def Obligations.DispatchAndPlacement : Prop :=
  ∀ (s : State) (choice uid f c i m : Nat) (r : HartRef) (why : StopReason),
    let now := s.clock.now
    let h := s.hart
    let alone := ∀ x ∈ s.others, x.id.clusterKey ≠ h.id.clusterKey ∧ groupsOf h.id.clusterKey x.buffered = []
    let spilled (a b : Hart) : Prop :=
      b = { a with ln := { a.ln with spillNear := b.ln.spillNear, spillHbm := b.ln.spillHbm } }
    let settled (u : State) (k : Team) (f c : Nat) (slots : List Nat) : Prop := ∃ y, u.team? k.uid = some y ∧ y.status = .resident ∧
      y.facet = f ∧ y.cluster = c ∧ y.slots = slots ∧ y.seg = k.seg ∧ y.teamId = k.teamId ∧ u.mem = s.mem ∧ u.lines = s.lines
    let gone (t : State) (q : Queue) (x : RingMsg) (code : BitVec 8) : Prop :=
      t.queue q.num = { q with pending := q.pending.tail, held := q.held.erase x.slot } ∧ t.events = s.events ++
        [{ time := now, part := q.part, queue := BitVec.ofNat 16 q.num, msgType := msgType x.msg, code := code, origin := x.origin }] ∧
      t = { s with queues := t.queues, events := t.events, served := t.served, boot := { s.boot with msix := t.boot.msix } }
    ((∀ q ∈ s.queues, pendingQueue s q = false) → exec (.onyxDispatch choice) s = .next s) ∧
    (∀ q x rest, nextQueue s = some q → q.pending = x :: rest →
      (q ∈ s.queues ∧ pendingQueue s q = true ∧ ∀ k ∈ s.queues, pendingQueue s k = true → queueClass s q ≤ queueClass s k) ∧
      (x.late now = true → ∃ t, exec (.onyxDispatch choice) s = .next t ∧ gone t q x 7) ∧
      (x.late now = false → (∀ md, q.mod? s = some md → md.handler? (msgType x.msg) = none) →
        ∃ t, exec (.onyxDispatch choice) s = .next t ∧ gone t q x 8) ∧
      (∀ md hd, x.late now = false → q.mod? s = some md → md.handler? (msgType x.msg) = some hd →
        (q.perTeam = true → ∃ t p fm, exec (.onyxDispatch choice) s = .next t ∧ t.placing = s.placing ++ [p] ∧ p.farm = s.nextUid ∧
          p.perTeam = true ∧ p.first = 0 ∧ p.count = (optValue s q x.msg 3).getD 1 ∧ p.cls = effClass q md x.msg ∧ p.ring = x ∧
            p.desc = q ∧ p.gang = md.gang ∧
          t.farms = s.farms ++ [fm] ∧ fm.uid = s.nextUid ∧ fm.nteams = p.count ∧ fm.gang = md.gang ∧ fm.slot = x.slot ∧
          (t.queue q.num).pending = rest ∧ t.harts = s.harts ∧ t.teams = s.teams ∧ t.mem = s.mem) ∧
        (q.perTeam = false → freeHarts s q ≠ [] → ∃ t k ref, exec (.onyxDispatch choice) s = .next t ∧ k ∈ freeHarts s q ∧
          (∀ y ∈ t.harts, y.id.ref = k.id.ref → y.run = .assigned ∧ y.msg = some ref) ∧
          (∀ y ∈ s.harts, y.id.ref ≠ k.id.ref → y ∈ t.harts) ∧ ref.queue = q.num ∧ ref.slot = x.slot ∧ ref.entry = hd.entry ∧
          ref.msgVa = q.ringVa.setWidth 64 + BitVec.ofNat 64 (x.slot * 64) ∧
          ref.argPtr = (if msgArg x.msg = 0 then q.argDef.setWidth 64 else msgArg x.msg) ∧ ref.cls = effClass q md x.msg ∧
          (t.queue q.num).pending = rest ∧ (t.queue q.num).held = q.held ∧ t.placing = s.placing ∧ t.mem = s.mem))) ∧
    (∀ g, h.run = .assigned → h.id.ref = r → isOut s r = false → h.msg = some g → h.ln.req = none → alone → h.ln.vlmax = 2 ^ m →
      9 ≤ m → m ≤ 16 →
      let vl := min (2 ^ Nat.log2 (min (max g.request 512) 65536)) h.ln.vlmax
      (∀ v, s.power.gov[h.id.facet]? = some v → vl / 512 * 60 * v.ratio ≤ vget v.allow h.id.cluster 0 * 1000) →
      ∃ t, exec (.handlerEntry r) s = .next t ∧ t.hart.run = .running ∧ t.hart.sc.pc = g.entry ∧ t.g 1 = g.argPtr ∧ t.g 2 = g.msgVa ∧
        t.g 3 = BitVec.ofNat 64 h.id.ref.idx ∧ t.g 4 = BitVec.ofNat 64 h.id.teamSize.toNat ∧ t.g 62 = stackTop s ∧
        (∀ x : GReg, x ∉ [1, 2, 3, 4, 62] → t.g x = 0) ∧ t.hart.sc.frm = 0 ∧ t.hart.sc.fflags = 0 ∧ t.hart.sc.prio = g.cls ∧
        t.hart.sc.srseed = h.sc.srseed ∧ t.hart.sc.iseq = h.sc.iseq ∧ t.hart.vec = VecState.zero ∧ t.hart.ln.len = vl ∧
        t.hart.ln.tv = false ∧ t.hart.ln.vstart = 0 ∧ t.hart.ln.groups.length = vl / 512 ∧ t.hart.vq = [] ∧ t.hart.tr.hm = false ∧
        vget t.hart.tr.save 0 0 = (s.space s.sp).targ ∧ (∀ n, (t.hart.stream n).queue = [] ∧ (t.hart.stream n).ops = 0) ∧
        t.hart.bars = h.bars ∧ t = { s with hart := t.hart, nextUid := s.nextUid + 1 }) ∧
    (∀ p md hd slots k, s.placing = [p] → p.perTeam = true → p.count ≠ 0 → partOpen s p.desc.part = true → p.halted s = false →
      p.gang = false →
      p.desc.mod? s = some md → md.gang = false → (∀ x, s.farm? p.farm = some x → x.gang = false) →
      md.handler? (msgType p.ring.msg) = some hd → ¬(p.first = 0 ∧ p.ring.late now = true) →
      (p.desc.strm && msgSidv p.ring.msg) = false →
      let room := findCluster s (facetOrder s p.desc md p.ring) md.teamSize (segUnits s p.desc.space.toNat md)
      let region := stackFor s p.desc.space md
      (room = some (f, c, slots) → region = some k → ∃ t x, exec (.teamPlace 0) s = .next t ∧
        (1 < p.count → t.placing = [{ p with first := p.first + 1, count := p.count - 1 }]) ∧ (p.count = 1 → t.placing = []) ∧
        x ∈ t.teams ∧ x.uid = s.nextUid ∧ x.farm = p.farm ∧ x.teamId = p.first ∧ x.size = md.teamSize ∧ x.facet = f ∧ x.cluster = c ∧
        x.slots = slots ∧ x.status = .resident ∧ x.stackAt = k ∧ x.seg = [] ∧
          x.segUnits = max md.nearseg (s.space p.desc.space.toNat).segmin ∧
        (∀ n k, slots[n]? = some k → ∃ y ∈ t.others, y.id.ref = { team := s.nextUid, idx := n } ∧ y.run = .assigned ∧
          y.id.phys = BitVec.ofNat 17 (f * 2 ^ 14 + c * 2 ^ 9 + k) ∧ y.id.teamId = BitVec.ofNat 12 p.first) ∧
        spilled s.hart t.hart ∧ t.mem = s.mem) ∧
      ((room = none ∨ region = none) → 2 ≤ p.cls.toNat → exec (.teamPlace 0) s = .next s) ∧
      ∀ v : Team, (room = none ∨ region = none) → p.cls.toNat ≤ 1 → v ∈ s.teams →
        let victim (x : Team) : Prop := x.part = p.desc.part ∧ x.runs = true ∧ p.cls.toNat < teamRank s x.uid
        victim v → (∀ x ∈ s.teams, victim x → x = v ∨ teamRank s x.uid < teamRank s v.uid ∨
          (teamRank s x.uid = teamRank s v.uid ∧ x.order < v.order)) →
        (∀ x, s.farm? v.farm = some x → x.gang = false) → (∀ x ∈ s.teams, x.uid = v.uid → x = v) →
        (∀ x ∈ s.teams, x.uid < s.nextUid) →
        (stoppable s v.uid = false → exec (.teamPlace 0) s = .next s) ∧
        (stoppable s v.uid = true →
          let s1 := stopTeam s v.uid (.stopped .preempt) .preempt
          findCluster s1 (facetOrder s1 p.desc md p.ring) md.teamSize (segUnits s1 p.desc.space.toNat md) = some (f, c, slots) →
          stackFor s1 p.desc.space md = some k → ∃ t x y, exec (.teamPlace 0) s = .next t ∧ x ∈ t.teams ∧ x.uid = s.nextUid ∧
            x.farm = p.farm ∧ x.teamId = p.first ∧ x.facet = f ∧ x.cluster = c ∧ x.slots = slots ∧ x.status = .resident ∧
            y ∈ t.teams ∧ y = { v with status := .stopped .preempt, segSaved := y.segSaved, bars := y.bars } ∧ t.mem = s.mem ∧
            (∀ z ∈ s.teams, z ≠ v → ∃ w ∈ t.teams, w = { z with segSaved := w.segSaved }) ∧
            ∀ a ∈ s.harts, (a.id.ref.team ≠ v.uid → ∃ b ∈ t.harts, spilled a b) ∧ (a.id.ref.team = v.uid → ∃ b ∈ t.harts,
              b.id = a.id ∧ b.sc = a.sc ∧ b.vec = a.vec ∧ b.tr = a.tr ∧ b.vq = a.vq ∧ b.stores = a.stores ∧ b.ln.len = a.ln.len ∧
              b.ln.groups = [] ∧ b.ln.req = none ∧ (a.run = .running → b.notice = { a.notice with preempt := some now })))) ∧
    (∀ p md hd, s.placing = [p] → p.perTeam = true → p.gang = true → p.count ≠ 0 → partOpen s p.desc.part = true → p.halted s = false →
      p.desc.mod? s = some md → md.gang = true → md.handler? (msgType p.ring.msg) = some hd → ¬(p.first = 0 ∧ p.ring.late now = true) →
      (p.desc.strm && msgSidv p.ring.msg) = false → 2 ≤ p.cls.toNat → ∃ t, exec (.teamPlace 0) s = .next t ∧
      let start (n : Nat) (x : Team) : Prop := x ∈ t.teams ∧ x.uid = s.nextUid + n ∧ x.farm = p.farm ∧ x.teamId = p.first + n ∧
        x.size = md.teamSize ∧ x.status = .resident ∧ x.slots.length = md.teamSize ∧ x.seg = []
      let whole := t.placing = [] ∧ (∀ n, n < p.count → ∃ x, start n x) ∧ t.teams.length = s.teams.length + p.count
      (whole ∨ t = { s with placing := [{ p with waiting := true }] }) ∧
      ∀ f0, (facetOrder s p.desc md p.ring).head? = some f0 →
        (fits s f0 0 (p.count * md.teamSize) (p.count * segUnits s p.desc.space.toNat md)).isSome = true →
        (∀ x ∈ s.teams, x.space = p.desc.space → x.modNo ≠ md.num) → p.count * md.teamSize * md.stackSize ≤ md.stackBytes →
        whole ∧ ∀ n, n < p.count → ∃ x, start n x ∧ x.facet = f0 ∧ x.cluster = 0 ∧
          x.slots = ((freeSlots s f0 0).drop (n * md.teamSize)).take md.teamSize) ∧
    (∀ k slots u, s.team? uid = some k → k.status = .stopped .preempt → partOpen s k.part = true → s.placing = [] →
      (∀ x, s.farm? k.farm = some x → x.gang = false) →
      findCluster s (s.part k.part.toNat).list k.size k.segUnits = some (f, c, slots) →
      resumeTeam 0 s k.uid f c slots .preempt = some u → exec (.teamResume uid) s = .next u ∧ settled u k f c slots) ∧
    (∀ k, s.team? uid = some k → k.status ≠ .stopped .preempt →
      (k.status ≠ .stopped .thermal ∨ s.boot.state ≠ .ready ∨ s.power.emergency ≠ none) → exec (.teamResume uid) s = .next s) ∧
    (∀ k, s.team? uid = some k → k.status = .resident → partOpen s k.part = true → stoppable s uid = true →
      (if shedding s k.facet = true ∧ f ≠ k.facet then takesShed s f = true ∧ shedFirst s k = true else teamRank s uid ≠ 0) →
      f ∈ (s.part k.part.toNat).list → c < 32 → k.at f c = false → (fits s f c k.size k.segUnits).isSome = true →
      ∃ t y, exec (.teamMove uid f c) s = .next t ∧ t.team? uid = some y ∧ y = { k with status := .moving f c .move, bars := y.bars } ∧
        t = { s with hart := t.hart, others := t.others, teams := t.teams, farms := t.farms, windowOps := t.windowOps } ∧
          (∀ x ∈ t.harts, x.id.ref.team = uid → x.ln.groups = []) ∧
        ∀ x ∈ s.harts, x.id.ref.team ≠ uid → ∃ y ∈ t.harts, spilled x y) ∧
    (∀ k, s.team? uid = some k → k.status ≠ .resident → exec (.teamMove uid f c) s = .next s) ∧
    (∀ k u, s.team? uid = some k → k.status = .moving f c why → k.size ≤ (freeSlots s f c).length →
      resumeTeam 0 s uid f c ((freeSlots s f c).take k.size) why = some u →
      exec (.teamMoveComplete uid) s = .next u ∧ settled u k f c ((freeSlots s f c).take k.size)) ∧
    (∀ k fm, s.team? uid = some k → s.farm? k.farm = some fm → fm.perTeam = false → k.status = .resident →
      (diesStill s = true → exec (.teamIdleRetire uid) s = .next s) ∧
      (diesStill s = false → (∀ x ∈ s.harts, x.id.ref.team = uid → runsHandler x = false) → 100000 ≤ k.idleNs →
        ∃ t, exec (.teamIdleRetire uid) s = .next t ∧ t.team? uid = none ∧
          (∀ x ∈ t.harts, x.id.ref.team = uid → x.run = .retired ∧ x.stores ≠ [] ∧ ∃ y ∈ s.harts, y.id = x.id ∧ x = y.remains) ∧
          t = { s with hart := t.hart, others := t.others, teams := t.teams, farms := t.farms }) ∧
      ((∃ x ∈ s.harts, x.id.ref.team = uid ∧ runsHandler x = true) → exec (.teamIdleRetire uid) s = .next s)) ∧
    (∀ e, s.streamEntries[i]? = some e →
      (e.running = 0 → e.draining = false → e.last.toNat + e.timeoutUs * 1000 ≤ now.toNat → exec (.streamTimeout i) s =
        .next { s with streamEntries := s.streamEntries.modify i (fun x => { x with draining := true }) }) ∧
      ((e.running ≠ 0 ∨ now.toNat < e.last.toNat + e.timeoutUs * 1000) → exec (.streamTimeout i) s = .next s) ∧
      (e.draining = true → e.again = none → ∃ t, exec (.streamDrainComplete i) s = .next t ∧
        t = { s with backing := t.backing, streamEntries := s.streamEntries.eraseIdx i }) ∧
      (e.draining = false → exec (.streamDrainComplete i) s = .next s))

/-! ## Encoding, turns and the whole machine -/

/-- R68, R70 to R72, R82, R85, R242, R243: the turn of a hart at a boundary fetches the word at its PC, from its instruction cache where a
copy grants it, and runs exactly the instruction that it decodes to, a long form after its second word; a word that is none runs the trap
of R82 or R72, a long form whose second word is no continuation that of R71, with both words; a fetch that fails is a trap with the
address of the word, one that stalls waits. An instruction that waits is executed again from its word, and an event on the agenda runs as
it stands, those of harts while the dies stand still excepted. While a trap waits for a device access of the head, nothing issues. That one
turn is one action of the agenda is the model's choice (log 1), and a pair that is illegal with a continuation word a reading (log 41), as
are that a failed fetch takes no ISEQ number (log 38) and that a trap which has waited is the one its instruction raised at issue (log 44). -/
def Obligations.StepRunsDecoded : Prop :=
  ∀ (s : State) (r : HartRef) (rest : List Action) (w w2 : BitVec 32) (i : Instr) (s1 s2 : State),
    let s0 := { s with agenda := rest }
    let h := s.hart
    let f := s0.withHart { h with ir := none }
    let pc := h.sc.pc
    let turn := s.agenda = .hart r :: rest ∧ Runs s r ∧ h.fatal = none ∧ asyncReady s0 = false ∧ diesStill s = false
    let ready := turn ∧ h.due = none ∧ trapWaits s0 = false ∧ h.heldByQueue = false ∧ h.parked = false
    let traps (t : State) (code : Nat) (a : Word) : Prop := step s = .next (takeTrap t
      { code := BitVec.ofNat 8 code, pc := t.hart.sc.pc, val := a, seq := t.hart.sc.iseq, counted := false })
    (ready → h.wait = .none →
      (fetchWord f pc = .word w s1 → isLong w.toNat = false →
        (decodeWord w = .ok i → i.wellFormed = true ∧ step s = exec i (s1.withHart { s1.hart with ir := some w })) ∧
        (decodeWord w = .error (.continuation w) →
          step s = exec (.continuation w) (s1.withHart { s1.hart with ir := some w })) ∧
        (decodeWord w = .error (.illegal w) → step s = exec (.illegalWord w none) (s1.withHart { s1.hart with ir := some w }))) ∧
      (fetchWord f pc = .word w s1 → isLong w.toNat = true →
        (fetchWord s1 (s1.hart.sc.pc + 4) = .word w2 s2 →
          (decodeLong w w2 = .ok i → i.wellFormed = true ∧ step s = exec i s2) ∧
          (w2.toNat / 2 ^ 26 ≠ 0x3F → step s = exec (.illegalWord w (some w2)) s2) ∧
          (w2.toNat / 2 ^ 26 = 0x3F → (∀ j, decodeLong w w2 ≠ .ok j) → step s = exec (.illegalWord w none) s2)) ∧
        (fetchWord s1 (s1.hart.sc.pc + 4) = .stall s2 → step s = .next (s2.withHart { s2.hart with wait := .stall })) ∧
        ∀ c, fetchWord s1 (s1.hart.sc.pc + 4) = .fault c s2 → traps s2 c (s1.hart.sc.pc + 4)) ∧
      (∀ c, fetchWord f pc = .fault c s1 → traps s1 c s1.hart.sc.pc) ∧
      (fetchWord f pc = .stall s1 → step s = .next (s1.withHart { s1.hart with wait := .stall })) ∧
      (∀ c : CacheLine, EntryReady s pc.toNat → addressOk s s.sp s.pt pc.toNat = true → inNear pc.toNat = false →
        copyAt s (.l1i h.id.core) (cacheSpace s.sp pc.toNat) (pc.toNat / 128) = some c → c.x = true →
        ∃ t, fetchWord f pc = .word (BitVec.ofNat 32 (readLE s.mem (c.pline * 128 + pc.toNat % 128) 4)) t ∧
          t = { f with lines := t.lines } ∧ ∀ e ∈ t.lines, e ∈ s.lines)) ∧
    (turn → (trapWaits s0 = true ∨ (h.due = none ∧ (h.heldByQueue = true ∨ h.parked = true))) → step s = .next s0) ∧
    (∀ x, s.agenda = .hart r :: rest → Runs s r → h.fatal = none → diesStill s = false → h.due = some x → headStarted s0 s0.hart = false →
      step s = .next (takeTrap s0 x)) ∧
    (ready → h.wait ≠ .none → h.ir = some w → decodeWord w = .ok i → step s = exec i s0) ∧
    (s.agenda = .event i :: rest → isEvent i = true → (hartEvent i = true → diesStill s = false) → step s = exec i s0) ∧
    (s.agenda = .hart r :: rest → h.run = .running → h.id.ref = r → isOut s r = true → step s = .next s0)

/-- Table 2.3, Table 3.3, Table 10.1, Table 14.2, Table 16.2, Table 17.3, Table 18.2, Table 18.4: the machine right after reset. No
team, no module, no cached line, nothing enabled; the governors, the phase plans and the routes at their stated values; the memory in
canonical form. That an unlisted byte of HBM reads 0 is the model's choice (log 3). -/
def Obligations.ResetState : Prop :=
  let s := State.reset
  s.harts = [] ∧ s.teams = [] ∧ s.farms = [] ∧ s.lines = [] ∧ s.walks = [] ∧ s.frames = [] ∧ s.timers = [] ∧ s.inbound = [] ∧ s.agenda = [] ∧
  s.memLegal = true ∧ (∀ a, memRead s.mem a = 0) ∧ s.trans.en = false ∧ s.boot.state = .rom ∧ s.boot.memok = false ∧
  s.boot.hostto = false ∧ s.boot.fail = 0 ∧ s.devnum = 0 ∧
  (∀ q, (s.queue q).en = false ∧ (s.queue q).maxTeams = 0 ∧ (s.queue q).drops = 0 ∧ (s.queue q).cls = 3 ∧ (s.queue q).pending = []) ∧
  (∀ k, (s.space k).modules = [] ∧ (s.space k).teEn = false ∧ (s.space k).wdog = 0 ∧ (s.space k).segmin = 0 ∧
    (s.space k).logBase = 0) ∧
  (∀ p, p < 8 → (s.part p).en = false ∧ (s.part p).state = .running ∧ (s.part p).badcfg = false) ∧
  (∀ f, f < 8 → (s.gov f).lbud = 1550 ∧ (s.gov f).fbud = 2400 ∧ (s.gov f).didt = 128 ∧ (s.gov f).warn = 95 ∧ (s.gov f).crit = 105 ∧
    (s.gov f).resume = 85 ∧ (s.gov f).thr = 0 ∧
    ∃ p, s.power.plan[f]? = some p ∧ p.nph = 15 ∧ p.spacing = 32 ∧ p.phlo = 0xFEDCBA9876543210 ∧ p.phhi = 0xFEDCBA9876543210) ∧
  (∀ i, i < 8 → ∃ p, s.ports[i]? = some p ∧ p.en = false ∧ p.up = false ∧ p.retry = 0 ∧ p.lost = 0) ∧
  ∀ d, d < 256 → s.route[d]? = some 0xFF

/-- Table 4.3 to Table 4.12: some words written out from their encodings decode to the instructions they stand for. -/
def Obligations.DecodedWords : Prop :=
  (∀ p ∈ [(0x04714613#32, Instr.div 7 5 6), (0x30A2CC00, .faddS 10 11 12), (0x30A2CC0F, .fmacD 10 11 12),
      (0x689F00C0, .vstR 4 62 0 false), (0x689F0080, .vldR 4 62 0 false), (0x687F0AC4, .vstR 3 62 5 true), (0x68228040, .vstT 1 5 0),
      (0x81500080, .mzero 1 .e4m3), (0x8110C800, .oacc 1 2 3 1), (0x82214040, .osub 2 4 5 0), (0x83425180, .oaccN 3 8 9 2),
      (0x5C002000, .vfree)], decodeWord p.1 = .ok p.2) ∧
  decodeLong 0xF88517FF 0xFFFFFFFF = .ok (.addiL 5 5 (-1))

/-- R3, R68, R70, R71, R73 to R82: a program of well-formed instructions, encoded one after the other, decodes back to itself: every
operand at every value its encoding admits, each instruction taking its size in bytes. -/
def Obligations.RoundTrip : Prop :=
  (∀ i : Instr, i.wellFormed = true → encode i ≠ [] → (encodeBytes i).length = i.size ∧
    ∀ rest, decodeBytes (encodeBytes i ++ rest) = .ok (i, rest)) ∧
  ∀ (prog : List Instr) (rest : List Byte), (∀ i ∈ prog, i.wellFormed = true ∧ encode i ≠ []) →
    ∀ k i, prog[k]? = some i → decodeBytes (((prog.drop k).flatMap encodeBytes) ++ rest) =
      .ok (i, ((prog.drop (k + 1)).flatMap encodeBytes) ++ rest)

/-- R71, R72, R75, R76, R82: an instruction has one encoding. A word, or a pair, that decodes to an instruction is the encoding of it,
so no bit of a legal word is ignored; and no two well-formed instructions have the same bytes. -/
def Obligations.OneEncoding : Prop :=
  (∀ (w : BitVec 32) (i : Instr), isLong w.toNat = false → decodeWord w = .ok i → encode i = [w]) ∧
  (∀ (w w2 : BitVec 32) (i : Instr), isLong w.toNat = true → decodeLong w w2 = .ok i → encode i = [w, w2]) ∧
  ∀ i j : Instr, i.wellFormed = true → j.wellFormed = true → encode i ≠ [] → encodeBytes i = encodeBytes j → i = j

/-- R3, R258, R282: every step keeps HBM's bytes and those of every segment in canonical form, which is the model's choice of a form
(log 3). R166, R286, R355, R144: every step keeps, of every hart, FRM no reserved mode, the RSV fields of DIM0 to DIM2 zero, VQN at most
64, and at most 64 entries in the vector queue. -/
def Obligations.LegalKept : Prop :=
  (∀ s t : State, s.memLegal = true → step s = .next t → t.memLegal = true) ∧
  ∀ s t : State, (∀ h ∈ s.hart :: s.others, h.regsLegal = true ∧ h.vq.length ≤ 64) → step s = .next t →
    ∀ h ∈ t.hart :: t.others, h.regsLegal = true ∧ h.vq.length ≤ 64
end

