-- ==== Sys2Proof/Laws/State.lean ====
section
/-! SUPPORT. What each update of the state leaves as it was, one lemma per field, so that no later proof unfolds a record. -/

namespace Sys2Proof.Machine

/-! ## The current hart -/

@[simp] theorem State.withHart_hart (s : State) (h : Hart) : (s.withHart h).hart = h := rfl
@[simp] theorem State.withHart_others (s : State) (h : Hart) : (s.withHart h).others = s.others := rfl
@[simp] theorem State.withHart_teams (s : State) (h : Hart) : (s.withHart h).teams = s.teams := rfl
@[simp] theorem State.withHart_farms (s : State) (h : Hart) : (s.withHart h).farms = s.farms := rfl
@[simp] theorem State.withHart_spaces (s : State) (h : Hart) : (s.withHart h).spaces = s.spaces := rfl
@[simp] theorem State.withHart_loadReport (s : State) (h : Hart) : (s.withHart h).loadReport = s.loadReport := rfl
@[simp] theorem State.withHart_mem (s : State) (h : Hart) : (s.withHart h).mem = s.mem := rfl
@[simp] theorem State.withHart_backing (s : State) (h : Hart) : (s.withHart h).backing = s.backing := rfl
@[simp] theorem State.withHart_lines (s : State) (h : Hart) : (s.withHart h).lines = s.lines := rfl
@[simp] theorem State.withHart_walks (s : State) (h : Hart) : (s.withHart h).walks = s.walks := rfl
@[simp] theorem State.withHart_frames (s : State) (h : Hart) : (s.withHart h).frames = s.frames := rfl
@[simp] theorem State.withHart_hostLines (s : State) (h : Hart) : (s.withHart h).hostLines = s.hostLines := rfl
@[simp] theorem State.withHart_windowOps (s : State) (h : Hart) : (s.withHart h).windowOps = s.windowOps := rfl
@[simp] theorem State.withHart_trans (s : State) (h : Hart) : (s.withHart h).trans = s.trans := rfl
@[simp] theorem State.withHart_queues (s : State) (h : Hart) : (s.withHart h).queues = s.queues := rfl
@[simp] theorem State.withHart_timers (s : State) (h : Hart) : (s.withHart h).timers = s.timers := rfl
@[simp] theorem State.withHart_inbound (s : State) (h : Hart) : (s.withHart h).inbound = s.inbound := rfl
@[simp] theorem State.withHart_served (s : State) (h : Hart) : (s.withHart h).served = s.served := rfl
@[simp] theorem State.withHart_placing (s : State) (h : Hart) : (s.withHart h).placing = s.placing := rfl
@[simp] theorem State.withHart_events (s : State) (h : Hart) : (s.withHart h).events = s.events := rfl
@[simp] theorem State.withHart_streamEntries (s : State) (h : Hart) : (s.withHart h).streamEntries = s.streamEntries := rfl
@[simp] theorem State.withHart_parts (s : State) (h : Hart) : (s.withHart h).parts = s.parts := rfl
@[simp] theorem State.withHart_power (s : State) (h : Hart) : (s.withHart h).power = s.power := rfl
@[simp] theorem State.withHart_clock (s : State) (h : Hart) : (s.withHart h).clock = s.clock := rfl
@[simp] theorem State.withHart_ports (s : State) (h : Hart) : (s.withHart h).ports = s.ports := rfl
@[simp] theorem State.withHart_devnum (s : State) (h : Hart) : (s.withHart h).devnum = s.devnum := rfl
@[simp] theorem State.withHart_route (s : State) (h : Hart) : (s.withHart h).route = s.route := rfl
@[simp] theorem State.withHart_boot (s : State) (h : Hart) : (s.withHart h).boot = s.boot := rfl
@[simp] theorem State.withHart_agenda (s : State) (h : Hart) : (s.withHart h).agenda = s.agenda := rfl
@[simp] theorem State.withHart_tick (s : State) (h : Hart) : (s.withHart h).tick = s.tick := rfl
@[simp] theorem State.withHart_nextUid (s : State) (h : Hart) : (s.withHart h).nextUid = s.nextUid := rfl
@[simp] theorem State.withHart_withHart (s : State) (h k : Hart) : (s.withHart h).withHart k = s.withHart k := rfl
@[simp] theorem State.withHart_self (s : State) : s.withHart s.hart = s := rfl

/-- Writing a register changes the current hart only. -/
theorem State.setG_eq (s : State) (r : GReg) (x : Word) : s.setG r x = s.withHart (s.hart.setG r x) := rfl

/-- Going on changes the current hart only. -/
theorem State.advance_eq (s : State) (n : Nat) : s.advance n = s.withHart (s.hart.advance n) := rfl

/-- Waiting changes the current hart only. -/
theorem State.waitFor_eq (s : State) (w : Wait) : s.waitFor w = s.withHart { s.hart with wait := w } := rfl


/-! ## Hart.setG -/

@[simp] theorem Hart.setG_id (h : Hart) (r : GReg) (x : Word) : (h.setG r x).id = h.id := by
  unfold Hart.setG; split <;> rfl
@[simp] theorem Hart.setG_run (h : Hart) (r : GReg) (x : Word) : (h.setG r x).run = h.run := by
  unfold Hart.setG; split <;> rfl
@[simp] theorem Hart.setG_ln (h : Hart) (r : GReg) (x : Word) : (h.setG r x).ln = h.ln := by
  unfold Hart.setG; split <;> rfl
@[simp] theorem Hart.setG_vec (h : Hart) (r : GReg) (x : Word) : (h.setG r x).vec = h.vec := by
  unfold Hart.setG; split <;> rfl
@[simp] theorem Hart.setG_tr (h : Hart) (r : GReg) (x : Word) : (h.setG r x).tr = h.tr := by
  unfold Hart.setG; split <;> rfl
@[simp] theorem Hart.setG_vq (h : Hart) (r : GReg) (x : Word) : (h.setG r x).vq = h.vq := by
  unfold Hart.setG; split <;> rfl
@[simp] theorem Hart.setG_wait (h : Hart) (r : GReg) (x : Word) : (h.setG r x).wait = h.wait := by
  unfold Hart.setG; split <;> rfl
@[simp] theorem Hart.setG_ir (h : Hart) (r : GReg) (x : Word) : (h.setG r x).ir = h.ir := by
  unfold Hart.setG; split <;> rfl
@[simp] theorem Hart.setG_due (h : Hart) (r : GReg) (x : Word) : (h.setG r x).due = h.due := by
  unfold Hart.setG; split <;> rfl
@[simp] theorem Hart.setG_stores (h : Hart) (r : GReg) (x : Word) : (h.setG r x).stores = h.stores := by
  unfold Hart.setG; split <;> rfl
@[simp] theorem Hart.setG_recs (h : Hart) (r : GReg) (x : Word) : (h.setG r x).recs = h.recs := by
  unfold Hart.setG; split <;> rfl
@[simp] theorem Hart.setG_fatal (h : Hart) (r : GReg) (x : Word) : (h.setG r x).fatal = h.fatal := by
  unfold Hart.setG; split <;> rfl
@[simp] theorem Hart.setG_streams (h : Hart) (r : GReg) (x : Word) : (h.setG r x).streams = h.streams := by
  unfold Hart.setG; split <;> rfl
@[simp] theorem Hart.setG_bars (h : Hart) (r : GReg) (x : Word) : (h.setG r x).bars = h.bars := by
  unfold Hart.setG; split <;> rfl
@[simp] theorem Hart.setG_notice (h : Hart) (r : GReg) (x : Word) : (h.setG r x).notice = h.notice := by
  unfold Hart.setG; split <;> rfl
@[simp] theorem Hart.setG_runNs (h : Hart) (r : GReg) (x : Word) : (h.setG r x).runNs = h.runNs := by
  unfold Hart.setG; split <;> rfl
@[simp] theorem Hart.setG_dogAt (h : Hart) (r : GReg) (x : Word) : (h.setG r x).dogAt = h.dogAt := by
  unfold Hart.setG; split <;> rfl
@[simp] theorem Hart.setG_unbilled (h : Hart) (r : GReg) (x : Word) : (h.setG r x).unbilled = h.unbilled := by
  unfold Hart.setG; split <;> rfl
@[simp] theorem Hart.setG_unbilledLane (h : Hart) (r : GReg) (x : Word) : (h.setG r x).unbilledLane = h.unbilledLane := by
  unfold Hart.setG; split <;> rfl
@[simp] theorem Hart.setG_msg (h : Hart) (r : GReg) (x : Word) : (h.setG r x).msg = h.msg := by
  unfold Hart.setG; split <;> rfl
@[simp] theorem Hart.setG_pc (h : Hart) (r : GReg) (x : Word) : (h.setG r x).sc.pc = h.sc.pc := by
  unfold Hart.setG; split <;> rfl
@[simp] theorem Hart.setG_frm (h : Hart) (r : GReg) (x : Word) : (h.setG r x).sc.frm = h.sc.frm := by
  unfold Hart.setG; split <;> rfl
@[simp] theorem Hart.setG_fflags (h : Hart) (r : GReg) (x : Word) : (h.setG r x).sc.fflags = h.sc.fflags := by
  unfold Hart.setG; split <;> rfl
@[simp] theorem Hart.setG_srseed (h : Hart) (r : GReg) (x : Word) : (h.setG r x).sc.srseed = h.sc.srseed := by
  unfold Hart.setG; split <;> rfl
@[simp] theorem Hart.setG_srctr (h : Hart) (r : GReg) (x : Word) : (h.setG r x).sc.srctr = h.sc.srctr := by
  unfold Hart.setG; split <;> rfl
@[simp] theorem Hart.setG_dim0 (h : Hart) (r : GReg) (x : Word) : (h.setG r x).sc.dim0 = h.sc.dim0 := by
  unfold Hart.setG; split <;> rfl
@[simp] theorem Hart.setG_dim1 (h : Hart) (r : GReg) (x : Word) : (h.setG r x).sc.dim1 = h.sc.dim1 := by
  unfold Hart.setG; split <;> rfl
@[simp] theorem Hart.setG_dim2 (h : Hart) (r : GReg) (x : Word) : (h.setG r x).sc.dim2 = h.sc.dim2 := by
  unfold Hart.setG; split <;> rfl
@[simp] theorem Hart.setG_cpBnd (h : Hart) (r : GReg) (x : Word) : (h.setG r x).sc.cpBnd = h.sc.cpBnd := by
  unfold Hart.setG; split <;> rfl
@[simp] theorem Hart.setG_cpSel (h : Hart) (r : GReg) (x : Word) : (h.setG r x).sc.cpSel = h.sc.cpSel := by
  unfold Hart.setG; split <;> rfl
@[simp] theorem Hart.setG_prio (h : Hart) (r : GReg) (x : Word) : (h.setG r x).sc.prio = h.sc.prio := by
  unfold Hart.setG; split <;> rfl
@[simp] theorem Hart.setG_iseq (h : Hart) (r : GReg) (x : Word) : (h.setG r x).sc.iseq = h.sc.iseq := by
  unfold Hart.setG; split <;> rfl

/-! ## Hart.advance -/

@[simp] theorem Hart.advance_id (h : Hart) (n : Nat) : (h.advance n).id = h.id := rfl
@[simp] theorem Hart.advance_run (h : Hart) (n : Nat) : (h.advance n).run = h.run := rfl
@[simp] theorem Hart.advance_ln (h : Hart) (n : Nat) : (h.advance n).ln = h.ln := rfl
@[simp] theorem Hart.advance_vec (h : Hart) (n : Nat) : (h.advance n).vec = h.vec := rfl
@[simp] theorem Hart.advance_tr (h : Hart) (n : Nat) : (h.advance n).tr = h.tr := rfl
@[simp] theorem Hart.advance_vq (h : Hart) (n : Nat) : (h.advance n).vq = h.vq := rfl
@[simp] theorem Hart.advance_ir (h : Hart) (n : Nat) : (h.advance n).ir = h.ir := rfl
@[simp] theorem Hart.advance_due (h : Hart) (n : Nat) : (h.advance n).due = h.due := rfl
@[simp] theorem Hart.advance_stores (h : Hart) (n : Nat) : (h.advance n).stores = h.stores := rfl
@[simp] theorem Hart.advance_recs (h : Hart) (n : Nat) : (h.advance n).recs = h.recs := rfl
@[simp] theorem Hart.advance_fatal (h : Hart) (n : Nat) : (h.advance n).fatal = h.fatal := rfl
@[simp] theorem Hart.advance_streams (h : Hart) (n : Nat) : (h.advance n).streams = h.streams := rfl
@[simp] theorem Hart.advance_bars (h : Hart) (n : Nat) : (h.advance n).bars = h.bars := rfl
@[simp] theorem Hart.advance_notice (h : Hart) (n : Nat) : (h.advance n).notice = h.notice := rfl
@[simp] theorem Hart.advance_runNs (h : Hart) (n : Nat) : (h.advance n).runNs = h.runNs := rfl
@[simp] theorem Hart.advance_dogAt (h : Hart) (n : Nat) : (h.advance n).dogAt = h.dogAt := rfl
@[simp] theorem Hart.advance_unbilled (h : Hart) (n : Nat) : (h.advance n).unbilled = h.unbilled := rfl
@[simp] theorem Hart.advance_unbilledLane (h : Hart) (n : Nat) : (h.advance n).unbilledLane = h.unbilledLane := rfl
@[simp] theorem Hart.advance_msg (h : Hart) (n : Nat) : (h.advance n).msg = h.msg := rfl
@[simp] theorem Hart.advance_wait (h : Hart) (n : Nat) : (h.advance n).wait = .none := rfl
@[simp] theorem Hart.advance_g (h : Hart) (n : Nat) : (h.advance n).sc.g = h.sc.g := rfl
@[simp] theorem Hart.advance_frm (h : Hart) (n : Nat) : (h.advance n).sc.frm = h.sc.frm := rfl
@[simp] theorem Hart.advance_fflags (h : Hart) (n : Nat) : (h.advance n).sc.fflags = h.sc.fflags := rfl
@[simp] theorem Hart.advance_srseed (h : Hart) (n : Nat) : (h.advance n).sc.srseed = h.sc.srseed := rfl
@[simp] theorem Hart.advance_srctr (h : Hart) (n : Nat) : (h.advance n).sc.srctr = h.sc.srctr := rfl
@[simp] theorem Hart.advance_dim0 (h : Hart) (n : Nat) : (h.advance n).sc.dim0 = h.sc.dim0 := rfl
@[simp] theorem Hart.advance_dim1 (h : Hart) (n : Nat) : (h.advance n).sc.dim1 = h.sc.dim1 := rfl
@[simp] theorem Hart.advance_dim2 (h : Hart) (n : Nat) : (h.advance n).sc.dim2 = h.sc.dim2 := rfl
@[simp] theorem Hart.advance_cpBnd (h : Hart) (n : Nat) : (h.advance n).sc.cpBnd = h.sc.cpBnd := rfl
@[simp] theorem Hart.advance_cpSel (h : Hart) (n : Nat) : (h.advance n).sc.cpSel = h.sc.cpSel := rfl
@[simp] theorem Hart.advance_prio (h : Hart) (n : Nat) : (h.advance n).sc.prio = h.sc.prio := rfl
@[simp] theorem Hart.advance_pc (h : Hart) (n : Nat) : (h.advance n).sc.pc = h.sc.pc + BitVec.ofNat 64 n := rfl
@[simp] theorem Hart.advance_iseq (h : Hart) (n : Nat) : (h.advance n).sc.iseq = h.sc.iseq + 1 := rfl

/-! ## Hart.push -/

@[simp] theorem Hart.push_id (h : Hart) (e : VqEntry) : (h.push e).id = h.id := rfl
@[simp] theorem Hart.push_run (h : Hart) (e : VqEntry) : (h.push e).run = h.run := rfl
@[simp] theorem Hart.push_sc (h : Hart) (e : VqEntry) : (h.push e).sc = h.sc := rfl
@[simp] theorem Hart.push_ln (h : Hart) (e : VqEntry) : (h.push e).ln = h.ln := rfl
@[simp] theorem Hart.push_vec (h : Hart) (e : VqEntry) : (h.push e).vec = h.vec := rfl
@[simp] theorem Hart.push_tr (h : Hart) (e : VqEntry) : (h.push e).tr = h.tr := rfl
@[simp] theorem Hart.push_wait (h : Hart) (e : VqEntry) : (h.push e).wait = h.wait := rfl
@[simp] theorem Hart.push_ir (h : Hart) (e : VqEntry) : (h.push e).ir = h.ir := rfl
@[simp] theorem Hart.push_due (h : Hart) (e : VqEntry) : (h.push e).due = h.due := rfl
@[simp] theorem Hart.push_stores (h : Hart) (e : VqEntry) : (h.push e).stores = h.stores := rfl
@[simp] theorem Hart.push_recs (h : Hart) (e : VqEntry) : (h.push e).recs = h.recs := rfl
@[simp] theorem Hart.push_fatal (h : Hart) (e : VqEntry) : (h.push e).fatal = h.fatal := rfl
@[simp] theorem Hart.push_streams (h : Hart) (e : VqEntry) : (h.push e).streams = h.streams := rfl
@[simp] theorem Hart.push_bars (h : Hart) (e : VqEntry) : (h.push e).bars = h.bars := rfl
@[simp] theorem Hart.push_notice (h : Hart) (e : VqEntry) : (h.push e).notice = h.notice := rfl
@[simp] theorem Hart.push_runNs (h : Hart) (e : VqEntry) : (h.push e).runNs = h.runNs := rfl
@[simp] theorem Hart.push_dogAt (h : Hart) (e : VqEntry) : (h.push e).dogAt = h.dogAt := rfl
@[simp] theorem Hart.push_unbilled (h : Hart) (e : VqEntry) : (h.push e).unbilled = h.unbilled := rfl
@[simp] theorem Hart.push_unbilledLane (h : Hart) (e : VqEntry) : (h.push e).unbilledLane = h.unbilledLane := rfl
@[simp] theorem Hart.push_msg (h : Hart) (e : VqEntry) : (h.push e).msg = h.msg := rfl

/-! ## Hart.setReg -/

@[simp] theorem Hart.setReg_id (h : Hart) (v : VReg) (r : VecReg) : (h.setReg v r).id = h.id := rfl
@[simp] theorem Hart.setReg_run (h : Hart) (v : VReg) (r : VecReg) : (h.setReg v r).run = h.run := rfl
@[simp] theorem Hart.setReg_sc (h : Hart) (v : VReg) (r : VecReg) : (h.setReg v r).sc = h.sc := rfl
@[simp] theorem Hart.setReg_ln (h : Hart) (v : VReg) (r : VecReg) : (h.setReg v r).ln = h.ln := rfl
@[simp] theorem Hart.setReg_tr (h : Hart) (v : VReg) (r : VecReg) : (h.setReg v r).tr = h.tr := rfl
@[simp] theorem Hart.setReg_vq (h : Hart) (v : VReg) (r : VecReg) : (h.setReg v r).vq = h.vq := rfl
@[simp] theorem Hart.setReg_wait (h : Hart) (v : VReg) (r : VecReg) : (h.setReg v r).wait = h.wait := rfl
@[simp] theorem Hart.setReg_ir (h : Hart) (v : VReg) (r : VecReg) : (h.setReg v r).ir = h.ir := rfl
@[simp] theorem Hart.setReg_due (h : Hart) (v : VReg) (r : VecReg) : (h.setReg v r).due = h.due := rfl
@[simp] theorem Hart.setReg_stores (h : Hart) (v : VReg) (r : VecReg) : (h.setReg v r).stores = h.stores := rfl
@[simp] theorem Hart.setReg_recs (h : Hart) (v : VReg) (r : VecReg) : (h.setReg v r).recs = h.recs := rfl
@[simp] theorem Hart.setReg_fatal (h : Hart) (v : VReg) (r : VecReg) : (h.setReg v r).fatal = h.fatal := rfl
@[simp] theorem Hart.setReg_streams (h : Hart) (v : VReg) (r : VecReg) : (h.setReg v r).streams = h.streams := rfl
@[simp] theorem Hart.setReg_bars (h : Hart) (v : VReg) (r : VecReg) : (h.setReg v r).bars = h.bars := rfl
@[simp] theorem Hart.setReg_notice (h : Hart) (v : VReg) (r : VecReg) : (h.setReg v r).notice = h.notice := rfl
@[simp] theorem Hart.setReg_runNs (h : Hart) (v : VReg) (r : VecReg) : (h.setReg v r).runNs = h.runNs := rfl
@[simp] theorem Hart.setReg_dogAt (h : Hart) (v : VReg) (r : VecReg) : (h.setReg v r).dogAt = h.dogAt := rfl
@[simp] theorem Hart.setReg_unbilled (h : Hart) (v : VReg) (r : VecReg) : (h.setReg v r).unbilled = h.unbilled := rfl
@[simp] theorem Hart.setReg_unbilledLane (h : Hart) (v : VReg) (r : VecReg) : (h.setReg v r).unbilledLane = h.unbilledLane := rfl
@[simp] theorem Hart.setReg_msg (h : Hart) (v : VReg) (r : VecReg) : (h.setReg v r).msg = h.msg := rfl

/-! ## Hart.setTile -/

@[simp] theorem Hart.setTile_id (h : Hart) (t : TReg) (r : TileReg) : (h.setTile t r).id = h.id := rfl
@[simp] theorem Hart.setTile_run (h : Hart) (t : TReg) (r : TileReg) : (h.setTile t r).run = h.run := rfl
@[simp] theorem Hart.setTile_sc (h : Hart) (t : TReg) (r : TileReg) : (h.setTile t r).sc = h.sc := rfl
@[simp] theorem Hart.setTile_ln (h : Hart) (t : TReg) (r : TileReg) : (h.setTile t r).ln = h.ln := rfl
@[simp] theorem Hart.setTile_tr (h : Hart) (t : TReg) (r : TileReg) : (h.setTile t r).tr = h.tr := rfl
@[simp] theorem Hart.setTile_vq (h : Hart) (t : TReg) (r : TileReg) : (h.setTile t r).vq = h.vq := rfl
@[simp] theorem Hart.setTile_wait (h : Hart) (t : TReg) (r : TileReg) : (h.setTile t r).wait = h.wait := rfl
@[simp] theorem Hart.setTile_ir (h : Hart) (t : TReg) (r : TileReg) : (h.setTile t r).ir = h.ir := rfl
@[simp] theorem Hart.setTile_due (h : Hart) (t : TReg) (r : TileReg) : (h.setTile t r).due = h.due := rfl
@[simp] theorem Hart.setTile_stores (h : Hart) (t : TReg) (r : TileReg) : (h.setTile t r).stores = h.stores := rfl
@[simp] theorem Hart.setTile_recs (h : Hart) (t : TReg) (r : TileReg) : (h.setTile t r).recs = h.recs := rfl
@[simp] theorem Hart.setTile_fatal (h : Hart) (t : TReg) (r : TileReg) : (h.setTile t r).fatal = h.fatal := rfl
@[simp] theorem Hart.setTile_streams (h : Hart) (t : TReg) (r : TileReg) : (h.setTile t r).streams = h.streams := rfl
@[simp] theorem Hart.setTile_bars (h : Hart) (t : TReg) (r : TileReg) : (h.setTile t r).bars = h.bars := rfl
@[simp] theorem Hart.setTile_notice (h : Hart) (t : TReg) (r : TileReg) : (h.setTile t r).notice = h.notice := rfl
@[simp] theorem Hart.setTile_runNs (h : Hart) (t : TReg) (r : TileReg) : (h.setTile t r).runNs = h.runNs := rfl
@[simp] theorem Hart.setTile_dogAt (h : Hart) (t : TReg) (r : TileReg) : (h.setTile t r).dogAt = h.dogAt := rfl
@[simp] theorem Hart.setTile_unbilled (h : Hart) (t : TReg) (r : TileReg) : (h.setTile t r).unbilled = h.unbilled := rfl
@[simp] theorem Hart.setTile_unbilledLane (h : Hart) (t : TReg) (r : TileReg) : (h.setTile t r).unbilledLane = h.unbilledLane := rfl
@[simp] theorem Hart.setTile_msg (h : Hart) (t : TReg) (r : TileReg) : (h.setTile t r).msg = h.msg := rfl

/-! ## Hart.raise -/

@[simp] theorem Hart.raise_id (h : Hart) (f : BitVec 5) : (h.raise f).id = h.id := rfl
@[simp] theorem Hart.raise_run (h : Hart) (f : BitVec 5) : (h.raise f).run = h.run := rfl
@[simp] theorem Hart.raise_ln (h : Hart) (f : BitVec 5) : (h.raise f).ln = h.ln := rfl
@[simp] theorem Hart.raise_vec (h : Hart) (f : BitVec 5) : (h.raise f).vec = h.vec := rfl
@[simp] theorem Hart.raise_tr (h : Hart) (f : BitVec 5) : (h.raise f).tr = h.tr := rfl
@[simp] theorem Hart.raise_vq (h : Hart) (f : BitVec 5) : (h.raise f).vq = h.vq := rfl
@[simp] theorem Hart.raise_wait (h : Hart) (f : BitVec 5) : (h.raise f).wait = h.wait := rfl
@[simp] theorem Hart.raise_ir (h : Hart) (f : BitVec 5) : (h.raise f).ir = h.ir := rfl
@[simp] theorem Hart.raise_due (h : Hart) (f : BitVec 5) : (h.raise f).due = h.due := rfl
@[simp] theorem Hart.raise_stores (h : Hart) (f : BitVec 5) : (h.raise f).stores = h.stores := rfl
@[simp] theorem Hart.raise_recs (h : Hart) (f : BitVec 5) : (h.raise f).recs = h.recs := rfl
@[simp] theorem Hart.raise_fatal (h : Hart) (f : BitVec 5) : (h.raise f).fatal = h.fatal := rfl
@[simp] theorem Hart.raise_streams (h : Hart) (f : BitVec 5) : (h.raise f).streams = h.streams := rfl
@[simp] theorem Hart.raise_bars (h : Hart) (f : BitVec 5) : (h.raise f).bars = h.bars := rfl
@[simp] theorem Hart.raise_notice (h : Hart) (f : BitVec 5) : (h.raise f).notice = h.notice := rfl
@[simp] theorem Hart.raise_runNs (h : Hart) (f : BitVec 5) : (h.raise f).runNs = h.runNs := rfl
@[simp] theorem Hart.raise_dogAt (h : Hart) (f : BitVec 5) : (h.raise f).dogAt = h.dogAt := rfl
@[simp] theorem Hart.raise_unbilled (h : Hart) (f : BitVec 5) : (h.raise f).unbilled = h.unbilled := rfl
@[simp] theorem Hart.raise_unbilledLane (h : Hart) (f : BitVec 5) : (h.raise f).unbilledLane = h.unbilledLane := rfl
@[simp] theorem Hart.raise_msg (h : Hart) (f : BitVec 5) : (h.raise f).msg = h.msg := rfl

/-! ## Hart.setPred -/

@[simp] theorem Hart.setPred_id (h : Hart) (p : PReg) (x : BitVec 16384) : (h.setPred p x).id = h.id := by
  unfold Hart.setPred; split <;> rfl
@[simp] theorem Hart.setPred_run (h : Hart) (p : PReg) (x : BitVec 16384) : (h.setPred p x).run = h.run := by
  unfold Hart.setPred; split <;> rfl
@[simp] theorem Hart.setPred_sc (h : Hart) (p : PReg) (x : BitVec 16384) : (h.setPred p x).sc = h.sc := by
  unfold Hart.setPred; split <;> rfl
@[simp] theorem Hart.setPred_ln (h : Hart) (p : PReg) (x : BitVec 16384) : (h.setPred p x).ln = h.ln := by
  unfold Hart.setPred; split <;> rfl
@[simp] theorem Hart.setPred_tr (h : Hart) (p : PReg) (x : BitVec 16384) : (h.setPred p x).tr = h.tr := by
  unfold Hart.setPred; split <;> rfl
@[simp] theorem Hart.setPred_vq (h : Hart) (p : PReg) (x : BitVec 16384) : (h.setPred p x).vq = h.vq := by
  unfold Hart.setPred; split <;> rfl
@[simp] theorem Hart.setPred_wait (h : Hart) (p : PReg) (x : BitVec 16384) : (h.setPred p x).wait = h.wait := by
  unfold Hart.setPred; split <;> rfl
@[simp] theorem Hart.setPred_ir (h : Hart) (p : PReg) (x : BitVec 16384) : (h.setPred p x).ir = h.ir := by
  unfold Hart.setPred; split <;> rfl
@[simp] theorem Hart.setPred_due (h : Hart) (p : PReg) (x : BitVec 16384) : (h.setPred p x).due = h.due := by
  unfold Hart.setPred; split <;> rfl
@[simp] theorem Hart.setPred_stores (h : Hart) (p : PReg) (x : BitVec 16384) : (h.setPred p x).stores = h.stores := by
  unfold Hart.setPred; split <;> rfl
@[simp] theorem Hart.setPred_recs (h : Hart) (p : PReg) (x : BitVec 16384) : (h.setPred p x).recs = h.recs := by
  unfold Hart.setPred; split <;> rfl
@[simp] theorem Hart.setPred_fatal (h : Hart) (p : PReg) (x : BitVec 16384) : (h.setPred p x).fatal = h.fatal := by
  unfold Hart.setPred; split <;> rfl
@[simp] theorem Hart.setPred_streams (h : Hart) (p : PReg) (x : BitVec 16384) : (h.setPred p x).streams = h.streams := by
  unfold Hart.setPred; split <;> rfl
@[simp] theorem Hart.setPred_bars (h : Hart) (p : PReg) (x : BitVec 16384) : (h.setPred p x).bars = h.bars := by
  unfold Hart.setPred; split <;> rfl
@[simp] theorem Hart.setPred_notice (h : Hart) (p : PReg) (x : BitVec 16384) : (h.setPred p x).notice = h.notice := by
  unfold Hart.setPred; split <;> rfl
@[simp] theorem Hart.setPred_runNs (h : Hart) (p : PReg) (x : BitVec 16384) : (h.setPred p x).runNs = h.runNs := by
  unfold Hart.setPred; split <;> rfl
@[simp] theorem Hart.setPred_dogAt (h : Hart) (p : PReg) (x : BitVec 16384) : (h.setPred p x).dogAt = h.dogAt := by
  unfold Hart.setPred; split <;> rfl
@[simp] theorem Hart.setPred_unbilled (h : Hart) (p : PReg) (x : BitVec 16384) : (h.setPred p x).unbilled = h.unbilled := by
  unfold Hart.setPred; split <;> rfl
@[simp] theorem Hart.setPred_unbilledLane (h : Hart) (p : PReg) (x : BitVec 16384) : (h.setPred p x).unbilledLane = h.unbilledLane := by
  unfold Hart.setPred; split <;> rfl
@[simp] theorem Hart.setPred_msg (h : Hart) (p : PReg) (x : BitVec 16384) : (h.setPred p x).msg = h.msg := by
  unfold Hart.setPred; split <;> rfl

/-! ## Hart.drew -/

@[simp] theorem Hart.drew_id (h : Hart) (b : Bool) : (h.drew b).id = h.id := by
  unfold Hart.drew; split <;> rfl
@[simp] theorem Hart.drew_run (h : Hart) (b : Bool) : (h.drew b).run = h.run := by
  unfold Hart.drew; split <;> rfl
@[simp] theorem Hart.drew_ln (h : Hart) (b : Bool) : (h.drew b).ln = h.ln := by
  unfold Hart.drew; split <;> rfl
@[simp] theorem Hart.drew_vec (h : Hart) (b : Bool) : (h.drew b).vec = h.vec := by
  unfold Hart.drew; split <;> rfl
@[simp] theorem Hart.drew_tr (h : Hart) (b : Bool) : (h.drew b).tr = h.tr := by
  unfold Hart.drew; split <;> rfl
@[simp] theorem Hart.drew_vq (h : Hart) (b : Bool) : (h.drew b).vq = h.vq := by
  unfold Hart.drew; split <;> rfl
@[simp] theorem Hart.drew_wait (h : Hart) (b : Bool) : (h.drew b).wait = h.wait := by
  unfold Hart.drew; split <;> rfl
@[simp] theorem Hart.drew_ir (h : Hart) (b : Bool) : (h.drew b).ir = h.ir := by
  unfold Hart.drew; split <;> rfl
@[simp] theorem Hart.drew_due (h : Hart) (b : Bool) : (h.drew b).due = h.due := by
  unfold Hart.drew; split <;> rfl
@[simp] theorem Hart.drew_stores (h : Hart) (b : Bool) : (h.drew b).stores = h.stores := by
  unfold Hart.drew; split <;> rfl
@[simp] theorem Hart.drew_recs (h : Hart) (b : Bool) : (h.drew b).recs = h.recs := by
  unfold Hart.drew; split <;> rfl
@[simp] theorem Hart.drew_fatal (h : Hart) (b : Bool) : (h.drew b).fatal = h.fatal := by
  unfold Hart.drew; split <;> rfl
@[simp] theorem Hart.drew_streams (h : Hart) (b : Bool) : (h.drew b).streams = h.streams := by
  unfold Hart.drew; split <;> rfl
@[simp] theorem Hart.drew_bars (h : Hart) (b : Bool) : (h.drew b).bars = h.bars := by
  unfold Hart.drew; split <;> rfl
@[simp] theorem Hart.drew_notice (h : Hart) (b : Bool) : (h.drew b).notice = h.notice := by
  unfold Hart.drew; split <;> rfl
@[simp] theorem Hart.drew_runNs (h : Hart) (b : Bool) : (h.drew b).runNs = h.runNs := by
  unfold Hart.drew; split <;> rfl
@[simp] theorem Hart.drew_dogAt (h : Hart) (b : Bool) : (h.drew b).dogAt = h.dogAt := by
  unfold Hart.drew; split <;> rfl
@[simp] theorem Hart.drew_unbilled (h : Hart) (b : Bool) : (h.drew b).unbilled = h.unbilled := by
  unfold Hart.drew; split <;> rfl
@[simp] theorem Hart.drew_unbilledLane (h : Hart) (b : Bool) : (h.drew b).unbilledLane = h.unbilledLane := by
  unfold Hart.drew; split <;> rfl
@[simp] theorem Hart.drew_msg (h : Hart) (b : Bool) : (h.drew b).msg = h.msg := by
  unfold Hart.drew; split <;> rfl

/-! ## Hart.commitHead -/

@[simp] theorem Hart.commitHead_id (h : Hart) (mx : Bool) : (h.commitHead mx).id = h.id := rfl
@[simp] theorem Hart.commitHead_run (h : Hart) (mx : Bool) : (h.commitHead mx).run = h.run := rfl
@[simp] theorem Hart.commitHead_sc (h : Hart) (mx : Bool) : (h.commitHead mx).sc = h.sc := rfl
@[simp] theorem Hart.commitHead_vec (h : Hart) (mx : Bool) : (h.commitHead mx).vec = h.vec := rfl
@[simp] theorem Hart.commitHead_tr (h : Hart) (mx : Bool) : (h.commitHead mx).tr = h.tr := rfl
@[simp] theorem Hart.commitHead_wait (h : Hart) (mx : Bool) : (h.commitHead mx).wait = h.wait := rfl
@[simp] theorem Hart.commitHead_ir (h : Hart) (mx : Bool) : (h.commitHead mx).ir = h.ir := rfl
@[simp] theorem Hart.commitHead_due (h : Hart) (mx : Bool) : (h.commitHead mx).due = h.due := rfl
@[simp] theorem Hart.commitHead_stores (h : Hart) (mx : Bool) : (h.commitHead mx).stores = h.stores := rfl
@[simp] theorem Hart.commitHead_recs (h : Hart) (mx : Bool) : (h.commitHead mx).recs = h.recs := rfl
@[simp] theorem Hart.commitHead_fatal (h : Hart) (mx : Bool) : (h.commitHead mx).fatal = h.fatal := rfl
@[simp] theorem Hart.commitHead_streams (h : Hart) (mx : Bool) : (h.commitHead mx).streams = h.streams := rfl
@[simp] theorem Hart.commitHead_bars (h : Hart) (mx : Bool) : (h.commitHead mx).bars = h.bars := rfl
@[simp] theorem Hart.commitHead_notice (h : Hart) (mx : Bool) : (h.commitHead mx).notice = h.notice := rfl
@[simp] theorem Hart.commitHead_runNs (h : Hart) (mx : Bool) : (h.commitHead mx).runNs = h.runNs := rfl
@[simp] theorem Hart.commitHead_dogAt (h : Hart) (mx : Bool) : (h.commitHead mx).dogAt = h.dogAt := rfl
@[simp] theorem Hart.commitHead_unbilled (h : Hart) (mx : Bool) : (h.commitHead mx).unbilled = h.unbilled := rfl
@[simp] theorem Hart.commitHead_unbilledLane (h : Hart) (mx : Bool) : (h.commitHead mx).unbilledLane = h.unbilledLane := rfl
@[simp] theorem Hart.commitHead_msg (h : Hart) (mx : Bool) : (h.commitHead mx).msg = h.msg := rfl
@[simp] theorem Hart.commitHead_vq (h : Hart) (mx : Bool) : (h.commitHead mx).vq = h.vq.tail := rfl

/-! ## Registers -/

/-- g0 reads zero (R74). -/
@[simp] theorem Hart.getG_zero (h : Hart) : h.getG 0 = 0 := rfl

theorem Hart.setG_zero (h : Hart) (x : Word) : h.setG 0 x = h := rfl

/-- A register reads what was written to it (R99). -/
theorem Hart.getG_setG_same (h : Hart) (r : GReg) (x : Word) (hr : r ≠ 0) : (h.setG r x).getG r = x := by
  have : r.toNat < 64 := r.isLt
  rw [Hart.getG, Hart.setG, if_neg hr, if_neg hr]
  simp [vget, vset, this]

/-- A write leaves every other register as it was (R99). -/
theorem Hart.getG_setG_ne (h : Hart) (r q : GReg) (x : Word) (hq : q ≠ r) : (h.setG r x).getG q = h.getG q := by
  by_cases hr : r = 0
  · subst hr; rfl
  · by_cases h0 : q = 0
    · subst h0; rfl
    · have hne : r.toNat ≠ q.toNat := fun e => hq (BitVec.eq_of_toNat_eq e.symm)
      rw [Hart.getG, Hart.setG, Hart.getG, if_neg hr, if_neg h0, if_neg h0]
      simp [vget, vset, hne]

@[simp] theorem Hart.getG_advance (h : Hart) (n : Nat) (r : GReg) : (h.advance n).getG r = h.getG r := rfl

/-- Only the registers and FFLAGS may tell two harts apart when one differs by raised flags. -/
@[simp] theorem Hart.getG_raise (h : Hart) (f : BitVec 5) (r : GReg) : (h.raise f).getG r = h.getG r := rfl

theorem Hart.setG_sc (h : Hart) (r : GReg) (x : Word) :
    (h.setG r x).sc = { h.sc with g := (h.setG r x).sc.g } := by
  unfold Hart.setG; split <;> rfl

theorem Hart.setG_eta (h : Hart) (r : GReg) (x : Word) :
    h.setG r x = { h with sc := { h.sc with g := (h.setG r x).sc.g } } := by
  unfold Hart.setG; split <;> rfl

end Sys2Proof.Machine
end

