-- ==== Sys2Proof/Laws/Hart.lean ====
section
/-! SUPPORT. What the shared operations of scalar instructions answer, in the terms of Safety. -/

namespace Sys2Proof.Machine

theorem SameBytes.rfl_hart (s : State) (h : Hart) (hid : h.id = s.hart.id) : SameBytes s (s.withHart h) := by
  refine ⟨fun _ => rfl, fun a => ?_⟩
  simp only [State.seg, State.team?, State.withHart_hart, State.withHart_teams, hid]

/-- Writing a result with flags and going on. -/
theorem writes_of (s : State) (d : GReg) (x pc : Word) (f : BitVec 5) (h : Hart)
    (hh : h = { s.hart.setG d x with
      sc := { (s.hart.setG d x).sc with pc := pc, fflags := s.hart.sc.fflags ||| f, iseq := s.hart.sc.iseq + 1 }
      wait := .none }) : Writes (.next (s.withHart h)) s pc d x f := by
  subst hh
  refine ⟨_, rfl, ⟨rfl, fun hd => ?_, fun r hr => ?_⟩, ?_, SameBytes.rfl_hart _ _ (by simp)⟩
  · exact Hart.getG_setG_same s.hart d x hd
  · exact Hart.getG_setG_ne s.hart d r x hr
  · simp only [State.withHart_hart]
    unfold Hart.setG
    split <;> rfl

/-- A result is written and nothing else happens (R99). -/
theorem writeNext_gives (s : State) (d : GReg) (x : Word) : Gives (writeNext s d x) s d x := by
  refine writes_of s d x _ 0 _ ?_
  simp only [State.setG, State.withHart_hart, Hart.advance, State.pc4]
  unfold Hart.setG
  split <;> simp

/-- A result is written with its flags and nothing else happens (R121). -/
theorem writeFlagged_writes (s : State) (d : GReg) (r : FpRes) :
    Writes (writeFlagged s d r) s s.pc4 d (BitVec.ofNat 64 r.1) r.2 := by
  refine writes_of s d _ _ r.2 _ ?_
  simp only [State.setG, State.withHart_hart, State.raiseFlags, Hart.advance, State.pc4]
  unfold Hart.setG
  split <;> simp

/-- A transfer of control changes the PC only (R69). -/
theorem jump_goes (s : State) (pc : Word) : Goes (.next (s.jump pc)) s pc :=
  ⟨_, rfl, rfl, SameBytes.rfl_hart _ _ rfl⟩

/-- Going on changes the PC only (R68). -/
theorem advance_goes (s : State) : Goes (.next (s.advance 4)) s s.pc4 :=
  ⟨_, rfl, rfl, SameBytes.rfl_hart _ _ rfl⟩

end Sys2Proof.Machine
end

