-- ==== Sys2Proof/Laws/Memory.lean ====
section
/-! SUPPORT. What the memory operations give: reads after writes, bytes left as they were, and the canonical form kept. -/

namespace Sys2Proof.Machine

/-- A memory in canonical form lists nothing below its bound. -/
theorem memRead_below {lo : Nat} {m : List Host.Cell} (h : memWfFrom lo m = true) {a : Nat} (ha : a < lo) :
    memRead m a = 0 := by
  cases m with
  | nil => rfl
  | cons c rest =>
    obtain ⟨k, b⟩ := c
    simp [memWfFrom] at h
    rw [memRead, if_neg (by omega), if_pos (by omega)]

/-- A lower bound may be lowered. -/
theorem memWfFrom_mono {lo lo' : Nat} {m : List Host.Cell} (h : memWfFrom lo m = true) (hl : lo' ≤ lo) :
    memWfFrom lo' m = true := by
  cases m with
  | nil => rfl
  | cons c rest =>
    obtain ⟨k, b⟩ := c
    simp [memWfFrom] at h ⊢
    exact ⟨⟨by omega, h.1.2⟩, h.2⟩

/-- A zero byte is not listed. -/
theorem memCons_zero (a : Nat) (m : List Host.Cell) : memCons a 0 m = m := if_pos rfl

/-- A byte that is not zero is listed. -/
theorem memCons_ne (a : Nat) {v : Byte} (hv : v ≠ 0) (m : List Host.Cell) : memCons a v m = (a, v) :: m := if_neg hv

/-- Listing a byte below the others keeps the canonical form. -/
theorem memCons_wfFrom {lo a : Nat} (v : Byte) {m : List Host.Cell} (ha : lo ≤ a) (h : memWfFrom (a + 1) m = true) :
    memWfFrom lo (memCons a v m) = true := by
  by_cases hv : v = 0
  · rw [hv, memCons_zero]; exact memWfFrom_mono h (by omega)
  · rw [memCons_ne a hv, memWfFrom, h, Bool.and_true, Bool.and_eq_true]
    exact ⟨decide_eq_true ha, bne_iff_ne.mpr hv⟩

/-- What a memory reads once a byte below the others is listed. -/
theorem memRead_memCons {a : Nat} (v : Byte) {m : List Host.Cell} (h : memWfFrom (a + 1) m = true) (b : Nat) :
    memRead (memCons a v m) b = if b = a then v else if b < a then 0 else memRead m b := by
  by_cases hv : v = 0
  · rw [hv, memCons_zero]
    split
    · exact memRead_below h (by omega)
    · split
      · exact memRead_below h (by omega)
      · rfl
  · rw [memCons_ne a hv, memRead]
    by_cases hb : a = b
    · rw [if_pos hb, if_pos hb.symm]
    · rw [if_neg hb, if_neg (Ne.symm hb)]

/-- Writing a byte keeps the canonical form. -/
theorem memWrite_wfFrom {m : List Host.Cell} (a : Nat) (v : Byte) :
    ∀ {lo : Nat}, memWfFrom lo m = true → lo ≤ a → memWfFrom lo (memWrite m a v) = true := by
  induction m with
  | nil => intro lo _ ha; exact memCons_wfFrom v ha rfl
  | cons c rest ih =>
    obtain ⟨k, b⟩ := c
    intro lo h ha
    have h0 := h
    simp only [memWfFrom, Bool.and_eq_true, decide_eq_true_eq] at h
    obtain ⟨⟨hk, hb⟩, hr⟩ := h
    rw [memWrite]
    split
    · next e => subst e; exact memCons_wfFrom v ha hr
    · split
      · refine memCons_wfFrom v ha ?_
        simp only [memWfFrom, Bool.and_eq_true, decide_eq_true_eq]
        exact ⟨⟨by omega, hb⟩, hr⟩
      · simp only [memWfFrom, Bool.and_eq_true, decide_eq_true_eq]
        exact ⟨⟨hk, hb⟩, ih hr (by omega)⟩

/-- A byte reads what was written to it, and every other byte reads as before. -/
theorem memRead_memWrite_from {m : List Host.Cell} (a : Nat) (v : Byte) (b : Nat) :
    ∀ {lo : Nat}, memWfFrom lo m = true → memRead (memWrite m a v) b = if b = a then v else memRead m b := by
  induction m with
  | nil =>
    intro lo _
    rw [memWrite, memRead_memCons v rfl]
    split
    · rfl
    · split <;> rfl
  | cons c rest ih =>
    obtain ⟨k, w⟩ := c
    intro lo h
    have h0 := h
    simp only [memWfFrom, Bool.and_eq_true, decide_eq_true_eq] at h
    obtain ⟨⟨hk, hw⟩, hr⟩ := h
    rw [memWrite]
    split
    · next e =>
      subst e
      rw [memRead_memCons v hr, memRead]
      by_cases hb : b = k
      · rw [if_pos hb, if_pos hb]
      · rw [if_neg hb, if_neg hb, if_neg (Ne.symm hb)]
    · next e =>
      split
      · next hlt =>
        have hm : memWfFrom (a + 1) ((k, w) :: rest) = true := by
          simp only [memWfFrom, Bool.and_eq_true, decide_eq_true_eq]
          exact ⟨⟨by omega, hw⟩, hr⟩
        rw [memRead_memCons v hm]
        split
        · rfl
        · split
          · exact (memRead_below hm (by omega)).symm
          · rfl
      · next hlt =>
        rw [memRead, memRead]
        by_cases hb : k = b
        · rw [if_pos hb, if_pos hb, if_neg (by omega)]
        · rw [if_neg hb, if_neg hb]
          by_cases hbk : b < k
          · rw [if_pos hbk, if_pos hbk, if_neg (by omega)]
          · rw [if_neg hbk, if_neg hbk, ih hr]

/-- Writing a byte keeps the canonical form. -/
theorem memWrite_wf {m : List Host.Cell} (h : Memory.wf m = true) (a : Nat) (v : Byte) :
    Memory.wf (memWrite m a v) = true := memWrite_wfFrom a v h (Nat.zero_le a)

/-- A byte reads what was written to it, and every other byte reads as before. -/
theorem memRead_memWrite {m : List Host.Cell} (h : Memory.wf m = true) (a : Nat) (v : Byte) (b : Nat) :
    memRead (memWrite m a v) b = if b = a then v else memRead m b := memRead_memWrite_from a v b h

/-- Writing a number keeps the canonical form. -/
theorem writeLE_wf (n : Nat) : ∀ {m : List Host.Cell} (a v : Nat), Memory.wf m = true →
    Memory.wf (writeLE m a n v) = true := by
  induction n with
  | zero => intro m a v h; exact h
  | succ k ih => intro m a v h; exact ih _ _ (memWrite_wf h _ _)

/-- Writing under a mask keeps the canonical form. -/
theorem writeMasked_wf (n : Nat) : ∀ {m : List Host.Cell} (a data mask : Nat), Memory.wf m = true →
    Memory.wf (writeMasked m a n data mask) = true := by
  induction n with
  | zero => intro m a d k h; exact h
  | succ j ih =>
    intro m a d k h
    rw [writeMasked]
    refine ih _ _ _ ?_
    split
    · exact h
    · exact memWrite_wf h _ _

/-- A number written reads outside its bytes as before. -/
theorem memRead_writeLE_out (n : Nat) : ∀ {m : List Host.Cell} (a v : Nat) (b : Nat), Memory.wf m = true →
    (b < a ∨ a + n ≤ b) → memRead (writeLE m a n v) b = memRead m b := by
  induction n with
  | zero => intro m a v b _ _; rfl
  | succ k ih =>
    intro m a v b h hb
    rw [writeLE, ih _ _ _ (memWrite_wf h _ _) (by omega), memRead_memWrite h, if_neg (by omega)]

/-- A number read depends on its bytes alone. -/
theorem readLE_congr (n : Nat) : ∀ {m m' : List Host.Cell} (a : Nat),
    (∀ b, a ≤ b → b < a + n → memRead m b = memRead m' b) → readLE m a n = readLE m' a n := by
  induction n with
  | zero => intro m m' a _; rfl
  | succ k ih =>
    intro m m' a h
    rw [readLE, readLE, h a (Nat.le_refl a) (by omega), ih (a + 1) (fun b h1 h2 => h b (by omega) (by omega))]

/-- A number reads back as it was written, modulo its size. -/
theorem readLE_writeLE (n : Nat) : ∀ {m : List Host.Cell} (a v : Nat), Memory.wf m = true →
    readLE (writeLE m a n v) a n = v % 256 ^ n := by
  induction n with
  | zero => intro m a v _; simp [readLE, Nat.mod_one]
  | succ k ih =>
    intro m a v h
    have hw := memWrite_wf h a (BitVec.ofNat 8 v)
    rw [readLE, writeLE, ih _ _ hw, memRead_writeLE_out k _ _ _ hw (by omega), memRead_memWrite h, if_pos rfl]
    rw [pow_succ, Nat.mul_comm (256 ^ k) 256, Nat.mod_mul]
    simp [BitVec.toNat_ofNat]

/-- A number read is below its size. -/
theorem readLE_lt (n : Nat) : ∀ (m : List Host.Cell) (a : Nat), readLE m a n < 256 ^ n := by
  induction n with
  | zero => intro m a; simp [readLE]
  | succ k ih =>
    intro m a
    have h1 := ih m (a + 1)
    have h2 := (memRead m a).isLt
    rw [readLE, pow_succ]
    omega

/-- The write of whole bytes under a full mask is the plain write. -/
theorem writeMasked_full (n : Nat) : ∀ {m : List Host.Cell} (a v : Nat),
    writeMasked m a n v (256 ^ n - 1) = writeLE m a n v := by
  induction n with
  | zero => intro m a v; rfl
  | succ k ih =>
    intro m a v
    have hp : 0 < 256 ^ k := Nat.pow_pos (by decide)
    have e1 : (256 ^ (k + 1) - 1) / 256 = 256 ^ k - 1 := by rw [pow_succ]; omega
    have e2 : BitVec.ofNat 8 (256 ^ (k + 1) - 1) = 255#8 := by
      apply BitVec.eq_of_toNat_eq; rw [BitVec.toNat_ofNat, pow_succ]; simp; omega
    have e3 : memRead m a &&& ~~~255#8 ||| BitVec.ofNat 8 v &&& 255#8 = BitVec.ofNat 8 v := by
      have h1 : (~~~255#8 : Byte) = 0#8 := by decide
      have h2 : (255#8 : Byte) = BitVec.allOnes 8 := by decide
      rw [h1, h2, BitVec.and_allOnes]; simp
    rw [writeMasked, writeLE, e1, e2]
    rw [if_neg (by decide), e3, ih]

/-- A number written under a mask reads outside its bytes as before. -/
theorem memRead_writeMasked_out (n : Nat) : ∀ {m : List Host.Cell} (a d k b : Nat), Memory.wf m = true →
    (b < a ∨ a + n ≤ b) → memRead (writeMasked m a n d k) b = memRead m b := by
  induction n with
  | zero => intro m a d k b _ _; rfl
  | succ j ih =>
    intro m a d k b h hb
    rw [writeMasked]
    split
    · rw [ih _ _ _ _ h (by omega)]
    · rw [ih _ _ _ _ (memWrite_wf h _ _) (by omega), memRead_memWrite h, if_neg (by omega)]

/-- Leaving cells out keeps the canonical form. -/
theorem memFilter_wfFrom (p : Host.Cell → Bool) (m : List Host.Cell) :
    ∀ {lo : Nat}, memWfFrom lo m = true → memWfFrom lo (m.filter p) = true := by
  induction m with
  | nil => intro lo _; rfl
  | cons c rest ih =>
    obtain ⟨k, b⟩ := c
    intro lo h
    simp only [memWfFrom, Bool.and_eq_true, decide_eq_true_eq, bne_iff_ne, ne_eq] at h
    rw [List.filter_cons]
    split
    · simp only [memWfFrom, Bool.and_eq_true, decide_eq_true_eq, bne_iff_ne, ne_eq]
      exact ⟨h.1, ih h.2⟩
    · exact memWfFrom_mono (ih h.2) (by omega)

/-- Zeroing a range keeps the canonical form. -/
theorem memClear_wf {m : List Host.Cell} (h : Memory.wf m = true) (a n : Nat) :
    Memory.wf (memClear m a n) = true := memFilter_wfFrom _ m h

/-- Writing HBM's bytes keeps the canonical form. -/
theorem hbmWriteMasked_wf {s : State} (h : Memory.wf s.mem = true) (pa n data mask : Nat) (cached : Bool) :
    Memory.wf (hbmWriteMasked s pa n data mask cached).mem = true := writeMasked_wf n _ _ _ h

/-- Writing HBM's bytes keeps the canonical form. -/
theorem hbmWrite_wf {s : State} (h : Memory.wf s.mem = true) (pa n data : Nat) (cached : Bool) :
    Memory.wf (hbmWrite s pa n data cached).mem = true := hbmWriteMasked_wf h _ _ _ _ _

end Sys2Proof.Machine
end

