-- ==== Sys2Proof/Laws/Access.lean ====
section
/-! SUPPORT. What scalar accesses to the near window answer. -/

namespace Sys2Proof.Machine

/-- The checks of an access that `NearAt` describes all pass (R226, R254, R283). -/
theorem near_checks {s : State} {a : Word} {n : Nat} (h : NearAt s a n) (hn : n ≠ 0) :
    preCheck s a.toNat n = none ∧ inNear a.toNat = true ∧ nearOk s a.toNat n = true := by
  obtain ⟨h1, h2, h3, h4, h5⟩ := h
  unfold nearOff nearVa at *
  have hg : globalHalf a.toNat = false := by
    unfold globalHalf natBit
    have : a.toNat / 2 ^ 55 = 0 := by omega
    rw [this]; rfl
  refine ⟨?_, ?_, ?_⟩
  · have hb : a.toNat < 2 ^ 56 := by omega
    unfold preCheck addressOk
    rw [if_neg (by simp [h4]), decide_eq_true hb, hg]
    rfl
  · have hb : a.toNat < 0x10000000000 + 0x400000 := by omega
    unfold inNear nearVa
    rw [decide_eq_true h2, decide_eq_true hb]; rfl
  · unfold nearOk nearVa
    exact decide_eq_true h3

/-- An entry that accesses no memory meets no address (log 10). -/
theorem meets_of_touches {h : Hart} (a : Word) (n : Nat) (hq : h.queueTouches = false) : h.queueMeets a n = false := by
  unfold Hart.queueTouches at hq
  unfold Hart.queueMeets
  rw [List.any_eq_false] at hq ⊢
  intro e he
  have := hq e he
  simp only [bne_iff_ne, ne_eq, Decidable.not_not] at this
  rw [this]
  exact Bool.false_ne_true

/-- An access in the segment that no earlier entry may touch, none accessing memory at all. -/
theorem InSegment.near {s : State} {a : Word} {n : Nat} (h : InSegment s a n) (hq : s.hart.queueTouches = false) : NearAt s a n :=
  ⟨h.1, h.2.1, h.2.2.1, h.2.2.2, meets_of_touches a n hq⟩

/-- An access to the near window reads no space-table entry, so it waits for no snoop (R227, R282). -/
theorem near_snoop {s : State} {a : Word} {n : Nat} (h : NearAt s a n) : checkSnoop s a.toNat n = none := by
  obtain ⟨h1, h2, h3, h4, -⟩ := h
  have hg : globalHalf a.toNat = false := by
    unfold nearOff nearVa at *
    unfold globalHalf natBit
    have : a.toNat / 2 ^ 55 = 0 := by omega
    rw [this]; rfl
  unfold checkSnoop entrySnoop
  simp [hg]

/-- The checks of R254 let such an access go on. -/
theorem near_goesOn {s : State} {a : Word} {n : Nat} (h : NearAt s a n) (hn : n ≠ 0) (k : State → Out) : withCheck s a n k = k s := by
  simp only [withCheck, near_snoop h, (near_checks h hn).1]

/-- A load from the near window writes the segment's bytes (R258, R283). -/
theorem loadTo_near {s : State} {a : Word} {n : Nat} (g : GReg) (e : Bool) (hd : NoDeviceRead s) (h : NearAt s a n)
    (hn : n ≠ 0) :
    loadTo g a n e s = writeNext s g
      (if e && natBit (readLE s.seg (nearOff a) n) (8 * n - 1) then
        BitVec.ofInt 64 ((readLE s.seg (nearOff a) n : Int) - (2 ^ (8 * n) : Nat))
      else BitVec.ofNat 64 (readLE s.seg (nearOff a) n)) := by
  obtain ⟨p1, p2, p3⟩ := near_checks h hn
  have h5 := h.2.2.2.2
  unfold NoDeviceRead at hd
  simp only [loadTo, scalarLoad, devBegun, hd, Option.bind_none, near_goesOn h hn, near_snoop h, p1, h5, loadUnit, p2, p3, if_true, onLoad,
    nearOff, Bool.false_eq_true, if_false]
  rfl

/-- The segment of the hart after a change of its bytes. -/
theorem seg_updSeg (s : State) (f : List Host.Cell → List Host.Cell) (h : s.team? s.hart.id.ref.team ≠ none) :
    (s.updSeg f).seg = f s.seg := by
  obtain ⟨t, ht⟩ := Option.ne_none_iff_exists'.mp h
  have key : ∀ (l : List Team), l.find? (fun t => t.uid == s.hart.id.ref.team) = some t →
      (upd l (fun t => t.uid == s.hart.id.ref.team) (fun t => { t with seg := f t.seg })).find?
        (fun t => t.uid == s.hart.id.ref.team) = some { t with seg := f t.seg } := by
    intro l
    induction l with
    | nil => intro h; cases h
    | cons x r ih =>
      intro h
      rw [List.find?_cons] at h
      simp only [upd, List.map_cons, List.find?_cons]
      cases hx : x.uid == s.hart.id.ref.team with
      | true =>
        rw [hx] at h
        cases h
        simp [hx]
      | false =>
        rw [hx] at h
        simp only [hx, Bool.false_eq_true, if_false]
        exact ih h
  have e1 : s.seg = t.seg := by simp [State.seg, ht]
  have e2 : (s.updSeg f).seg = f t.seg := by
    simp only [State.seg, State.updSeg, State.updTeam, State.team?] at ht ⊢
    rw [key s.teams ht]; rfl
  rw [e1, e2]

/-- The segment of the hart once its bytes and the hart's own parts have changed. -/
theorem seg_put (s : State) (f : List Host.Cell → List Host.Cell) (h : Hart)
    (ht : s.team? s.hart.id.ref.team ≠ none) (hid : h.id = s.hart.id) : ((s.updSeg f).withHart h).seg = f s.seg := by
  rw [← seg_updSeg s f ht]
  simp only [State.seg, State.team?, State.withHart_hart, State.withHart_teams, hid]
  rfl

/-- A change of the hart's other parts leaves its segment. -/
theorem seg_withHart (s : State) (h : Hart) (hid : h.id = s.hart.id) : (s.withHart h).seg = s.seg := by
  simp only [State.seg, State.team?, State.withHart_hart, State.withHart_teams, hid]

/-- A segment with room for an access belongs to a team. -/
theorem NearAt.team {s : State} {a : Word} {n : Nat} (h : NearAt s a n) (hn : n ≠ 0) :
    s.team? s.hart.id.ref.team ≠ none := by
  intro hc
  have : s.segBytes = 0 := by simp [State.segBytes, hc]
  have := h.2.2.1
  omega

/-- A store to the near window writes the segment's bytes (R258, R283). -/
theorem storeFrom_near {s : State} {a : Word} {n : Nat} (g : GReg) (h : NearAt s a n) (hq : s.hart.queueTouches = false) (hn : n ≠ 0) :
    storeFrom g a n s =
      .next ((s.updSeg (fun m => writeLE m (nearOff a) n ((s.g g).toNat % 2 ^ (8 * n)))).withHart s.hart.wentOn) := by
  obtain ⟨p1, p2, p3⟩ := near_checks h hn
  have e : 2 ^ (8 * n) = 256 ^ n := by
    rw [pow_mul]; rfl
  simp only [storeFrom, scalarStore, near_goesOn h hn, near_snoop h, p1, hq, placeStore, p2, if_true, Bool.false_eq_true, if_false,
    storeUnit, p3]
  simp only [e, writeMasked_full]
  rfl

/-- The answer of a store to the near window, in the terms of Safety. -/
theorem storesNear_of {s : State} {a : Word} {n : Nat} (x : Nat) (h : NearAt s a n) (hn : n ≠ 0)
    (hw : Memory.wf s.seg = true) :
    StoresNear (.next ((s.updSeg (fun m => writeLE m (nearOff a) n (x % 2 ^ (8 * n)))).withHart s.hart.wentOn))
      s a n x := by
  have ht := h.team hn
  have e : 2 ^ (8 * n) = 256 ^ n := by rw [pow_mul]; rfl
  refine ⟨_, _, rfl, rfl, ?_, ?_, fun _ => rfl⟩
  · rw [seg_put s _ _ ht, readLE_writeLE n _ _ hw, e, Nat.mod_mod]
    rfl
  · intro b hb
    rw [seg_put s _ _ ht, memRead_writeLE_out n _ _ _ hw hb]
    rfl

/-- A release whose conditions are met goes on (R318). -/
theorem withRelease_ready {s : State} {sc : Scope} (h : ReleaseReady s sc) (val : Word) (k : Out) :
    withRelease s sc val k = k := by
  obtain ⟨h1, h2⟩ := h
  have e1 : (s.hart.stores.any (fun l => !l.reached sc)) = false := by
    rw [List.any_eq_false]; intro l hl; simp [(h2 l hl).1]
  have e2 : s.hart.holds = false := by
    unfold Hart.holds
    rw [List.any_eq_false]; intro l hl; simpa using (h2 l hl).2
  simp [withRelease, Hart.releaseWaits, h1, e1, e2]

/-- Changing nothing of a segment changes nothing. -/
theorem updSeg_id (s : State) : s.updSeg (fun m => m) = s := by
  simp [State.updSeg, State.updTeam, upd]

/-- What an atomic on the near window answers (R262, R264). -/
theorem amoAccess_near {s : State} {d a b : GReg} (f : AmoFn) (h : NearAt s (s.g a) 8) (hq : s.hart.queueTouches = false) (hw : Memory.wf s.seg = true)
    (new : Nat) (fl : BitVec 5)
    (hf : ∀ old, old = readLE s.seg (nearOff (s.g a)) 8 → old < 2 ^ 64 →
      (((f old (s.g b) (s.g d)).1 = some new ∨ ((f old (s.g b) (s.g d)).1 = none ∧ new = old)) ∧ new < 2 ^ 64 ∧
        (f old (s.g b) (s.g d)).2 = fl)) :
    AtomicNear (amoAccess f d a b s) s (s.g a) d new fl := by
  obtain ⟨p1, p2, p3⟩ := near_checks h (by decide)
  have ht := h.team (by decide)
  obtain ⟨q1, q2, q3⟩ := hf _ rfl (by have := readLE_lt 8 s.seg (nearOff (s.g a)); simpa using this)
  simp only [amoAccess, hq, Bool.false_eq_true, if_false, atomicUnit, near_snoop h, p1, p2, if_true, p3]
  have hart : ∀ (u : State), u.hart = s.hart → ((((u.raiseFlags fl).setG d
      (BitVec.ofNat 64 (readLE s.seg (nearOff (s.g a)) 8))).advance 4) =
      u.withHart { s.hart.wentOn with
        sc := { s.hart.wentOn.sc with
          g := (s.hart.setG d (BitVec.ofNat 64 (readLE s.seg (nearOff (s.g a)) 8))).sc.g
          fflags := s.hart.sc.fflags ||| fl } }) := by
    intro u hu
    simp only [State.setG, State.withHart_hart, State.raiseFlags, State.advance, hu, Hart.advance, Hart.wentOn,
      State.withHart_withHart]
    unfold Hart.setG
    split <;> rfl
  have regs : ∀ (u : State), u.hart.sc.g = (s.hart.setG d (BitVec.ofNat 64 (readLE s.seg (nearOff (s.g a)) 8))).sc.g →
      OnlyG s u d (BitVec.ofNat 64 (readLE s.seg (nearOff (s.g a)) 8)) := by
    intro u hu
    have hg : ∀ r, u.g r = (s.hart.setG d (BitVec.ofNat 64 (readLE s.seg (nearOff (s.g a)) 8))).getG r := by
      intro r; simp only [State.g, Hart.getG, hu]
    refine ⟨by rw [hg]; rfl, fun hd => by rw [hg]; exact Hart.getG_setG_same _ _ _ hd, fun r hr => ?_⟩
    rw [hg]; exact Hart.getG_setG_ne _ _ _ _ hr
  change AtomicNear (match (match (f (readLE s.seg (nearOff (s.g a)) 8) (s.g b) (s.g d)).1 with
    | some v => AtomicRes.done (readLE s.seg (nearOff (s.g a)) 8) (s.updSeg (fun m => writeLE m (nearOff (s.g a)) 8 v))
    | none => AtomicRes.done (readLE s.seg (nearOff (s.g a)) 8) s) with
    | .done old s' => Host.Outcome.next (((s'.raiseFlags (f old (s.g b) (s.g d)).2).setG d (BitVec.ofNat 64 old)).advance 4)
    | .fault code s' => trapAt s' (BitVec.ofNat 8 code) (s.g a)
    | .wait w s' => waiting s' w) _ _ _ _ _
  rcases q1 with q1 | ⟨q1, q4⟩ <;> simp only [q1, q3]
  · rw [hart (s.updSeg (fun m => writeLE m (nearOff (s.g a)) 8 new)) rfl]
    refine ⟨_, fun m => writeLE m (nearOff (s.g a)) 8 new, rfl, regs _ rfl, rfl, ?_, ?_, fun _ => rfl⟩
    · rw [seg_put s _ _ ht, readLE_writeLE 8 _ _ hw]
      · exact Nat.mod_eq_of_lt (by simpa using q2)
      · rfl
    · intro b hb
      rw [seg_put s _ _ ht, memRead_writeLE_out 8 _ _ _ hw hb]
      rfl
  · rw [hart s rfl]
    refine ⟨_, fun m => m, rfl, regs _ rfl, by rw [updSeg_id]; rfl, ?_, ?_, fun _ => rfl⟩
    · rw [seg_withHart, q4]
      rfl
    · intro b hb
      rw [seg_withHart]
      rfl

end Sys2Proof.Machine
end

