-- ==== Sys2Proof/Laws/Encoding.lean ====
section
/-! SUPPORT. Words as lists of fields: what the decoder's readers of a word give on a word built from its fields. -/

namespace Sys2Proof.Laws

/-- Fields from bit 0 up, as one number. -/
def pack : List (Σ n, BitVec n) → Nat
  | [] => 0
  | ⟨n, v⟩ :: r => v.toNat + 2 ^ n * pack r

/-- The field of `k` bits at bit `lo`. -/
def look : List (Σ n, BitVec n) → Nat → Nat → Option Nat
  | [], _, _ => none
  | ⟨n, v⟩ :: r, lo, k =>
    if lo = 0 then (if k = n then some v.toNat else none) else if n ≤ lo then look r (lo - n) k else none

/-- How many bits the fields have. -/
def bitsOf : List (Σ n, BitVec n) → Nat
  | [] => 0
  | x :: r => x.1 + bitsOf r

theorem pack_lt (l : List (Σ n, BitVec n)) : pack l < 2 ^ bitsOf l := by
  induction l with
  | nil => simp [pack, bitsOf]
  | cons x r ih =>
    obtain ⟨n, v⟩ := x
    simp only [pack, bitsOf, Nat.pow_add]
    have h := v.isLt
    calc v.toNat + 2 ^ n * pack r < 2 ^ n + 2 ^ n * pack r := by omega
      _ = 2 ^ n * (pack r + 1) := by ring
      _ ≤ 2 ^ n * 2 ^ bitsOf r := Nat.mul_le_mul_left _ ih

theorem fld_pack (l : List (Σ n, BitVec n)) (lo k x : Nat) (h : look l lo k = some x) : fld (pack l) lo k = x := by
  induction l generalizing lo with
  | nil => simp [look] at h
  | cons y r ih =>
    obtain ⟨n, v⟩ := y
    have hv := v.isLt
    simp only [look] at h
    split at h
    · split at h
      · subst_vars
        simp only [Option.some.injEq] at h
        subst h
        simp only [fld, pack, Nat.pow_zero, Nat.div_one, Nat.add_mul_mod_self_left]
        exact Nat.mod_eq_of_lt hv
      · simp at h
    · split at h
      · rename_i h1
        rw [← ih _ h]
        simp only [fld, pack]
        have e : 2 ^ lo = 2 ^ n * 2 ^ (lo - n) := by rw [← Nat.pow_add]; congr 1; omega
        rw [e, ← Nat.div_div_eq_div_mul, Nat.add_mul_div_left _ _ (Nat.two_pow_pos n), Nat.div_eq_of_lt hv, Nat.zero_add]
      · simp at h

theorem bits_pack (l : List (Σ n, BitVec n)) (lo k : Nat) (v : BitVec k) (h : look l lo k = some v.toNat) :
    bits (pack l) lo k = v := by
  apply BitVec.eq_of_toNat_eq
  rw [← fld_pack l lo k _ h]
  simp [bits, fld]

theorem flag_pack (l : List (Σ n, BitVec n)) (lo : Nat) (z : Bool) (h : look l lo 1 = some (BitVec.ofBool z).toNat) :
    flag (pack l) lo = z := by
  have e := fld_pack l lo 1 _ h
  simp only [fld, Nat.pow_one] at e
  unfold flag
  rw [e]
  cases z <;> rfl

theorem Fmt.ofCode_code (f : Fmt) : Fmt.ofCode f.code = f := by cases f <;> rfl
theorem Scope.ofCode_code (f : Scope) : Scope.ofCode f.code = f := by cases f <;> rfl
theorem MemOrder.ofCode_code (f : MemOrder) : MemOrder.ofCode f.code = f := by cases f <;> rfl

theorem takeWord_bytes (w : BitVec 32) (r : List Byte) : takeWord (bytesLE 4 w.toNat ++ r) = some (w, r) := by
  have h : (BitVec.ofNat 8 (w.toNat / 256 / 256 / 256) ++ BitVec.ofNat 8 (w.toNat / 256 / 256)
      ++ BitVec.ofNat 8 (w.toNat / 256) ++ BitVec.ofNat 8 w.toNat : BitVec 32) = w := by
    have hlt := w.isLt
    apply BitVec.eq_of_toNat_eq
    simp only [BitVec.toNat_append, BitVec.toNat_ofNat, Nat.shiftLeft_eq, Nat.mul_comm _ (2 ^ 8)]
    rw [← Nat.two_pow_add_eq_or_of_lt, ← Nat.two_pow_add_eq_or_of_lt, ← Nat.two_pow_add_eq_or_of_lt]
    all_goals omega
  simp only [bytesLE, List.cons_append, List.nil_append, takeWord]
  rw [h]

theorem append_toNat {n k : Nat} (x : BitVec n) (y : BitVec k) : (x ++ y).toNat = y.toNat + 2 ^ k * x.toNat := by
  rw [BitVec.toNat_append, Nat.shiftLeft_eq, Nat.mul_comm, ← Nat.two_pow_add_eq_or_of_lt y.isLt, Nat.add_comm]

theorem halves {n k m : Nat} (x : BitVec m) (h : n + k = m) :
    (x.extractLsb' k n ++ x.extractLsb' 0 k).toNat = x.toNat := by
  subst h
  have hx := x.isLt
  rw [append_toNat, BitVec.extractLsb'_toNat, BitVec.extractLsb'_toNat, Nat.shiftRight_zero, Nat.shiftRight_eq_div_pow,
    Nat.mod_eq_of_lt (Nat.div_lt_of_lt_mul (hx.trans_eq (by rw [Nat.pow_add, Nat.mul_comm]))), Nat.mod_add_div]

theorem fields_Op (w : Nat) (h : fld w 26 6 = 1) : decodeFields w = decodeOp w := by unfold decodeFields; rw [h]; rfl

theorem fields_Opi (w : Nat) (h : fld w 26 6 = 2) : decodeFields w = decodeOpi w := by unfold decodeFields; rw [h]; rfl

theorem fields_Lhi (w : Nat) (h : fld w 26 6 = 3) : decodeFields w = decodeLhi w := by unfold decodeFields; rw [h]; rfl

theorem fields_Brc (w : Nat) (h : fld w 26 6 = 4) : decodeFields w = decodeBrc w := by unfold decodeFields; rw [h]; rfl

theorem fields_Brz (w : Nat) (h : fld w 26 6 = 5) : decodeFields w = decodeBrz w := by unfold decodeFields; rw [h]; rfl

theorem fields_Jal (w : Nat) (h : fld w 26 6 = 6) : decodeFields w = decodeJal w := by unfold decodeFields; rw [h]; rfl

theorem fields_Jalr (w : Nat) (h : fld w 26 6 = 7) : decodeFields w = decodeJalr w := by unfold decodeFields; rw [h]; rfl

theorem fields_Ld (w : Nat) (h : fld w 26 6 = 8) : decodeFields w = decodeLd w := by unfold decodeFields; rw [h]; rfl

theorem fields_St (w : Nat) (h : fld w 26 6 = 9) : decodeFields w = decodeSt w := by unfold decodeFields; rw [h]; rfl

theorem fields_LdstO (w : Nat) (h : fld w 26 6 = 10) : decodeFields w = decodeLdstO w := by unfold decodeFields; rw [h]; rfl

theorem fields_Amo (w : Nat) (h : fld w 26 6 = 11) : decodeFields w = decodeAmo w := by unfold decodeFields; rw [h]; rfl

theorem fields_Fop (w : Nat) (h : fld w 26 6 = 12) : decodeFields w = decodeFop w := by unfold decodeFields; rw [h]; rfl

theorem fields_Sys (w : Nat) (h : fld w 26 6 = 13) : decodeFields w = decodeSys w := by unfold decodeFields; rw [h]; rfl

theorem fields_Sync (w : Nat) (h : fld w 26 6 = 14) : decodeFields w = decodeSync w := by unfold decodeFields; rw [h]; rfl

theorem fields_Vop (w : Nat) (h : fld w 26 6 = 16) : decodeFields w = decodeVop w := by unfold decodeFields; rw [h]; rfl

theorem fields_Vopx (w : Nat) (h : fld w 26 6 = 17) : decodeFields w = decodeVopx w := by unfold decodeFields; rw [h]; rfl

theorem fields_Vopi (w : Nat) (h : fld w 26 6 = 18) : decodeFields w = decodeVopi w := by unfold decodeFields; rw [h]; rfl

theorem fields_Vcmp (w : Nat) (h : fld w 26 6 = 19) : decodeFields w = decodeVcmp w := by unfold decodeFields; rw [h]; rfl

theorem fields_Vred (w : Nat) (h : fld w 26 6 = 20) : decodeFields w = decodeVred w := by unfold decodeFields; rw [h]; rfl

theorem fields_Vperm (w : Nat) (h : fld w 26 6 = 21) : decodeFields w = decodeVperm w := by unfold decodeFields; rw [h]; rfl

theorem fields_Vcvt (w : Nat) (h : fld w 26 6 = 22) : decodeFields w = decodeVcvt w := by unfold decodeFields; rw [h]; rfl

theorem fields_Vset (w : Nat) (h : fld w 26 6 = 23) : decodeFields w = decodeVset w := by unfold decodeFields; rw [h]; rfl

theorem fields_Vld (w : Nat) (h : fld w 26 6 = 24) : decodeFields w = decodeVld w := by unfold decodeFields; rw [h]; rfl

theorem fields_Vst (w : Nat) (h : fld w 26 6 = 25) : decodeFields w = decodeVst w := by unfold decodeFields; rw [h]; rfl

theorem fields_Vmx (w : Nat) (h : fld w 26 6 = 26) : decodeFields w = decodeVmx w := by unfold decodeFields; rw [h]; rfl

theorem fields_Vamo (w : Nat) (h : fld w 26 6 = 27) : decodeFields w = decodeVamo w := by unfold decodeFields; rw [h]; rfl

theorem fields_Vpred (w : Nat) (h : fld w 26 6 = 28) : decodeFields w = decodeVpred w := by unfold decodeFields; rw [h]; rfl

theorem fields_Mx (w : Nat) (h : fld w 26 6 = 32) : decodeFields w = decodeMx w := by unfold decodeFields; rw [h]; rfl

theorem fields_Cp (w : Nat) (h : fld w 26 6 = 33) : decodeFields w = decodeCp w := by unfold decodeFields; rw [h]; rfl

theorem fields_Cpc (w : Nat) (h : fld w 26 6 = 34) : decodeFields w = decodeCpc w := by unfold decodeFields; rw [h]; rfl

theorem queued_Vop (w : Nat) (h : fld w 26 6 = 16) : decodeQueued w = decodeVop w := by unfold decodeQueued; rw [h]; rfl

theorem queued_Vopx (w : Nat) (h : fld w 26 6 = 17) : decodeQueued w = decodeVopx w := by unfold decodeQueued; rw [h]; rfl

theorem queued_Vopi (w : Nat) (h : fld w 26 6 = 18) : decodeQueued w = decodeVopi w := by unfold decodeQueued; rw [h]; rfl

theorem queued_Vcmp (w : Nat) (h : fld w 26 6 = 19) : decodeQueued w = decodeVcmp w := by unfold decodeQueued; rw [h]; rfl

theorem queued_Vred (w : Nat) (h : fld w 26 6 = 20) : decodeQueued w = decodeVred w := by unfold decodeQueued; rw [h]; rfl

theorem queued_Vperm (w : Nat) (h : fld w 26 6 = 21) : decodeQueued w = decodeVperm w := by unfold decodeQueued; rw [h]; rfl

theorem queued_Vcvt (w : Nat) (h : fld w 26 6 = 22) : decodeQueued w = decodeVcvt w := by unfold decodeQueued; rw [h]; rfl

theorem queued_Vset (w : Nat) (h : fld w 26 6 = 23) : decodeQueued w = decodeVset w := by unfold decodeQueued; rw [h]; rfl

theorem queued_Vld (w : Nat) (h : fld w 26 6 = 24) : decodeQueued w = decodeVld w := by unfold decodeQueued; rw [h]; rfl

theorem queued_Vst (w : Nat) (h : fld w 26 6 = 25) : decodeQueued w = decodeVst w := by unfold decodeQueued; rw [h]; rfl

theorem queued_Vmx (w : Nat) (h : fld w 26 6 = 26) : decodeQueued w = decodeVmx w := by unfold decodeQueued; rw [h]; rfl

theorem queued_Vamo (w : Nat) (h : fld w 26 6 = 27) : decodeQueued w = decodeVamo w := by unfold decodeQueued; rw [h]; rfl

theorem queued_Vpred (w : Nat) (h : fld w 26 6 = 28) : decodeQueued w = decodeVpred w := by unfold decodeQueued; rw [h]; rfl

theorem queued_Mx (w : Nat) (h : fld w 26 6 = 32) : decodeQueued w = decodeMx w := by unfold decodeQueued; rw [h]; rfl

theorem queued_Cp (w : Nat) (h : fld w 26 6 = 33) : decodeQueued w = decodeCp w := by unfold decodeQueued; rw [h]; rfl

theorem queued_Cpmask (w : Nat) (h : fld w 26 6 = 34) : decodeQueued w = decodeCpmask w := by unfold decodeQueued; rw [h]; rfl

theorem cpc_mask (w : Nat) (h : fld w 11 3 = 1) : decodeCpc w = decodeCpmask w := by unfold decodeCpc; rw [h]; rfl

end Sys2Proof.Laws
end

