-- ==== Sys2Proof/Laws/PerInstr.lean ====
section
/-! SUPPORT. Decoding gives back what was encoded, instruction by instruction: every operand at every value its field admits. -/

namespace Sys2Proof.Laws.RoundTrip

/-- The bytes of a well-formed instruction, wherever they stand, decode to it, with what follows them left over; and the word of
an instruction of R144 decodes to it at the head of the vector queue. -/
def Statement (i : Instr) : Prop :=
  i.wellFormed = true →
    (encode i ≠ [] → ∀ rest, decodeBytes (encodeBytes i ++ rest) = .ok (i, rest)) ∧
    (i.queued = true → encodeWord i < 2 ^ 32 ∧ decodeQueued (encodeWord i) = some i)

theorem word_ok (i : Instr) (l : List (Σ n, BitVec n)) (he : encodeWord i = pack l) (hb : bitsOf l = 32)
    (hn : encode i = if encodeWord i = 0 then [] else [BitVec.ofNat 32 (encodeWord i)]) (hm : pack l ≠ 0)
    (h1 : fld (pack l) 26 6 ≠ 0x3E) (h2 : fld (pack l) 26 6 ≠ 0x3F) (hd : decodeFields (pack l) = some i)
    (hw : i.wellFormed = true) (rest : List Byte) : decodeBytes (encodeBytes i ++ rest) = .ok (i, rest) := by
  have hlt : pack l < 2 ^ 32 := hb ▸ pack_lt l
  unfold encodeBytes
  rw [hn, he, if_neg hm]
  have htn : (BitVec.ofNat 32 (pack l)).toNat = pack l := by
    rw [BitVec.toNat_ofNat]; exact Nat.mod_eq_of_lt hlt
  have hcat : (BitVec.ofNat 8 (pack l / 256 / 256 / 256) ++ BitVec.ofNat 8 (pack l / 256 / 256)
      ++ BitVec.ofNat 8 (pack l / 256) ++ BitVec.ofNat 8 (pack l) : BitVec 32) = BitVec.ofNat 32 (pack l) := by
    apply BitVec.eq_of_toNat_eq
    simp only [BitVec.toNat_append, BitVec.toNat_ofNat, Nat.shiftLeft_eq, Nat.mul_comm _ (2 ^ 8)]
    rw [← Nat.two_pow_add_eq_or_of_lt, ← Nat.two_pow_add_eq_or_of_lt, ← Nat.two_pow_add_eq_or_of_lt]
    all_goals omega
  simp only [List.flatMap_cons, List.flatMap_nil, List.append_nil, htn, bytesLE, List.cons_append, List.nil_append, decodeBytes,
    takeWord, hcat, isLong, decodeWord, hd, checked, Option.filter, hw]
  simp [h1, h2, Except.map]



theorem word_law {i : Instr} (l : List (Σ n, BitVec n)) (he : encodeWord i = pack l) (k : Nat) (hk : look l 26 6 = some k)
    (hb : bitsOf l = 32) (hn : encode i = if encodeWord i = 0 then [] else [BitVec.ofNat 32 (encodeWord i)])
    (hk0 : (k != 0 && k != 0x3E && k != 0x3F) = true) (f : Nat → Option Instr) (hd : decodeFields (pack l) = f (pack l))
    (hq : i.queued = true → decodeQueued (pack l) = f (pack l)) (h : f (pack l) = some i) : Statement i := by
  have hf := fld_pack l 26 6 k hk
  simp only [Bool.and_eq_true, bne_iff_ne] at hk0
  intro hw
  refine ⟨fun _ rest => word_ok i l he hb hn ?_ (hf ▸ hk0.1.2) (hf ▸ hk0.2) (hd.trans h) hw rest, fun q => he ▸ ⟨hb ▸ pack_lt l, (hq q).trans h⟩⟩
  intro z
  rw [z] at hf
  exact hk0.1.1 (by rw [← hf]; rfl)

theorem event_law (i : Instr) (h : encode i = []) (hq : i.queued = false) : Statement i :=
  fun _ => ⟨fun n => absurd h n, fun q => by rw [hq] at q; cases q⟩

theorem pair_law (i : Instr) (a b : BitVec 32) (he : encode i = [a, b]) (hl : isLong a.toNat = true)
    (hd : decodePair a.toNat b.toNat = some i) (hq : i.queued = false) : Statement i := by
  intro hw
  refine ⟨fun _ rest => ?_, fun q => by rw [hq] at q; cases q⟩
  unfold encodeBytes
  rw [he]
  simp only [List.flatMap_cons, List.flatMap_nil, List.append_nil, List.append_assoc, decodeBytes, takeWord_bytes, hl, if_true,
    decodeLong, hd, checked, Option.filter, hw, Except.map]

theorem liL (d : GReg) (i : BitVec 42) : Statement (.liL d i) := by
  have h1 : (0x3E#6 ++ 0#4 ++ d ++ i.extractLsb' 26 16).toNat
      = pack [⟨16, i.extractLsb' 26 16⟩, ⟨6, d⟩, ⟨4, 0#4⟩, ⟨6, 0x3E#6⟩] := by simp only [append_toNat, pack]; omega
  have h2 : (0x3F#6 ++ i.extractLsb' 0 26).toNat = pack [⟨26, i.extractLsb' 0 26⟩, ⟨6, 0x3F#6⟩] := by
    simp only [append_toNat, pack]; omega
  refine pair_law _ _ _ rfl ?_ ?_ rfl
  · rw [h1, isLong, fld_pack _ 26 6 62 rfl]; rfl
  · rw [h1, h2, decodePair, fld_pack _ 26 6 63 rfl, fld_pack _ 22 4 0 rfl]
    show some (Instr.liL _ _) = _
    rw [bits_pack _ 16 6 d rfl, bits_pack _ 0 16 (i.extractLsb' 26 16) rfl, bits_pack _ 0 26 (i.extractLsb' 0 26) rfl]
    exact congrArg (fun x => some (Instr.liL d x)) (BitVec.eq_of_toNat_eq (halves i rfl))

theorem jalL (d : GReg) (o : BitVec 42) : Statement (.jalL d o) := by
  have h1 : (0x3E#6 ++ 1#4 ++ d ++ o.extractLsb' 26 16).toNat
      = pack [⟨16, o.extractLsb' 26 16⟩, ⟨6, d⟩, ⟨4, 1#4⟩, ⟨6, 0x3E#6⟩] := by simp only [append_toNat, pack]; omega
  have h2 : (0x3F#6 ++ o.extractLsb' 0 26).toNat = pack [⟨26, o.extractLsb' 0 26⟩, ⟨6, 0x3F#6⟩] := by
    simp only [append_toNat, pack]; omega
  refine pair_law _ _ _ rfl ?_ ?_ rfl
  · rw [h1, isLong, fld_pack _ 26 6 62 rfl]; rfl
  · rw [h1, h2, decodePair, fld_pack _ 26 6 63 rfl, fld_pack _ 22 4 1 rfl]
    show some (Instr.jalL _ _) = _
    rw [bits_pack _ 16 6 d rfl, bits_pack _ 0 16 (o.extractLsb' 26 16) rfl, bits_pack _ 0 26 (o.extractLsb' 0 26) rfl]
    exact congrArg (fun x => some (Instr.jalL d x)) (BitVec.eq_of_toNat_eq (halves o rfl))

theorem addiL (d a : GReg) (i : BitVec 36) : Statement (.addiL d a i) := by
  have h1 : (0x3E#6 ++ 2#4 ++ d ++ a ++ i.extractLsb' 26 10).toNat
      = pack [⟨10, i.extractLsb' 26 10⟩, ⟨6, a⟩, ⟨6, d⟩, ⟨4, 2#4⟩, ⟨6, 0x3E#6⟩] := by simp only [append_toNat, pack]; omega
  have h2 : (0x3F#6 ++ i.extractLsb' 0 26).toNat = pack [⟨26, i.extractLsb' 0 26⟩, ⟨6, 0x3F#6⟩] := by
    simp only [append_toNat, pack]; omega
  refine pair_law _ _ _ rfl ?_ ?_ rfl
  · rw [h1, isLong, fld_pack _ 26 6 62 rfl]; rfl
  · rw [h1, h2, decodePair, fld_pack _ 26 6 63 rfl, fld_pack _ 22 4 2 rfl]
    show some (Instr.addiL _ _ _) = _
    rw [bits_pack _ 16 6 d rfl, bits_pack _ 10 6 a rfl,
      bits_pack _ 0 10 (i.extractLsb' 26 10) rfl, bits_pack _ 0 26 (i.extractLsb' 0 26) rfl]
    exact congrArg (fun x => some (Instr.addiL d a x)) (BitVec.eq_of_toNat_eq (halves i rfl))

theorem vadd (d a b : VReg) (p : PReg) (z : Bool) : Statement (.vadd d a b p z) :=
  word_law [⟨7, 0#7⟩, ⟨1, BitVec.ofBool z⟩, ⟨3, p⟩, ⟨5, b⟩, ⟨5, a⟩, ⟨5, d⟩, ⟨6, 16#6⟩]
    (by show w5 0x40000000 d.toNat 21 a.toNat 16 b.toNat 11 p.toNat 8 z.toNat 7 = _; simp only [w5, pack, BitVec.toNat_ofNat, BitVec.toNat_ofBool]; omega) 16 rfl rfl rfl rfl decodeVop
    (fields_Vop _ (fld_pack _ 26 6 16 rfl)) (fun _ => queued_Vop _ (fld_pack _ 26 6 16 rfl))
    (by unfold decodeVop; rw [fld_pack _ 0 7 0 rfl]; rw [bits_pack _ 21 5 d rfl, bits_pack _ 16 5 a rfl, bits_pack _ 11 5 b rfl, bits_pack _ 8 3 p rfl, flag_pack _ 7 z rfl]; rfl)

theorem vsub (d a b : VReg) (p : PReg) (z : Bool) : Statement (.vsub d a b p z) :=
  word_law [⟨7, 1#7⟩, ⟨1, BitVec.ofBool z⟩, ⟨3, p⟩, ⟨5, b⟩, ⟨5, a⟩, ⟨5, d⟩, ⟨6, 16#6⟩]
    (by show w5 0x40000001 d.toNat 21 a.toNat 16 b.toNat 11 p.toNat 8 z.toNat 7 = _; simp only [w5, pack, BitVec.toNat_ofNat, BitVec.toNat_ofBool]; omega) 16 rfl rfl rfl rfl decodeVop
    (fields_Vop _ (fld_pack _ 26 6 16 rfl)) (fun _ => queued_Vop _ (fld_pack _ 26 6 16 rfl))
    (by unfold decodeVop; rw [fld_pack _ 0 7 1 rfl]; rw [bits_pack _ 21 5 d rfl, bits_pack _ 16 5 a rfl, bits_pack _ 11 5 b rfl, bits_pack _ 8 3 p rfl, flag_pack _ 7 z rfl]; rfl)

theorem vmul (d a b : VReg) (p : PReg) (z : Bool) : Statement (.vmul d a b p z) :=
  word_law [⟨7, 2#7⟩, ⟨1, BitVec.ofBool z⟩, ⟨3, p⟩, ⟨5, b⟩, ⟨5, a⟩, ⟨5, d⟩, ⟨6, 16#6⟩]
    (by show w5 0x40000002 d.toNat 21 a.toNat 16 b.toNat 11 p.toNat 8 z.toNat 7 = _; simp only [w5, pack, BitVec.toNat_ofNat, BitVec.toNat_ofBool]; omega) 16 rfl rfl rfl rfl decodeVop
    (fields_Vop _ (fld_pack _ 26 6 16 rfl)) (fun _ => queued_Vop _ (fld_pack _ 26 6 16 rfl))
    (by unfold decodeVop; rw [fld_pack _ 0 7 2 rfl]; rw [bits_pack _ 21 5 d rfl, bits_pack _ 16 5 a rfl, bits_pack _ 11 5 b rfl, bits_pack _ 8 3 p rfl, flag_pack _ 7 z rfl]; rfl)

theorem vdiv (d a b : VReg) (p : PReg) (z : Bool) : Statement (.vdiv d a b p z) :=
  word_law [⟨7, 3#7⟩, ⟨1, BitVec.ofBool z⟩, ⟨3, p⟩, ⟨5, b⟩, ⟨5, a⟩, ⟨5, d⟩, ⟨6, 16#6⟩]
    (by show w5 0x40000003 d.toNat 21 a.toNat 16 b.toNat 11 p.toNat 8 z.toNat 7 = _; simp only [w5, pack, BitVec.toNat_ofNat, BitVec.toNat_ofBool]; omega) 16 rfl rfl rfl rfl decodeVop
    (fields_Vop _ (fld_pack _ 26 6 16 rfl)) (fun _ => queued_Vop _ (fld_pack _ 26 6 16 rfl))
    (by unfold decodeVop; rw [fld_pack _ 0 7 3 rfl]; rw [bits_pack _ 21 5 d rfl, bits_pack _ 16 5 a rfl, bits_pack _ 11 5 b rfl, bits_pack _ 8 3 p rfl, flag_pack _ 7 z rfl]; rfl)

theorem vmin (d a b : VReg) (p : PReg) (z : Bool) : Statement (.vmin d a b p z) :=
  word_law [⟨7, 4#7⟩, ⟨1, BitVec.ofBool z⟩, ⟨3, p⟩, ⟨5, b⟩, ⟨5, a⟩, ⟨5, d⟩, ⟨6, 16#6⟩]
    (by show w5 0x40000004 d.toNat 21 a.toNat 16 b.toNat 11 p.toNat 8 z.toNat 7 = _; simp only [w5, pack, BitVec.toNat_ofNat, BitVec.toNat_ofBool]; omega) 16 rfl rfl rfl rfl decodeVop
    (fields_Vop _ (fld_pack _ 26 6 16 rfl)) (fun _ => queued_Vop _ (fld_pack _ 26 6 16 rfl))
    (by unfold decodeVop; rw [fld_pack _ 0 7 4 rfl]; rw [bits_pack _ 21 5 d rfl, bits_pack _ 16 5 a rfl, bits_pack _ 11 5 b rfl, bits_pack _ 8 3 p rfl, flag_pack _ 7 z rfl]; rfl)

theorem vmax (d a b : VReg) (p : PReg) (z : Bool) : Statement (.vmax d a b p z) :=
  word_law [⟨7, 5#7⟩, ⟨1, BitVec.ofBool z⟩, ⟨3, p⟩, ⟨5, b⟩, ⟨5, a⟩, ⟨5, d⟩, ⟨6, 16#6⟩]
    (by show w5 0x40000005 d.toNat 21 a.toNat 16 b.toNat 11 p.toNat 8 z.toNat 7 = _; simp only [w5, pack, BitVec.toNat_ofNat, BitVec.toNat_ofBool]; omega) 16 rfl rfl rfl rfl decodeVop
    (fields_Vop _ (fld_pack _ 26 6 16 rfl)) (fun _ => queued_Vop _ (fld_pack _ 26 6 16 rfl))
    (by unfold decodeVop; rw [fld_pack _ 0 7 5 rfl]; rw [bits_pack _ 21 5 d rfl, bits_pack _ 16 5 a rfl, bits_pack _ 11 5 b rfl, bits_pack _ 8 3 p rfl, flag_pack _ 7 z rfl]; rfl)

theorem vfma (d a b : VReg) (p : PReg) (z : Bool) : Statement (.vfma d a b p z) :=
  word_law [⟨7, 6#7⟩, ⟨1, BitVec.ofBool z⟩, ⟨3, p⟩, ⟨5, b⟩, ⟨5, a⟩, ⟨5, d⟩, ⟨6, 16#6⟩]
    (by show w5 0x40000006 d.toNat 21 a.toNat 16 b.toNat 11 p.toNat 8 z.toNat 7 = _; simp only [w5, pack, BitVec.toNat_ofNat, BitVec.toNat_ofBool]; omega) 16 rfl rfl rfl rfl decodeVop
    (fields_Vop _ (fld_pack _ 26 6 16 rfl)) (fun _ => queued_Vop _ (fld_pack _ 26 6 16 rfl))
    (by unfold decodeVop; rw [fld_pack _ 0 7 6 rfl]; rw [bits_pack _ 21 5 d rfl, bits_pack _ 16 5 a rfl, bits_pack _ 11 5 b rfl, bits_pack _ 8 3 p rfl, flag_pack _ 7 z rfl]; rfl)

theorem vfms (d a b : VReg) (p : PReg) (z : Bool) : Statement (.vfms d a b p z) :=
  word_law [⟨7, 7#7⟩, ⟨1, BitVec.ofBool z⟩, ⟨3, p⟩, ⟨5, b⟩, ⟨5, a⟩, ⟨5, d⟩, ⟨6, 16#6⟩]
    (by show w5 0x40000007 d.toNat 21 a.toNat 16 b.toNat 11 p.toNat 8 z.toNat 7 = _; simp only [w5, pack, BitVec.toNat_ofNat, BitVec.toNat_ofBool]; omega) 16 rfl rfl rfl rfl decodeVop
    (fields_Vop _ (fld_pack _ 26 6 16 rfl)) (fun _ => queued_Vop _ (fld_pack _ 26 6 16 rfl))
    (by unfold decodeVop; rw [fld_pack _ 0 7 7 rfl]; rw [bits_pack _ 21 5 d rfl, bits_pack _ 16 5 a rfl, bits_pack _ 11 5 b rfl, bits_pack _ 8 3 p rfl, flag_pack _ 7 z rfl]; rfl)

theorem vnfma (d a b : VReg) (p : PReg) (z : Bool) : Statement (.vnfma d a b p z) :=
  word_law [⟨7, 8#7⟩, ⟨1, BitVec.ofBool z⟩, ⟨3, p⟩, ⟨5, b⟩, ⟨5, a⟩, ⟨5, d⟩, ⟨6, 16#6⟩]
    (by show w5 0x40000008 d.toNat 21 a.toNat 16 b.toNat 11 p.toNat 8 z.toNat 7 = _; simp only [w5, pack, BitVec.toNat_ofNat, BitVec.toNat_ofBool]; omega) 16 rfl rfl rfl rfl decodeVop
    (fields_Vop _ (fld_pack _ 26 6 16 rfl)) (fun _ => queued_Vop _ (fld_pack _ 26 6 16 rfl))
    (by unfold decodeVop; rw [fld_pack _ 0 7 8 rfl]; rw [bits_pack _ 21 5 d rfl, bits_pack _ 16 5 a rfl, bits_pack _ 11 5 b rfl, bits_pack _ 8 3 p rfl, flag_pack _ 7 z rfl]; rfl)

theorem vabs (d a : VReg) (p : PReg) (z : Bool) : Statement (.vabs d a p z) :=
  word_law [⟨7, 9#7⟩, ⟨1, BitVec.ofBool z⟩, ⟨3, p⟩, ⟨5, 0#5⟩, ⟨5, a⟩, ⟨5, d⟩, ⟨6, 16#6⟩]
    (by show w4 0x40000009 d.toNat 21 a.toNat 16 p.toNat 8 z.toNat 7 = _; simp only [w4, pack, BitVec.toNat_ofNat, BitVec.toNat_ofBool]; omega) 16 rfl rfl rfl rfl decodeVop
    (fields_Vop _ (fld_pack _ 26 6 16 rfl)) (fun _ => queued_Vop _ (fld_pack _ 26 6 16 rfl))
    (by unfold decodeVop; rw [fld_pack _ 0 7 9 rfl]; rw [fld_pack _ 11 5 0 rfl, bits_pack _ 21 5 d rfl, bits_pack _ 16 5 a rfl, bits_pack _ 8 3 p rfl, flag_pack _ 7 z rfl]; rfl)

theorem vneg (d a : VReg) (p : PReg) (z : Bool) : Statement (.vneg d a p z) :=
  word_law [⟨7, 10#7⟩, ⟨1, BitVec.ofBool z⟩, ⟨3, p⟩, ⟨5, 0#5⟩, ⟨5, a⟩, ⟨5, d⟩, ⟨6, 16#6⟩]
    (by show w4 0x4000000A d.toNat 21 a.toNat 16 p.toNat 8 z.toNat 7 = _; simp only [w4, pack, BitVec.toNat_ofNat, BitVec.toNat_ofBool]; omega) 16 rfl rfl rfl rfl decodeVop
    (fields_Vop _ (fld_pack _ 26 6 16 rfl)) (fun _ => queued_Vop _ (fld_pack _ 26 6 16 rfl))
    (by unfold decodeVop; rw [fld_pack _ 0 7 10 rfl]; rw [fld_pack _ 11 5 0 rfl, bits_pack _ 21 5 d rfl, bits_pack _ 16 5 a rfl, bits_pack _ 8 3 p rfl, flag_pack _ 7 z rfl]; rfl)

theorem vsqrt (d a : VReg) (p : PReg) (z : Bool) : Statement (.vsqrt d a p z) :=
  word_law [⟨7, 11#7⟩, ⟨1, BitVec.ofBool z⟩, ⟨3, p⟩, ⟨5, 0#5⟩, ⟨5, a⟩, ⟨5, d⟩, ⟨6, 16#6⟩]
    (by show w4 0x4000000B d.toNat 21 a.toNat 16 p.toNat 8 z.toNat 7 = _; simp only [w4, pack, BitVec.toNat_ofNat, BitVec.toNat_ofBool]; omega) 16 rfl rfl rfl rfl decodeVop
    (fields_Vop _ (fld_pack _ 26 6 16 rfl)) (fun _ => queued_Vop _ (fld_pack _ 26 6 16 rfl))
    (by unfold decodeVop; rw [fld_pack _ 0 7 11 rfl]; rw [fld_pack _ 11 5 0 rfl, bits_pack _ 21 5 d rfl, bits_pack _ 16 5 a rfl, bits_pack _ 8 3 p rfl, flag_pack _ 7 z rfl]; rfl)

theorem vand (d a b : VReg) (p : PReg) (z : Bool) : Statement (.vand d a b p z) :=
  word_law [⟨7, 12#7⟩, ⟨1, BitVec.ofBool z⟩, ⟨3, p⟩, ⟨5, b⟩, ⟨5, a⟩, ⟨5, d⟩, ⟨6, 16#6⟩]
    (by show w5 0x4000000C d.toNat 21 a.toNat 16 b.toNat 11 p.toNat 8 z.toNat 7 = _; simp only [w5, pack, BitVec.toNat_ofNat, BitVec.toNat_ofBool]; omega) 16 rfl rfl rfl rfl decodeVop
    (fields_Vop _ (fld_pack _ 26 6 16 rfl)) (fun _ => queued_Vop _ (fld_pack _ 26 6 16 rfl))
    (by unfold decodeVop; rw [fld_pack _ 0 7 12 rfl]; rw [bits_pack _ 21 5 d rfl, bits_pack _ 16 5 a rfl, bits_pack _ 11 5 b rfl, bits_pack _ 8 3 p rfl, flag_pack _ 7 z rfl]; rfl)

theorem vor (d a b : VReg) (p : PReg) (z : Bool) : Statement (.vor d a b p z) :=
  word_law [⟨7, 13#7⟩, ⟨1, BitVec.ofBool z⟩, ⟨3, p⟩, ⟨5, b⟩, ⟨5, a⟩, ⟨5, d⟩, ⟨6, 16#6⟩]
    (by show w5 0x4000000D d.toNat 21 a.toNat 16 b.toNat 11 p.toNat 8 z.toNat 7 = _; simp only [w5, pack, BitVec.toNat_ofNat, BitVec.toNat_ofBool]; omega) 16 rfl rfl rfl rfl decodeVop
    (fields_Vop _ (fld_pack _ 26 6 16 rfl)) (fun _ => queued_Vop _ (fld_pack _ 26 6 16 rfl))
    (by unfold decodeVop; rw [fld_pack _ 0 7 13 rfl]; rw [bits_pack _ 21 5 d rfl, bits_pack _ 16 5 a rfl, bits_pack _ 11 5 b rfl, bits_pack _ 8 3 p rfl, flag_pack _ 7 z rfl]; rfl)

theorem vxor (d a b : VReg) (p : PReg) (z : Bool) : Statement (.vxor d a b p z) :=
  word_law [⟨7, 14#7⟩, ⟨1, BitVec.ofBool z⟩, ⟨3, p⟩, ⟨5, b⟩, ⟨5, a⟩, ⟨5, d⟩, ⟨6, 16#6⟩]
    (by show w5 0x4000000E d.toNat 21 a.toNat 16 b.toNat 11 p.toNat 8 z.toNat 7 = _; simp only [w5, pack, BitVec.toNat_ofNat, BitVec.toNat_ofBool]; omega) 16 rfl rfl rfl rfl decodeVop
    (fields_Vop _ (fld_pack _ 26 6 16 rfl)) (fun _ => queued_Vop _ (fld_pack _ 26 6 16 rfl))
    (by unfold decodeVop; rw [fld_pack _ 0 7 14 rfl]; rw [bits_pack _ 21 5 d rfl, bits_pack _ 16 5 a rfl, bits_pack _ 11 5 b rfl, bits_pack _ 8 3 p rfl, flag_pack _ 7 z rfl]; rfl)

theorem vsll (d a b : VReg) (p : PReg) (z : Bool) : Statement (.vsll d a b p z) :=
  word_law [⟨7, 15#7⟩, ⟨1, BitVec.ofBool z⟩, ⟨3, p⟩, ⟨5, b⟩, ⟨5, a⟩, ⟨5, d⟩, ⟨6, 16#6⟩]
    (by show w5 0x4000000F d.toNat 21 a.toNat 16 b.toNat 11 p.toNat 8 z.toNat 7 = _; simp only [w5, pack, BitVec.toNat_ofNat, BitVec.toNat_ofBool]; omega) 16 rfl rfl rfl rfl decodeVop
    (fields_Vop _ (fld_pack _ 26 6 16 rfl)) (fun _ => queued_Vop _ (fld_pack _ 26 6 16 rfl))
    (by unfold decodeVop; rw [fld_pack _ 0 7 15 rfl]; rw [bits_pack _ 21 5 d rfl, bits_pack _ 16 5 a rfl, bits_pack _ 11 5 b rfl, bits_pack _ 8 3 p rfl, flag_pack _ 7 z rfl]; rfl)

theorem vsrl (d a b : VReg) (p : PReg) (z : Bool) : Statement (.vsrl d a b p z) :=
  word_law [⟨7, 16#7⟩, ⟨1, BitVec.ofBool z⟩, ⟨3, p⟩, ⟨5, b⟩, ⟨5, a⟩, ⟨5, d⟩, ⟨6, 16#6⟩]
    (by show w5 0x40000010 d.toNat 21 a.toNat 16 b.toNat 11 p.toNat 8 z.toNat 7 = _; simp only [w5, pack, BitVec.toNat_ofNat, BitVec.toNat_ofBool]; omega) 16 rfl rfl rfl rfl decodeVop
    (fields_Vop _ (fld_pack _ 26 6 16 rfl)) (fun _ => queued_Vop _ (fld_pack _ 26 6 16 rfl))
    (by unfold decodeVop; rw [fld_pack _ 0 7 16 rfl]; rw [bits_pack _ 21 5 d rfl, bits_pack _ 16 5 a rfl, bits_pack _ 11 5 b rfl, bits_pack _ 8 3 p rfl, flag_pack _ 7 z rfl]; rfl)

theorem vsra (d a b : VReg) (p : PReg) (z : Bool) : Statement (.vsra d a b p z) :=
  word_law [⟨7, 17#7⟩, ⟨1, BitVec.ofBool z⟩, ⟨3, p⟩, ⟨5, b⟩, ⟨5, a⟩, ⟨5, d⟩, ⟨6, 16#6⟩]
    (by show w5 0x40000011 d.toNat 21 a.toNat 16 b.toNat 11 p.toNat 8 z.toNat 7 = _; simp only [w5, pack, BitVec.toNat_ofNat, BitVec.toNat_ofBool]; omega) 16 rfl rfl rfl rfl decodeVop
    (fields_Vop _ (fld_pack _ 26 6 16 rfl)) (fun _ => queued_Vop _ (fld_pack _ 26 6 16 rfl))
    (by unfold decodeVop; rw [fld_pack _ 0 7 17 rfl]; rw [bits_pack _ 21 5 d rfl, bits_pack _ 16 5 a rfl, bits_pack _ 11 5 b rfl, bits_pack _ 8 3 p rfl, flag_pack _ 7 z rfl]; rfl)

theorem vmulh (d a b : VReg) (p : PReg) (z : Bool) : Statement (.vmulh d a b p z) :=
  word_law [⟨7, 18#7⟩, ⟨1, BitVec.ofBool z⟩, ⟨3, p⟩, ⟨5, b⟩, ⟨5, a⟩, ⟨5, d⟩, ⟨6, 16#6⟩]
    (by show w5 0x40000012 d.toNat 21 a.toNat 16 b.toNat 11 p.toNat 8 z.toNat 7 = _; simp only [w5, pack, BitVec.toNat_ofNat, BitVec.toNat_ofBool]; omega) 16 rfl rfl rfl rfl decodeVop
    (fields_Vop _ (fld_pack _ 26 6 16 rfl)) (fun _ => queued_Vop _ (fld_pack _ 26 6 16 rfl))
    (by unfold decodeVop; rw [fld_pack _ 0 7 18 rfl]; rw [bits_pack _ 21 5 d rfl, bits_pack _ 16 5 a rfl, bits_pack _ 11 5 b rfl, bits_pack _ 8 3 p rfl, flag_pack _ 7 z rfl]; rfl)

theorem vsadd (d a b : VReg) (p : PReg) (z : Bool) : Statement (.vsadd d a b p z) :=
  word_law [⟨7, 19#7⟩, ⟨1, BitVec.ofBool z⟩, ⟨3, p⟩, ⟨5, b⟩, ⟨5, a⟩, ⟨5, d⟩, ⟨6, 16#6⟩]
    (by show w5 0x40000013 d.toNat 21 a.toNat 16 b.toNat 11 p.toNat 8 z.toNat 7 = _; simp only [w5, pack, BitVec.toNat_ofNat, BitVec.toNat_ofBool]; omega) 16 rfl rfl rfl rfl decodeVop
    (fields_Vop _ (fld_pack _ 26 6 16 rfl)) (fun _ => queued_Vop _ (fld_pack _ 26 6 16 rfl))
    (by unfold decodeVop; rw [fld_pack _ 0 7 19 rfl]; rw [bits_pack _ 21 5 d rfl, bits_pack _ 16 5 a rfl, bits_pack _ 11 5 b rfl, bits_pack _ 8 3 p rfl, flag_pack _ 7 z rfl]; rfl)

theorem vssub (d a b : VReg) (p : PReg) (z : Bool) : Statement (.vssub d a b p z) :=
  word_law [⟨7, 20#7⟩, ⟨1, BitVec.ofBool z⟩, ⟨3, p⟩, ⟨5, b⟩, ⟨5, a⟩, ⟨5, d⟩, ⟨6, 16#6⟩]
    (by show w5 0x40000014 d.toNat 21 a.toNat 16 b.toNat 11 p.toNat 8 z.toNat 7 = _; simp only [w5, pack, BitVec.toNat_ofNat, BitVec.toNat_ofBool]; omega) 16 rfl rfl rfl rfl decodeVop
    (fields_Vop _ (fld_pack _ 26 6 16 rfl)) (fun _ => queued_Vop _ (fld_pack _ 26 6 16 rfl))
    (by unfold decodeVop; rw [fld_pack _ 0 7 20 rfl]; rw [bits_pack _ 21 5 d rfl, bits_pack _ 16 5 a rfl, bits_pack _ 11 5 b rfl, bits_pack _ 8 3 p rfl, flag_pack _ 7 z rfl]; rfl)

theorem vmov (d a : VReg) (p : PReg) (z : Bool) : Statement (.vmov d a p z) :=
  word_law [⟨7, 21#7⟩, ⟨1, BitVec.ofBool z⟩, ⟨3, p⟩, ⟨5, 0#5⟩, ⟨5, a⟩, ⟨5, d⟩, ⟨6, 16#6⟩]
    (by show w4 0x40000015 d.toNat 21 a.toNat 16 p.toNat 8 z.toNat 7 = _; simp only [w4, pack, BitVec.toNat_ofNat, BitVec.toNat_ofBool]; omega) 16 rfl rfl rfl rfl decodeVop
    (fields_Vop _ (fld_pack _ 26 6 16 rfl)) (fun _ => queued_Vop _ (fld_pack _ 26 6 16 rfl))
    (by unfold decodeVop; rw [fld_pack _ 0 7 21 rfl]; rw [fld_pack _ 11 5 0 rfl, bits_pack _ 21 5 d rfl, bits_pack _ 16 5 a rfl, bits_pack _ 8 3 p rfl, flag_pack _ 7 z rfl]; rfl)

theorem vsel (d a b : VReg) (p : PReg) : Statement (.vsel d a b p) :=
  word_law [⟨7, 22#7⟩, ⟨1, 0#1⟩, ⟨3, p⟩, ⟨5, b⟩, ⟨5, a⟩, ⟨5, d⟩, ⟨6, 16#6⟩]
    (by show w4 0x40000016 d.toNat 21 a.toNat 16 b.toNat 11 p.toNat 8 = _; simp only [w4, pack, BitVec.toNat_ofNat]; omega) 16 rfl rfl rfl rfl decodeVop
    (fields_Vop _ (fld_pack _ 26 6 16 rfl)) (fun _ => queued_Vop _ (fld_pack _ 26 6 16 rfl))
    (by unfold decodeVop; rw [fld_pack _ 0 7 22 rfl]; rw [fld_pack _ 7 1 0 rfl, bits_pack _ 21 5 d rfl, bits_pack _ 16 5 a rfl, bits_pack _ 11 5 b rfl, bits_pack _ 8 3 p rfl]; rfl)

theorem vexp2 (d a : VReg) (p : PReg) (z : Bool) : Statement (.vexp2 d a p z) :=
  word_law [⟨7, 23#7⟩, ⟨1, BitVec.ofBool z⟩, ⟨3, p⟩, ⟨5, 0#5⟩, ⟨5, a⟩, ⟨5, d⟩, ⟨6, 16#6⟩]
    (by show w4 0x40000017 d.toNat 21 a.toNat 16 p.toNat 8 z.toNat 7 = _; simp only [w4, pack, BitVec.toNat_ofNat, BitVec.toNat_ofBool]; omega) 16 rfl rfl rfl rfl decodeVop
    (fields_Vop _ (fld_pack _ 26 6 16 rfl)) (fun _ => queued_Vop _ (fld_pack _ 26 6 16 rfl))
    (by unfold decodeVop; rw [fld_pack _ 0 7 23 rfl]; rw [fld_pack _ 11 5 0 rfl, bits_pack _ 21 5 d rfl, bits_pack _ 16 5 a rfl, bits_pack _ 8 3 p rfl, flag_pack _ 7 z rfl]; rfl)

theorem vlog2 (d a : VReg) (p : PReg) (z : Bool) : Statement (.vlog2 d a p z) :=
  word_law [⟨7, 24#7⟩, ⟨1, BitVec.ofBool z⟩, ⟨3, p⟩, ⟨5, 0#5⟩, ⟨5, a⟩, ⟨5, d⟩, ⟨6, 16#6⟩]
    (by show w4 0x40000018 d.toNat 21 a.toNat 16 p.toNat 8 z.toNat 7 = _; simp only [w4, pack, BitVec.toNat_ofNat, BitVec.toNat_ofBool]; omega) 16 rfl rfl rfl rfl decodeVop
    (fields_Vop _ (fld_pack _ 26 6 16 rfl)) (fun _ => queued_Vop _ (fld_pack _ 26 6 16 rfl))
    (by unfold decodeVop; rw [fld_pack _ 0 7 24 rfl]; rw [fld_pack _ 11 5 0 rfl, bits_pack _ 21 5 d rfl, bits_pack _ 16 5 a rfl, bits_pack _ 8 3 p rfl, flag_pack _ 7 z rfl]; rfl)

theorem vrcp (d a : VReg) (p : PReg) (z : Bool) : Statement (.vrcp d a p z) :=
  word_law [⟨7, 25#7⟩, ⟨1, BitVec.ofBool z⟩, ⟨3, p⟩, ⟨5, 0#5⟩, ⟨5, a⟩, ⟨5, d⟩, ⟨6, 16#6⟩]
    (by show w4 0x40000019 d.toNat 21 a.toNat 16 p.toNat 8 z.toNat 7 = _; simp only [w4, pack, BitVec.toNat_ofNat, BitVec.toNat_ofBool]; omega) 16 rfl rfl rfl rfl decodeVop
    (fields_Vop _ (fld_pack _ 26 6 16 rfl)) (fun _ => queued_Vop _ (fld_pack _ 26 6 16 rfl))
    (by unfold decodeVop; rw [fld_pack _ 0 7 25 rfl]; rw [fld_pack _ 11 5 0 rfl, bits_pack _ 21 5 d rfl, bits_pack _ 16 5 a rfl, bits_pack _ 8 3 p rfl, flag_pack _ 7 z rfl]; rfl)

theorem vrsqrt (d a : VReg) (p : PReg) (z : Bool) : Statement (.vrsqrt d a p z) :=
  word_law [⟨7, 26#7⟩, ⟨1, BitVec.ofBool z⟩, ⟨3, p⟩, ⟨5, 0#5⟩, ⟨5, a⟩, ⟨5, d⟩, ⟨6, 16#6⟩]
    (by show w4 0x4000001A d.toNat 21 a.toNat 16 p.toNat 8 z.toNat 7 = _; simp only [w4, pack, BitVec.toNat_ofNat, BitVec.toNat_ofBool]; omega) 16 rfl rfl rfl rfl decodeVop
    (fields_Vop _ (fld_pack _ 26 6 16 rfl)) (fun _ => queued_Vop _ (fld_pack _ 26 6 16 rfl))
    (by unfold decodeVop; rw [fld_pack _ 0 7 26 rfl]; rw [fld_pack _ 11 5 0 rfl, bits_pack _ 21 5 d rfl, bits_pack _ 16 5 a rfl, bits_pack _ 8 3 p rfl, flag_pack _ 7 z rfl]; rfl)

theorem vclz (d a : VReg) (p : PReg) (z : Bool) : Statement (.vclz d a p z) :=
  word_law [⟨7, 27#7⟩, ⟨1, BitVec.ofBool z⟩, ⟨3, p⟩, ⟨5, 0#5⟩, ⟨5, a⟩, ⟨5, d⟩, ⟨6, 16#6⟩]
    (by show w4 0x4000001B d.toNat 21 a.toNat 16 p.toNat 8 z.toNat 7 = _; simp only [w4, pack, BitVec.toNat_ofNat, BitVec.toNat_ofBool]; omega) 16 rfl rfl rfl rfl decodeVop
    (fields_Vop _ (fld_pack _ 26 6 16 rfl)) (fun _ => queued_Vop _ (fld_pack _ 26 6 16 rfl))
    (by unfold decodeVop; rw [fld_pack _ 0 7 27 rfl]; rw [fld_pack _ 11 5 0 rfl, bits_pack _ 21 5 d rfl, bits_pack _ 16 5 a rfl, bits_pack _ 8 3 p rfl, flag_pack _ 7 z rfl]; rfl)

theorem vpopc (d a : VReg) (p : PReg) (z : Bool) : Statement (.vpopc d a p z) :=
  word_law [⟨7, 28#7⟩, ⟨1, BitVec.ofBool z⟩, ⟨3, p⟩, ⟨5, 0#5⟩, ⟨5, a⟩, ⟨5, d⟩, ⟨6, 16#6⟩]
    (by show w4 0x4000001C d.toNat 21 a.toNat 16 p.toNat 8 z.toNat 7 = _; simp only [w4, pack, BitVec.toNat_ofNat, BitVec.toNat_ofBool]; omega) 16 rfl rfl rfl rfl decodeVop
    (fields_Vop _ (fld_pack _ 26 6 16 rfl)) (fun _ => queued_Vop _ (fld_pack _ 26 6 16 rfl))
    (by unfold decodeVop; rw [fld_pack _ 0 7 28 rfl]; rw [fld_pack _ 11 5 0 rfl, bits_pack _ 21 5 d rfl, bits_pack _ 16 5 a rfl, bits_pack _ 8 3 p rfl, flag_pack _ 7 z rfl]; rfl)

theorem vaddVx (d a : VReg) (g : GReg) (p : PReg) (z : Bool) : Statement (.vaddVx d a g p z) :=
  word_law [⟨6, 0#6⟩, ⟨1, BitVec.ofBool z⟩, ⟨3, p⟩, ⟨6, g⟩, ⟨5, a⟩, ⟨5, d⟩, ⟨6, 17#6⟩]
    (by show w5 0x44000000 d.toNat 21 a.toNat 16 g.toNat 10 p.toNat 7 z.toNat 6 = _; simp only [w5, pack, BitVec.toNat_ofNat, BitVec.toNat_ofBool]; omega) 17 rfl rfl rfl rfl decodeVopx
    (fields_Vopx _ (fld_pack _ 26 6 17 rfl)) (fun _ => queued_Vopx _ (fld_pack _ 26 6 17 rfl))
    (by unfold decodeVopx; rw [fld_pack _ 0 6 0 rfl]; rw [bits_pack _ 21 5 d rfl, bits_pack _ 16 5 a rfl, bits_pack _ 10 6 g rfl, bits_pack _ 7 3 p rfl, flag_pack _ 6 z rfl]; rfl)

theorem vsubVx (d a : VReg) (g : GReg) (p : PReg) (z : Bool) : Statement (.vsubVx d a g p z) :=
  word_law [⟨6, 1#6⟩, ⟨1, BitVec.ofBool z⟩, ⟨3, p⟩, ⟨6, g⟩, ⟨5, a⟩, ⟨5, d⟩, ⟨6, 17#6⟩]
    (by show w5 0x44000001 d.toNat 21 a.toNat 16 g.toNat 10 p.toNat 7 z.toNat 6 = _; simp only [w5, pack, BitVec.toNat_ofNat, BitVec.toNat_ofBool]; omega) 17 rfl rfl rfl rfl decodeVopx
    (fields_Vopx _ (fld_pack _ 26 6 17 rfl)) (fun _ => queued_Vopx _ (fld_pack _ 26 6 17 rfl))
    (by unfold decodeVopx; rw [fld_pack _ 0 6 1 rfl]; rw [bits_pack _ 21 5 d rfl, bits_pack _ 16 5 a rfl, bits_pack _ 10 6 g rfl, bits_pack _ 7 3 p rfl, flag_pack _ 6 z rfl]; rfl)

theorem vmulVx (d a : VReg) (g : GReg) (p : PReg) (z : Bool) : Statement (.vmulVx d a g p z) :=
  word_law [⟨6, 2#6⟩, ⟨1, BitVec.ofBool z⟩, ⟨3, p⟩, ⟨6, g⟩, ⟨5, a⟩, ⟨5, d⟩, ⟨6, 17#6⟩]
    (by show w5 0x44000002 d.toNat 21 a.toNat 16 g.toNat 10 p.toNat 7 z.toNat 6 = _; simp only [w5, pack, BitVec.toNat_ofNat, BitVec.toNat_ofBool]; omega) 17 rfl rfl rfl rfl decodeVopx
    (fields_Vopx _ (fld_pack _ 26 6 17 rfl)) (fun _ => queued_Vopx _ (fld_pack _ 26 6 17 rfl))
    (by unfold decodeVopx; rw [fld_pack _ 0 6 2 rfl]; rw [bits_pack _ 21 5 d rfl, bits_pack _ 16 5 a rfl, bits_pack _ 10 6 g rfl, bits_pack _ 7 3 p rfl, flag_pack _ 6 z rfl]; rfl)

theorem vdivVx (d a : VReg) (g : GReg) (p : PReg) (z : Bool) : Statement (.vdivVx d a g p z) :=
  word_law [⟨6, 3#6⟩, ⟨1, BitVec.ofBool z⟩, ⟨3, p⟩, ⟨6, g⟩, ⟨5, a⟩, ⟨5, d⟩, ⟨6, 17#6⟩]
    (by show w5 0x44000003 d.toNat 21 a.toNat 16 g.toNat 10 p.toNat 7 z.toNat 6 = _; simp only [w5, pack, BitVec.toNat_ofNat, BitVec.toNat_ofBool]; omega) 17 rfl rfl rfl rfl decodeVopx
    (fields_Vopx _ (fld_pack _ 26 6 17 rfl)) (fun _ => queued_Vopx _ (fld_pack _ 26 6 17 rfl))
    (by unfold decodeVopx; rw [fld_pack _ 0 6 3 rfl]; rw [bits_pack _ 21 5 d rfl, bits_pack _ 16 5 a rfl, bits_pack _ 10 6 g rfl, bits_pack _ 7 3 p rfl, flag_pack _ 6 z rfl]; rfl)

theorem vminVx (d a : VReg) (g : GReg) (p : PReg) (z : Bool) : Statement (.vminVx d a g p z) :=
  word_law [⟨6, 4#6⟩, ⟨1, BitVec.ofBool z⟩, ⟨3, p⟩, ⟨6, g⟩, ⟨5, a⟩, ⟨5, d⟩, ⟨6, 17#6⟩]
    (by show w5 0x44000004 d.toNat 21 a.toNat 16 g.toNat 10 p.toNat 7 z.toNat 6 = _; simp only [w5, pack, BitVec.toNat_ofNat, BitVec.toNat_ofBool]; omega) 17 rfl rfl rfl rfl decodeVopx
    (fields_Vopx _ (fld_pack _ 26 6 17 rfl)) (fun _ => queued_Vopx _ (fld_pack _ 26 6 17 rfl))
    (by unfold decodeVopx; rw [fld_pack _ 0 6 4 rfl]; rw [bits_pack _ 21 5 d rfl, bits_pack _ 16 5 a rfl, bits_pack _ 10 6 g rfl, bits_pack _ 7 3 p rfl, flag_pack _ 6 z rfl]; rfl)

theorem vmaxVx (d a : VReg) (g : GReg) (p : PReg) (z : Bool) : Statement (.vmaxVx d a g p z) :=
  word_law [⟨6, 5#6⟩, ⟨1, BitVec.ofBool z⟩, ⟨3, p⟩, ⟨6, g⟩, ⟨5, a⟩, ⟨5, d⟩, ⟨6, 17#6⟩]
    (by show w5 0x44000005 d.toNat 21 a.toNat 16 g.toNat 10 p.toNat 7 z.toNat 6 = _; simp only [w5, pack, BitVec.toNat_ofNat, BitVec.toNat_ofBool]; omega) 17 rfl rfl rfl rfl decodeVopx
    (fields_Vopx _ (fld_pack _ 26 6 17 rfl)) (fun _ => queued_Vopx _ (fld_pack _ 26 6 17 rfl))
    (by unfold decodeVopx; rw [fld_pack _ 0 6 5 rfl]; rw [bits_pack _ 21 5 d rfl, bits_pack _ 16 5 a rfl, bits_pack _ 10 6 g rfl, bits_pack _ 7 3 p rfl, flag_pack _ 6 z rfl]; rfl)

theorem vfmaVx (d a : VReg) (g : GReg) (p : PReg) (z : Bool) : Statement (.vfmaVx d a g p z) :=
  word_law [⟨6, 6#6⟩, ⟨1, BitVec.ofBool z⟩, ⟨3, p⟩, ⟨6, g⟩, ⟨5, a⟩, ⟨5, d⟩, ⟨6, 17#6⟩]
    (by show w5 0x44000006 d.toNat 21 a.toNat 16 g.toNat 10 p.toNat 7 z.toNat 6 = _; simp only [w5, pack, BitVec.toNat_ofNat, BitVec.toNat_ofBool]; omega) 17 rfl rfl rfl rfl decodeVopx
    (fields_Vopx _ (fld_pack _ 26 6 17 rfl)) (fun _ => queued_Vopx _ (fld_pack _ 26 6 17 rfl))
    (by unfold decodeVopx; rw [fld_pack _ 0 6 6 rfl]; rw [bits_pack _ 21 5 d rfl, bits_pack _ 16 5 a rfl, bits_pack _ 10 6 g rfl, bits_pack _ 7 3 p rfl, flag_pack _ 6 z rfl]; rfl)

theorem vfmsVx (d a : VReg) (g : GReg) (p : PReg) (z : Bool) : Statement (.vfmsVx d a g p z) :=
  word_law [⟨6, 7#6⟩, ⟨1, BitVec.ofBool z⟩, ⟨3, p⟩, ⟨6, g⟩, ⟨5, a⟩, ⟨5, d⟩, ⟨6, 17#6⟩]
    (by show w5 0x44000007 d.toNat 21 a.toNat 16 g.toNat 10 p.toNat 7 z.toNat 6 = _; simp only [w5, pack, BitVec.toNat_ofNat, BitVec.toNat_ofBool]; omega) 17 rfl rfl rfl rfl decodeVopx
    (fields_Vopx _ (fld_pack _ 26 6 17 rfl)) (fun _ => queued_Vopx _ (fld_pack _ 26 6 17 rfl))
    (by unfold decodeVopx; rw [fld_pack _ 0 6 7 rfl]; rw [bits_pack _ 21 5 d rfl, bits_pack _ 16 5 a rfl, bits_pack _ 10 6 g rfl, bits_pack _ 7 3 p rfl, flag_pack _ 6 z rfl]; rfl)

theorem vnfmaVx (d a : VReg) (g : GReg) (p : PReg) (z : Bool) : Statement (.vnfmaVx d a g p z) :=
  word_law [⟨6, 8#6⟩, ⟨1, BitVec.ofBool z⟩, ⟨3, p⟩, ⟨6, g⟩, ⟨5, a⟩, ⟨5, d⟩, ⟨6, 17#6⟩]
    (by show w5 0x44000008 d.toNat 21 a.toNat 16 g.toNat 10 p.toNat 7 z.toNat 6 = _; simp only [w5, pack, BitVec.toNat_ofNat, BitVec.toNat_ofBool]; omega) 17 rfl rfl rfl rfl decodeVopx
    (fields_Vopx _ (fld_pack _ 26 6 17 rfl)) (fun _ => queued_Vopx _ (fld_pack _ 26 6 17 rfl))
    (by unfold decodeVopx; rw [fld_pack _ 0 6 8 rfl]; rw [bits_pack _ 21 5 d rfl, bits_pack _ 16 5 a rfl, bits_pack _ 10 6 g rfl, bits_pack _ 7 3 p rfl, flag_pack _ 6 z rfl]; rfl)

theorem vandVx (d a : VReg) (g : GReg) (p : PReg) (z : Bool) : Statement (.vandVx d a g p z) :=
  word_law [⟨6, 12#6⟩, ⟨1, BitVec.ofBool z⟩, ⟨3, p⟩, ⟨6, g⟩, ⟨5, a⟩, ⟨5, d⟩, ⟨6, 17#6⟩]
    (by show w5 0x4400000C d.toNat 21 a.toNat 16 g.toNat 10 p.toNat 7 z.toNat 6 = _; simp only [w5, pack, BitVec.toNat_ofNat, BitVec.toNat_ofBool]; omega) 17 rfl rfl rfl rfl decodeVopx
    (fields_Vopx _ (fld_pack _ 26 6 17 rfl)) (fun _ => queued_Vopx _ (fld_pack _ 26 6 17 rfl))
    (by unfold decodeVopx; rw [fld_pack _ 0 6 12 rfl]; rw [bits_pack _ 21 5 d rfl, bits_pack _ 16 5 a rfl, bits_pack _ 10 6 g rfl, bits_pack _ 7 3 p rfl, flag_pack _ 6 z rfl]; rfl)

theorem vorVx (d a : VReg) (g : GReg) (p : PReg) (z : Bool) : Statement (.vorVx d a g p z) :=
  word_law [⟨6, 13#6⟩, ⟨1, BitVec.ofBool z⟩, ⟨3, p⟩, ⟨6, g⟩, ⟨5, a⟩, ⟨5, d⟩, ⟨6, 17#6⟩]
    (by show w5 0x4400000D d.toNat 21 a.toNat 16 g.toNat 10 p.toNat 7 z.toNat 6 = _; simp only [w5, pack, BitVec.toNat_ofNat, BitVec.toNat_ofBool]; omega) 17 rfl rfl rfl rfl decodeVopx
    (fields_Vopx _ (fld_pack _ 26 6 17 rfl)) (fun _ => queued_Vopx _ (fld_pack _ 26 6 17 rfl))
    (by unfold decodeVopx; rw [fld_pack _ 0 6 13 rfl]; rw [bits_pack _ 21 5 d rfl, bits_pack _ 16 5 a rfl, bits_pack _ 10 6 g rfl, bits_pack _ 7 3 p rfl, flag_pack _ 6 z rfl]; rfl)

theorem vxorVx (d a : VReg) (g : GReg) (p : PReg) (z : Bool) : Statement (.vxorVx d a g p z) :=
  word_law [⟨6, 14#6⟩, ⟨1, BitVec.ofBool z⟩, ⟨3, p⟩, ⟨6, g⟩, ⟨5, a⟩, ⟨5, d⟩, ⟨6, 17#6⟩]
    (by show w5 0x4400000E d.toNat 21 a.toNat 16 g.toNat 10 p.toNat 7 z.toNat 6 = _; simp only [w5, pack, BitVec.toNat_ofNat, BitVec.toNat_ofBool]; omega) 17 rfl rfl rfl rfl decodeVopx
    (fields_Vopx _ (fld_pack _ 26 6 17 rfl)) (fun _ => queued_Vopx _ (fld_pack _ 26 6 17 rfl))
    (by unfold decodeVopx; rw [fld_pack _ 0 6 14 rfl]; rw [bits_pack _ 21 5 d rfl, bits_pack _ 16 5 a rfl, bits_pack _ 10 6 g rfl, bits_pack _ 7 3 p rfl, flag_pack _ 6 z rfl]; rfl)

theorem vsllVx (d a : VReg) (g : GReg) (p : PReg) (z : Bool) : Statement (.vsllVx d a g p z) :=
  word_law [⟨6, 15#6⟩, ⟨1, BitVec.ofBool z⟩, ⟨3, p⟩, ⟨6, g⟩, ⟨5, a⟩, ⟨5, d⟩, ⟨6, 17#6⟩]
    (by show w5 0x4400000F d.toNat 21 a.toNat 16 g.toNat 10 p.toNat 7 z.toNat 6 = _; simp only [w5, pack, BitVec.toNat_ofNat, BitVec.toNat_ofBool]; omega) 17 rfl rfl rfl rfl decodeVopx
    (fields_Vopx _ (fld_pack _ 26 6 17 rfl)) (fun _ => queued_Vopx _ (fld_pack _ 26 6 17 rfl))
    (by unfold decodeVopx; rw [fld_pack _ 0 6 15 rfl]; rw [bits_pack _ 21 5 d rfl, bits_pack _ 16 5 a rfl, bits_pack _ 10 6 g rfl, bits_pack _ 7 3 p rfl, flag_pack _ 6 z rfl]; rfl)

theorem vsrlVx (d a : VReg) (g : GReg) (p : PReg) (z : Bool) : Statement (.vsrlVx d a g p z) :=
  word_law [⟨6, 16#6⟩, ⟨1, BitVec.ofBool z⟩, ⟨3, p⟩, ⟨6, g⟩, ⟨5, a⟩, ⟨5, d⟩, ⟨6, 17#6⟩]
    (by show w5 0x44000010 d.toNat 21 a.toNat 16 g.toNat 10 p.toNat 7 z.toNat 6 = _; simp only [w5, pack, BitVec.toNat_ofNat, BitVec.toNat_ofBool]; omega) 17 rfl rfl rfl rfl decodeVopx
    (fields_Vopx _ (fld_pack _ 26 6 17 rfl)) (fun _ => queued_Vopx _ (fld_pack _ 26 6 17 rfl))
    (by unfold decodeVopx; rw [fld_pack _ 0 6 16 rfl]; rw [bits_pack _ 21 5 d rfl, bits_pack _ 16 5 a rfl, bits_pack _ 10 6 g rfl, bits_pack _ 7 3 p rfl, flag_pack _ 6 z rfl]; rfl)

theorem vsraVx (d a : VReg) (g : GReg) (p : PReg) (z : Bool) : Statement (.vsraVx d a g p z) :=
  word_law [⟨6, 17#6⟩, ⟨1, BitVec.ofBool z⟩, ⟨3, p⟩, ⟨6, g⟩, ⟨5, a⟩, ⟨5, d⟩, ⟨6, 17#6⟩]
    (by show w5 0x44000011 d.toNat 21 a.toNat 16 g.toNat 10 p.toNat 7 z.toNat 6 = _; simp only [w5, pack, BitVec.toNat_ofNat, BitVec.toNat_ofBool]; omega) 17 rfl rfl rfl rfl decodeVopx
    (fields_Vopx _ (fld_pack _ 26 6 17 rfl)) (fun _ => queued_Vopx _ (fld_pack _ 26 6 17 rfl))
    (by unfold decodeVopx; rw [fld_pack _ 0 6 17 rfl]; rw [bits_pack _ 21 5 d rfl, bits_pack _ 16 5 a rfl, bits_pack _ 10 6 g rfl, bits_pack _ 7 3 p rfl, flag_pack _ 6 z rfl]; rfl)

theorem vmulhVx (d a : VReg) (g : GReg) (p : PReg) (z : Bool) : Statement (.vmulhVx d a g p z) :=
  word_law [⟨6, 18#6⟩, ⟨1, BitVec.ofBool z⟩, ⟨3, p⟩, ⟨6, g⟩, ⟨5, a⟩, ⟨5, d⟩, ⟨6, 17#6⟩]
    (by show w5 0x44000012 d.toNat 21 a.toNat 16 g.toNat 10 p.toNat 7 z.toNat 6 = _; simp only [w5, pack, BitVec.toNat_ofNat, BitVec.toNat_ofBool]; omega) 17 rfl rfl rfl rfl decodeVopx
    (fields_Vopx _ (fld_pack _ 26 6 17 rfl)) (fun _ => queued_Vopx _ (fld_pack _ 26 6 17 rfl))
    (by unfold decodeVopx; rw [fld_pack _ 0 6 18 rfl]; rw [bits_pack _ 21 5 d rfl, bits_pack _ 16 5 a rfl, bits_pack _ 10 6 g rfl, bits_pack _ 7 3 p rfl, flag_pack _ 6 z rfl]; rfl)

theorem vsaddVx (d a : VReg) (g : GReg) (p : PReg) (z : Bool) : Statement (.vsaddVx d a g p z) :=
  word_law [⟨6, 19#6⟩, ⟨1, BitVec.ofBool z⟩, ⟨3, p⟩, ⟨6, g⟩, ⟨5, a⟩, ⟨5, d⟩, ⟨6, 17#6⟩]
    (by show w5 0x44000013 d.toNat 21 a.toNat 16 g.toNat 10 p.toNat 7 z.toNat 6 = _; simp only [w5, pack, BitVec.toNat_ofNat, BitVec.toNat_ofBool]; omega) 17 rfl rfl rfl rfl decodeVopx
    (fields_Vopx _ (fld_pack _ 26 6 17 rfl)) (fun _ => queued_Vopx _ (fld_pack _ 26 6 17 rfl))
    (by unfold decodeVopx; rw [fld_pack _ 0 6 19 rfl]; rw [bits_pack _ 21 5 d rfl, bits_pack _ 16 5 a rfl, bits_pack _ 10 6 g rfl, bits_pack _ 7 3 p rfl, flag_pack _ 6 z rfl]; rfl)

theorem vssubVx (d a : VReg) (g : GReg) (p : PReg) (z : Bool) : Statement (.vssubVx d a g p z) :=
  word_law [⟨6, 20#6⟩, ⟨1, BitVec.ofBool z⟩, ⟨3, p⟩, ⟨6, g⟩, ⟨5, a⟩, ⟨5, d⟩, ⟨6, 17#6⟩]
    (by show w5 0x44000014 d.toNat 21 a.toNat 16 g.toNat 10 p.toNat 7 z.toNat 6 = _; simp only [w5, pack, BitVec.toNat_ofNat, BitVec.toNat_ofBool]; omega) 17 rfl rfl rfl rfl decodeVopx
    (fields_Vopx _ (fld_pack _ 26 6 17 rfl)) (fun _ => queued_Vopx _ (fld_pack _ 26 6 17 rfl))
    (by unfold decodeVopx; rw [fld_pack _ 0 6 20 rfl]; rw [bits_pack _ 21 5 d rfl, bits_pack _ 16 5 a rfl, bits_pack _ 10 6 g rfl, bits_pack _ 7 3 p rfl, flag_pack _ 6 z rfl]; rfl)

theorem vselVx (d a : VReg) (g : GReg) (p : PReg) : Statement (.vselVx d a g p) :=
  word_law [⟨6, 22#6⟩, ⟨1, 0#1⟩, ⟨3, p⟩, ⟨6, g⟩, ⟨5, a⟩, ⟨5, d⟩, ⟨6, 17#6⟩]
    (by show w4 0x44000016 d.toNat 21 a.toNat 16 g.toNat 10 p.toNat 7 = _; simp only [w4, pack, BitVec.toNat_ofNat]; omega) 17 rfl rfl rfl rfl decodeVopx
    (fields_Vopx _ (fld_pack _ 26 6 17 rfl)) (fun _ => queued_Vopx _ (fld_pack _ 26 6 17 rfl))
    (by unfold decodeVopx; rw [fld_pack _ 0 6 22 rfl]; rw [fld_pack _ 6 1 0 rfl, bits_pack _ 21 5 d rfl, bits_pack _ 16 5 a rfl, bits_pack _ 10 6 g rfl, bits_pack _ 7 3 p rfl]; rfl)

theorem vbcast (d : VReg) (g : GReg) (p : PReg) (z : Bool) : Statement (.vbcast d g p z) :=
  word_law [⟨6, 29#6⟩, ⟨1, BitVec.ofBool z⟩, ⟨3, p⟩, ⟨6, g⟩, ⟨5, 0#5⟩, ⟨5, d⟩, ⟨6, 17#6⟩]
    (by show w4 0x4400001D d.toNat 21 g.toNat 10 p.toNat 7 z.toNat 6 = _; simp only [w4, pack, BitVec.toNat_ofNat, BitVec.toNat_ofBool]; omega) 17 rfl rfl rfl rfl decodeVopx
    (fields_Vopx _ (fld_pack _ 26 6 17 rfl)) (fun _ => queued_Vopx _ (fld_pack _ 26 6 17 rfl))
    (by unfold decodeVopx; rw [fld_pack _ 0 6 29 rfl]; rw [fld_pack _ 16 5 0 rfl, bits_pack _ 21 5 d rfl, bits_pack _ 10 6 g rfl, bits_pack _ 7 3 p rfl, flag_pack _ 6 z rfl]; rfl)

theorem vaddi (d a : VReg) (i : BitVec 8) (p : PReg) (z : Bool) : Statement (.vaddi d a i p z) :=
  word_law [⟨4, 0#4⟩, ⟨1, BitVec.ofBool z⟩, ⟨3, p⟩, ⟨8, i⟩, ⟨5, a⟩, ⟨5, d⟩, ⟨6, 18#6⟩]
    (by show w5 0x48000000 d.toNat 21 a.toNat 16 i.toNat 8 p.toNat 5 z.toNat 4 = _; simp only [w5, pack, BitVec.toNat_ofNat, BitVec.toNat_ofBool]; omega) 18 rfl rfl rfl rfl decodeVopi
    (fields_Vopi _ (fld_pack _ 26 6 18 rfl)) (fun _ => queued_Vopi _ (fld_pack _ 26 6 18 rfl))
    (by unfold decodeVopi; rw [fld_pack _ 0 4 0 rfl]; rw [bits_pack _ 21 5 d rfl, bits_pack _ 16 5 a rfl, bits_pack _ 8 8 i rfl, bits_pack _ 5 3 p rfl, flag_pack _ 4 z rfl]; rfl)

theorem vslli (d a : VReg) (i : BitVec 8) (p : PReg) (z : Bool) : Statement (.vslli d a i p z) :=
  word_law [⟨4, 1#4⟩, ⟨1, BitVec.ofBool z⟩, ⟨3, p⟩, ⟨8, i⟩, ⟨5, a⟩, ⟨5, d⟩, ⟨6, 18#6⟩]
    (by show w5 0x48000001 d.toNat 21 a.toNat 16 i.toNat 8 p.toNat 5 z.toNat 4 = _; simp only [w5, pack, BitVec.toNat_ofNat, BitVec.toNat_ofBool]; omega) 18 rfl rfl rfl rfl decodeVopi
    (fields_Vopi _ (fld_pack _ 26 6 18 rfl)) (fun _ => queued_Vopi _ (fld_pack _ 26 6 18 rfl))
    (by unfold decodeVopi; rw [fld_pack _ 0 4 1 rfl]; rw [bits_pack _ 21 5 d rfl, bits_pack _ 16 5 a rfl, bits_pack _ 8 8 i rfl, bits_pack _ 5 3 p rfl, flag_pack _ 4 z rfl]; rfl)

theorem vsrli (d a : VReg) (i : BitVec 8) (p : PReg) (z : Bool) : Statement (.vsrli d a i p z) :=
  word_law [⟨4, 2#4⟩, ⟨1, BitVec.ofBool z⟩, ⟨3, p⟩, ⟨8, i⟩, ⟨5, a⟩, ⟨5, d⟩, ⟨6, 18#6⟩]
    (by show w5 0x48000002 d.toNat 21 a.toNat 16 i.toNat 8 p.toNat 5 z.toNat 4 = _; simp only [w5, pack, BitVec.toNat_ofNat, BitVec.toNat_ofBool]; omega) 18 rfl rfl rfl rfl decodeVopi
    (fields_Vopi _ (fld_pack _ 26 6 18 rfl)) (fun _ => queued_Vopi _ (fld_pack _ 26 6 18 rfl))
    (by unfold decodeVopi; rw [fld_pack _ 0 4 2 rfl]; rw [bits_pack _ 21 5 d rfl, bits_pack _ 16 5 a rfl, bits_pack _ 8 8 i rfl, bits_pack _ 5 3 p rfl, flag_pack _ 4 z rfl]; rfl)

theorem vsrai (d a : VReg) (i : BitVec 8) (p : PReg) (z : Bool) : Statement (.vsrai d a i p z) :=
  word_law [⟨4, 3#4⟩, ⟨1, BitVec.ofBool z⟩, ⟨3, p⟩, ⟨8, i⟩, ⟨5, a⟩, ⟨5, d⟩, ⟨6, 18#6⟩]
    (by show w5 0x48000003 d.toNat 21 a.toNat 16 i.toNat 8 p.toNat 5 z.toNat 4 = _; simp only [w5, pack, BitVec.toNat_ofNat, BitVec.toNat_ofBool]; omega) 18 rfl rfl rfl rfl decodeVopi
    (fields_Vopi _ (fld_pack _ 26 6 18 rfl)) (fun _ => queued_Vopi _ (fld_pack _ 26 6 18 rfl))
    (by unfold decodeVopi; rw [fld_pack _ 0 4 3 rfl]; rw [bits_pack _ 21 5 d rfl, bits_pack _ 16 5 a rfl, bits_pack _ 8 8 i rfl, bits_pack _ 5 3 p rfl, flag_pack _ 4 z rfl]; rfl)

theorem vandi (d a : VReg) (i : BitVec 8) (p : PReg) (z : Bool) : Statement (.vandi d a i p z) :=
  word_law [⟨4, 4#4⟩, ⟨1, BitVec.ofBool z⟩, ⟨3, p⟩, ⟨8, i⟩, ⟨5, a⟩, ⟨5, d⟩, ⟨6, 18#6⟩]
    (by show w5 0x48000004 d.toNat 21 a.toNat 16 i.toNat 8 p.toNat 5 z.toNat 4 = _; simp only [w5, pack, BitVec.toNat_ofNat, BitVec.toNat_ofBool]; omega) 18 rfl rfl rfl rfl decodeVopi
    (fields_Vopi _ (fld_pack _ 26 6 18 rfl)) (fun _ => queued_Vopi _ (fld_pack _ 26 6 18 rfl))
    (by unfold decodeVopi; rw [fld_pack _ 0 4 4 rfl]; rw [bits_pack _ 21 5 d rfl, bits_pack _ 16 5 a rfl, bits_pack _ 8 8 i rfl, bits_pack _ 5 3 p rfl, flag_pack _ 4 z rfl]; rfl)

theorem vori (d a : VReg) (i : BitVec 8) (p : PReg) (z : Bool) : Statement (.vori d a i p z) :=
  word_law [⟨4, 5#4⟩, ⟨1, BitVec.ofBool z⟩, ⟨3, p⟩, ⟨8, i⟩, ⟨5, a⟩, ⟨5, d⟩, ⟨6, 18#6⟩]
    (by show w5 0x48000005 d.toNat 21 a.toNat 16 i.toNat 8 p.toNat 5 z.toNat 4 = _; simp only [w5, pack, BitVec.toNat_ofNat, BitVec.toNat_ofBool]; omega) 18 rfl rfl rfl rfl decodeVopi
    (fields_Vopi _ (fld_pack _ 26 6 18 rfl)) (fun _ => queued_Vopi _ (fld_pack _ 26 6 18 rfl))
    (by unfold decodeVopi; rw [fld_pack _ 0 4 5 rfl]; rw [bits_pack _ 21 5 d rfl, bits_pack _ 16 5 a rfl, bits_pack _ 8 8 i rfl, bits_pack _ 5 3 p rfl, flag_pack _ 4 z rfl]; rfl)

theorem vxori (d a : VReg) (i : BitVec 8) (p : PReg) (z : Bool) : Statement (.vxori d a i p z) :=
  word_law [⟨4, 6#4⟩, ⟨1, BitVec.ofBool z⟩, ⟨3, p⟩, ⟨8, i⟩, ⟨5, a⟩, ⟨5, d⟩, ⟨6, 18#6⟩]
    (by show w5 0x48000006 d.toNat 21 a.toNat 16 i.toNat 8 p.toNat 5 z.toNat 4 = _; simp only [w5, pack, BitVec.toNat_ofNat, BitVec.toNat_ofBool]; omega) 18 rfl rfl rfl rfl decodeVopi
    (fields_Vopi _ (fld_pack _ 26 6 18 rfl)) (fun _ => queued_Vopi _ (fld_pack _ 26 6 18 rfl))
    (by unfold decodeVopi; rw [fld_pack _ 0 4 6 rfl]; rw [bits_pack _ 21 5 d rfl, bits_pack _ 16 5 a rfl, bits_pack _ 8 8 i rfl, bits_pack _ 5 3 p rfl, flag_pack _ 4 z rfl]; rfl)

theorem vcmpeq (d : PReg) (a b : VReg) (p : PReg) (z : Bool) : Statement (.vcmpeq d a b p z) :=
  word_law [⟨6, 0#6⟩, ⟨1, 0#1⟩, ⟨1, BitVec.ofBool z⟩, ⟨3, p⟩, ⟨5, b⟩, ⟨5, a⟩, ⟨3, d⟩, ⟨2, 0#2⟩, ⟨6, 19#6⟩]
    (by show w5 0x4C000000 d.toNat 21 a.toNat 16 b.toNat 11 p.toNat 8 z.toNat 7 = _; simp only [w5, pack, BitVec.toNat_ofNat, BitVec.toNat_ofBool]; omega) 19 rfl rfl rfl rfl decodeVcmp
    (fields_Vcmp _ (fld_pack _ 26 6 19 rfl)) (fun _ => queued_Vcmp _ (fld_pack _ 26 6 19 rfl))
    (by unfold decodeVcmp; rw [fld_pack _ 0 6 0 rfl]; rw [fld_pack _ 6 1 0 rfl, fld_pack _ 24 2 0 rfl, bits_pack _ 21 3 d rfl, bits_pack _ 16 5 a rfl, bits_pack _ 11 5 b rfl, bits_pack _ 8 3 p rfl, flag_pack _ 7 z rfl]; rfl)

theorem vcmpne (d : PReg) (a b : VReg) (p : PReg) (z : Bool) : Statement (.vcmpne d a b p z) :=
  word_law [⟨6, 1#6⟩, ⟨1, 0#1⟩, ⟨1, BitVec.ofBool z⟩, ⟨3, p⟩, ⟨5, b⟩, ⟨5, a⟩, ⟨3, d⟩, ⟨2, 0#2⟩, ⟨6, 19#6⟩]
    (by show w5 0x4C000001 d.toNat 21 a.toNat 16 b.toNat 11 p.toNat 8 z.toNat 7 = _; simp only [w5, pack, BitVec.toNat_ofNat, BitVec.toNat_ofBool]; omega) 19 rfl rfl rfl rfl decodeVcmp
    (fields_Vcmp _ (fld_pack _ 26 6 19 rfl)) (fun _ => queued_Vcmp _ (fld_pack _ 26 6 19 rfl))
    (by unfold decodeVcmp; rw [fld_pack _ 0 6 1 rfl]; rw [fld_pack _ 6 1 0 rfl, fld_pack _ 24 2 0 rfl, bits_pack _ 21 3 d rfl, bits_pack _ 16 5 a rfl, bits_pack _ 11 5 b rfl, bits_pack _ 8 3 p rfl, flag_pack _ 7 z rfl]; rfl)

theorem vcmplt (d : PReg) (a b : VReg) (p : PReg) (z : Bool) : Statement (.vcmplt d a b p z) :=
  word_law [⟨6, 2#6⟩, ⟨1, 0#1⟩, ⟨1, BitVec.ofBool z⟩, ⟨3, p⟩, ⟨5, b⟩, ⟨5, a⟩, ⟨3, d⟩, ⟨2, 0#2⟩, ⟨6, 19#6⟩]
    (by show w5 0x4C000002 d.toNat 21 a.toNat 16 b.toNat 11 p.toNat 8 z.toNat 7 = _; simp only [w5, pack, BitVec.toNat_ofNat, BitVec.toNat_ofBool]; omega) 19 rfl rfl rfl rfl decodeVcmp
    (fields_Vcmp _ (fld_pack _ 26 6 19 rfl)) (fun _ => queued_Vcmp _ (fld_pack _ 26 6 19 rfl))
    (by unfold decodeVcmp; rw [fld_pack _ 0 6 2 rfl]; rw [fld_pack _ 6 1 0 rfl, fld_pack _ 24 2 0 rfl, bits_pack _ 21 3 d rfl, bits_pack _ 16 5 a rfl, bits_pack _ 11 5 b rfl, bits_pack _ 8 3 p rfl, flag_pack _ 7 z rfl]; rfl)

theorem vcmple (d : PReg) (a b : VReg) (p : PReg) (z : Bool) : Statement (.vcmple d a b p z) :=
  word_law [⟨6, 3#6⟩, ⟨1, 0#1⟩, ⟨1, BitVec.ofBool z⟩, ⟨3, p⟩, ⟨5, b⟩, ⟨5, a⟩, ⟨3, d⟩, ⟨2, 0#2⟩, ⟨6, 19#6⟩]
    (by show w5 0x4C000003 d.toNat 21 a.toNat 16 b.toNat 11 p.toNat 8 z.toNat 7 = _; simp only [w5, pack, BitVec.toNat_ofNat, BitVec.toNat_ofBool]; omega) 19 rfl rfl rfl rfl decodeVcmp
    (fields_Vcmp _ (fld_pack _ 26 6 19 rfl)) (fun _ => queued_Vcmp _ (fld_pack _ 26 6 19 rfl))
    (by unfold decodeVcmp; rw [fld_pack _ 0 6 3 rfl]; rw [fld_pack _ 6 1 0 rfl, fld_pack _ 24 2 0 rfl, bits_pack _ 21 3 d rfl, bits_pack _ 16 5 a rfl, bits_pack _ 11 5 b rfl, bits_pack _ 8 3 p rfl, flag_pack _ 7 z rfl]; rfl)

theorem vcmpgt (d : PReg) (a b : VReg) (p : PReg) (z : Bool) : Statement (.vcmpgt d a b p z) :=
  word_law [⟨6, 4#6⟩, ⟨1, 0#1⟩, ⟨1, BitVec.ofBool z⟩, ⟨3, p⟩, ⟨5, b⟩, ⟨5, a⟩, ⟨3, d⟩, ⟨2, 0#2⟩, ⟨6, 19#6⟩]
    (by show w5 0x4C000004 d.toNat 21 a.toNat 16 b.toNat 11 p.toNat 8 z.toNat 7 = _; simp only [w5, pack, BitVec.toNat_ofNat, BitVec.toNat_ofBool]; omega) 19 rfl rfl rfl rfl decodeVcmp
    (fields_Vcmp _ (fld_pack _ 26 6 19 rfl)) (fun _ => queued_Vcmp _ (fld_pack _ 26 6 19 rfl))
    (by unfold decodeVcmp; rw [fld_pack _ 0 6 4 rfl]; rw [fld_pack _ 6 1 0 rfl, fld_pack _ 24 2 0 rfl, bits_pack _ 21 3 d rfl, bits_pack _ 16 5 a rfl, bits_pack _ 11 5 b rfl, bits_pack _ 8 3 p rfl, flag_pack _ 7 z rfl]; rfl)

theorem vcmpge (d : PReg) (a b : VReg) (p : PReg) (z : Bool) : Statement (.vcmpge d a b p z) :=
  word_law [⟨6, 5#6⟩, ⟨1, 0#1⟩, ⟨1, BitVec.ofBool z⟩, ⟨3, p⟩, ⟨5, b⟩, ⟨5, a⟩, ⟨3, d⟩, ⟨2, 0#2⟩, ⟨6, 19#6⟩]
    (by show w5 0x4C000005 d.toNat 21 a.toNat 16 b.toNat 11 p.toNat 8 z.toNat 7 = _; simp only [w5, pack, BitVec.toNat_ofNat, BitVec.toNat_ofBool]; omega) 19 rfl rfl rfl rfl decodeVcmp
    (fields_Vcmp _ (fld_pack _ 26 6 19 rfl)) (fun _ => queued_Vcmp _ (fld_pack _ 26 6 19 rfl))
    (by unfold decodeVcmp; rw [fld_pack _ 0 6 5 rfl]; rw [fld_pack _ 6 1 0 rfl, fld_pack _ 24 2 0 rfl, bits_pack _ 21 3 d rfl, bits_pack _ 16 5 a rfl, bits_pack _ 11 5 b rfl, bits_pack _ 8 3 p rfl, flag_pack _ 7 z rfl]; rfl)

theorem vcmpuo (d : PReg) (a b : VReg) (p : PReg) (z : Bool) : Statement (.vcmpuo d a b p z) :=
  word_law [⟨6, 6#6⟩, ⟨1, 0#1⟩, ⟨1, BitVec.ofBool z⟩, ⟨3, p⟩, ⟨5, b⟩, ⟨5, a⟩, ⟨3, d⟩, ⟨2, 0#2⟩, ⟨6, 19#6⟩]
    (by show w5 0x4C000006 d.toNat 21 a.toNat 16 b.toNat 11 p.toNat 8 z.toNat 7 = _; simp only [w5, pack, BitVec.toNat_ofNat, BitVec.toNat_ofBool]; omega) 19 rfl rfl rfl rfl decodeVcmp
    (fields_Vcmp _ (fld_pack _ 26 6 19 rfl)) (fun _ => queued_Vcmp _ (fld_pack _ 26 6 19 rfl))
    (by unfold decodeVcmp; rw [fld_pack _ 0 6 6 rfl]; rw [fld_pack _ 6 1 0 rfl, fld_pack _ 24 2 0 rfl, bits_pack _ 21 3 d rfl, bits_pack _ 16 5 a rfl, bits_pack _ 11 5 b rfl, bits_pack _ 8 3 p rfl, flag_pack _ 7 z rfl]; rfl)

theorem vcmpcls (d : PReg) (a b : VReg) (p : PReg) (z : Bool) : Statement (.vcmpcls d a b p z) :=
  word_law [⟨6, 7#6⟩, ⟨1, 0#1⟩, ⟨1, BitVec.ofBool z⟩, ⟨3, p⟩, ⟨5, b⟩, ⟨5, a⟩, ⟨3, d⟩, ⟨2, 0#2⟩, ⟨6, 19#6⟩]
    (by show w5 0x4C000007 d.toNat 21 a.toNat 16 b.toNat 11 p.toNat 8 z.toNat 7 = _; simp only [w5, pack, BitVec.toNat_ofNat, BitVec.toNat_ofBool]; omega) 19 rfl rfl rfl rfl decodeVcmp
    (fields_Vcmp _ (fld_pack _ 26 6 19 rfl)) (fun _ => queued_Vcmp _ (fld_pack _ 26 6 19 rfl))
    (by unfold decodeVcmp; rw [fld_pack _ 0 6 7 rfl]; rw [fld_pack _ 6 1 0 rfl, fld_pack _ 24 2 0 rfl, bits_pack _ 21 3 d rfl, bits_pack _ 16 5 a rfl, bits_pack _ 11 5 b rfl, bits_pack _ 8 3 p rfl, flag_pack _ 7 z rfl]; rfl)

theorem vcmpeqVx (d : PReg) (a : VReg) (g : GReg) (p : PReg) (z : Bool) : Statement (.vcmpeqVx d a g p z) :=
  word_law [⟨6, 8#6⟩, ⟨1, BitVec.ofBool z⟩, ⟨3, p⟩, ⟨6, g⟩, ⟨5, a⟩, ⟨3, d⟩, ⟨2, 0#2⟩, ⟨6, 19#6⟩]
    (by show w5 0x4C000008 d.toNat 21 a.toNat 16 g.toNat 10 p.toNat 7 z.toNat 6 = _; simp only [w5, pack, BitVec.toNat_ofNat, BitVec.toNat_ofBool]; omega) 19 rfl rfl rfl rfl decodeVcmp
    (fields_Vcmp _ (fld_pack _ 26 6 19 rfl)) (fun _ => queued_Vcmp _ (fld_pack _ 26 6 19 rfl))
    (by unfold decodeVcmp; rw [fld_pack _ 0 6 8 rfl]; rw [fld_pack _ 24 2 0 rfl, bits_pack _ 21 3 d rfl, bits_pack _ 16 5 a rfl, bits_pack _ 10 6 g rfl, bits_pack _ 7 3 p rfl, flag_pack _ 6 z rfl]; rfl)

theorem vcmpneVx (d : PReg) (a : VReg) (g : GReg) (p : PReg) (z : Bool) : Statement (.vcmpneVx d a g p z) :=
  word_law [⟨6, 9#6⟩, ⟨1, BitVec.ofBool z⟩, ⟨3, p⟩, ⟨6, g⟩, ⟨5, a⟩, ⟨3, d⟩, ⟨2, 0#2⟩, ⟨6, 19#6⟩]
    (by show w5 0x4C000009 d.toNat 21 a.toNat 16 g.toNat 10 p.toNat 7 z.toNat 6 = _; simp only [w5, pack, BitVec.toNat_ofNat, BitVec.toNat_ofBool]; omega) 19 rfl rfl rfl rfl decodeVcmp
    (fields_Vcmp _ (fld_pack _ 26 6 19 rfl)) (fun _ => queued_Vcmp _ (fld_pack _ 26 6 19 rfl))
    (by unfold decodeVcmp; rw [fld_pack _ 0 6 9 rfl]; rw [fld_pack _ 24 2 0 rfl, bits_pack _ 21 3 d rfl, bits_pack _ 16 5 a rfl, bits_pack _ 10 6 g rfl, bits_pack _ 7 3 p rfl, flag_pack _ 6 z rfl]; rfl)

theorem vcmpltVx (d : PReg) (a : VReg) (g : GReg) (p : PReg) (z : Bool) : Statement (.vcmpltVx d a g p z) :=
  word_law [⟨6, 10#6⟩, ⟨1, BitVec.ofBool z⟩, ⟨3, p⟩, ⟨6, g⟩, ⟨5, a⟩, ⟨3, d⟩, ⟨2, 0#2⟩, ⟨6, 19#6⟩]
    (by show w5 0x4C00000A d.toNat 21 a.toNat 16 g.toNat 10 p.toNat 7 z.toNat 6 = _; simp only [w5, pack, BitVec.toNat_ofNat, BitVec.toNat_ofBool]; omega) 19 rfl rfl rfl rfl decodeVcmp
    (fields_Vcmp _ (fld_pack _ 26 6 19 rfl)) (fun _ => queued_Vcmp _ (fld_pack _ 26 6 19 rfl))
    (by unfold decodeVcmp; rw [fld_pack _ 0 6 10 rfl]; rw [fld_pack _ 24 2 0 rfl, bits_pack _ 21 3 d rfl, bits_pack _ 16 5 a rfl, bits_pack _ 10 6 g rfl, bits_pack _ 7 3 p rfl, flag_pack _ 6 z rfl]; rfl)

theorem vcmpleVx (d : PReg) (a : VReg) (g : GReg) (p : PReg) (z : Bool) : Statement (.vcmpleVx d a g p z) :=
  word_law [⟨6, 11#6⟩, ⟨1, BitVec.ofBool z⟩, ⟨3, p⟩, ⟨6, g⟩, ⟨5, a⟩, ⟨3, d⟩, ⟨2, 0#2⟩, ⟨6, 19#6⟩]
    (by show w5 0x4C00000B d.toNat 21 a.toNat 16 g.toNat 10 p.toNat 7 z.toNat 6 = _; simp only [w5, pack, BitVec.toNat_ofNat, BitVec.toNat_ofBool]; omega) 19 rfl rfl rfl rfl decodeVcmp
    (fields_Vcmp _ (fld_pack _ 26 6 19 rfl)) (fun _ => queued_Vcmp _ (fld_pack _ 26 6 19 rfl))
    (by unfold decodeVcmp; rw [fld_pack _ 0 6 11 rfl]; rw [fld_pack _ 24 2 0 rfl, bits_pack _ 21 3 d rfl, bits_pack _ 16 5 a rfl, bits_pack _ 10 6 g rfl, bits_pack _ 7 3 p rfl, flag_pack _ 6 z rfl]; rfl)

theorem vcmpgtVx (d : PReg) (a : VReg) (g : GReg) (p : PReg) (z : Bool) : Statement (.vcmpgtVx d a g p z) :=
  word_law [⟨6, 12#6⟩, ⟨1, BitVec.ofBool z⟩, ⟨3, p⟩, ⟨6, g⟩, ⟨5, a⟩, ⟨3, d⟩, ⟨2, 0#2⟩, ⟨6, 19#6⟩]
    (by show w5 0x4C00000C d.toNat 21 a.toNat 16 g.toNat 10 p.toNat 7 z.toNat 6 = _; simp only [w5, pack, BitVec.toNat_ofNat, BitVec.toNat_ofBool]; omega) 19 rfl rfl rfl rfl decodeVcmp
    (fields_Vcmp _ (fld_pack _ 26 6 19 rfl)) (fun _ => queued_Vcmp _ (fld_pack _ 26 6 19 rfl))
    (by unfold decodeVcmp; rw [fld_pack _ 0 6 12 rfl]; rw [fld_pack _ 24 2 0 rfl, bits_pack _ 21 3 d rfl, bits_pack _ 16 5 a rfl, bits_pack _ 10 6 g rfl, bits_pack _ 7 3 p rfl, flag_pack _ 6 z rfl]; rfl)

theorem vcmpgeVx (d : PReg) (a : VReg) (g : GReg) (p : PReg) (z : Bool) : Statement (.vcmpgeVx d a g p z) :=
  word_law [⟨6, 13#6⟩, ⟨1, BitVec.ofBool z⟩, ⟨3, p⟩, ⟨6, g⟩, ⟨5, a⟩, ⟨3, d⟩, ⟨2, 0#2⟩, ⟨6, 19#6⟩]
    (by show w5 0x4C00000D d.toNat 21 a.toNat 16 g.toNat 10 p.toNat 7 z.toNat 6 = _; simp only [w5, pack, BitVec.toNat_ofNat, BitVec.toNat_ofBool]; omega) 19 rfl rfl rfl rfl decodeVcmp
    (fields_Vcmp _ (fld_pack _ 26 6 19 rfl)) (fun _ => queued_Vcmp _ (fld_pack _ 26 6 19 rfl))
    (by unfold decodeVcmp; rw [fld_pack _ 0 6 13 rfl]; rw [fld_pack _ 24 2 0 rfl, bits_pack _ 21 3 d rfl, bits_pack _ 16 5 a rfl, bits_pack _ 10 6 g rfl, bits_pack _ 7 3 p rfl, flag_pack _ 6 z rfl]; rfl)

theorem vcmpuoVx (d : PReg) (a : VReg) (g : GReg) (p : PReg) (z : Bool) : Statement (.vcmpuoVx d a g p z) :=
  word_law [⟨6, 14#6⟩, ⟨1, BitVec.ofBool z⟩, ⟨3, p⟩, ⟨6, g⟩, ⟨5, a⟩, ⟨3, d⟩, ⟨2, 0#2⟩, ⟨6, 19#6⟩]
    (by show w5 0x4C00000E d.toNat 21 a.toNat 16 g.toNat 10 p.toNat 7 z.toNat 6 = _; simp only [w5, pack, BitVec.toNat_ofNat, BitVec.toNat_ofBool]; omega) 19 rfl rfl rfl rfl decodeVcmp
    (fields_Vcmp _ (fld_pack _ 26 6 19 rfl)) (fun _ => queued_Vcmp _ (fld_pack _ 26 6 19 rfl))
    (by unfold decodeVcmp; rw [fld_pack _ 0 6 14 rfl]; rw [fld_pack _ 24 2 0 rfl, bits_pack _ 21 3 d rfl, bits_pack _ 16 5 a rfl, bits_pack _ 10 6 g rfl, bits_pack _ 7 3 p rfl, flag_pack _ 6 z rfl]; rfl)

theorem vcmpclsVx (d : PReg) (a : VReg) (g : GReg) (p : PReg) (z : Bool) : Statement (.vcmpclsVx d a g p z) :=
  word_law [⟨6, 15#6⟩, ⟨1, BitVec.ofBool z⟩, ⟨3, p⟩, ⟨6, g⟩, ⟨5, a⟩, ⟨3, d⟩, ⟨2, 0#2⟩, ⟨6, 19#6⟩]
    (by show w5 0x4C00000F d.toNat 21 a.toNat 16 g.toNat 10 p.toNat 7 z.toNat 6 = _; simp only [w5, pack, BitVec.toNat_ofNat, BitVec.toNat_ofBool]; omega) 19 rfl rfl rfl rfl decodeVcmp
    (fields_Vcmp _ (fld_pack _ 26 6 19 rfl)) (fun _ => queued_Vcmp _ (fld_pack _ 26 6 19 rfl))
    (by unfold decodeVcmp; rw [fld_pack _ 0 6 15 rfl]; rw [fld_pack _ 24 2 0 rfl, bits_pack _ 21 3 d rfl, bits_pack _ 16 5 a rfl, bits_pack _ 10 6 g rfl, bits_pack _ 7 3 p rfl, flag_pack _ 6 z rfl]; rfl)

theorem vredsum (d a : VReg) (p : PReg) : Statement (.vredsum d a p) :=
  word_law [⟨7, 0#7⟩, ⟨1, 0#1⟩, ⟨3, p⟩, ⟨5, 0#5⟩, ⟨5, a⟩, ⟨5, d⟩, ⟨6, 20#6⟩]
    (by show w3 0x50000000 d.toNat 21 a.toNat 16 p.toNat 8 = _; simp only [w3, pack, BitVec.toNat_ofNat]; omega) 20 rfl rfl rfl rfl decodeVred
    (fields_Vred _ (fld_pack _ 26 6 20 rfl)) (fun _ => queued_Vred _ (fld_pack _ 26 6 20 rfl))
    (by unfold decodeVred; rw [fld_pack _ 0 7 0 rfl]; rw [fld_pack _ 7 1 0 rfl, fld_pack _ 11 5 0 rfl, bits_pack _ 21 5 d rfl, bits_pack _ 16 5 a rfl, bits_pack _ 8 3 p rfl]; rfl)

theorem vredosum (d a : VReg) (p : PReg) : Statement (.vredosum d a p) :=
  word_law [⟨7, 1#7⟩, ⟨1, 0#1⟩, ⟨3, p⟩, ⟨5, 0#5⟩, ⟨5, a⟩, ⟨5, d⟩, ⟨6, 20#6⟩]
    (by show w3 0x50000001 d.toNat 21 a.toNat 16 p.toNat 8 = _; simp only [w3, pack, BitVec.toNat_ofNat]; omega) 20 rfl rfl rfl rfl decodeVred
    (fields_Vred _ (fld_pack _ 26 6 20 rfl)) (fun _ => queued_Vred _ (fld_pack _ 26 6 20 rfl))
    (by unfold decodeVred; rw [fld_pack _ 0 7 1 rfl]; rw [fld_pack _ 7 1 0 rfl, fld_pack _ 11 5 0 rfl, bits_pack _ 21 5 d rfl, bits_pack _ 16 5 a rfl, bits_pack _ 8 3 p rfl]; rfl)

theorem vredmin (d a : VReg) (p : PReg) : Statement (.vredmin d a p) :=
  word_law [⟨7, 2#7⟩, ⟨1, 0#1⟩, ⟨3, p⟩, ⟨5, 0#5⟩, ⟨5, a⟩, ⟨5, d⟩, ⟨6, 20#6⟩]
    (by show w3 0x50000002 d.toNat 21 a.toNat 16 p.toNat 8 = _; simp only [w3, pack, BitVec.toNat_ofNat]; omega) 20 rfl rfl rfl rfl decodeVred
    (fields_Vred _ (fld_pack _ 26 6 20 rfl)) (fun _ => queued_Vred _ (fld_pack _ 26 6 20 rfl))
    (by unfold decodeVred; rw [fld_pack _ 0 7 2 rfl]; rw [fld_pack _ 7 1 0 rfl, fld_pack _ 11 5 0 rfl, bits_pack _ 21 5 d rfl, bits_pack _ 16 5 a rfl, bits_pack _ 8 3 p rfl]; rfl)

theorem vredmax (d a : VReg) (p : PReg) : Statement (.vredmax d a p) :=
  word_law [⟨7, 3#7⟩, ⟨1, 0#1⟩, ⟨3, p⟩, ⟨5, 0#5⟩, ⟨5, a⟩, ⟨5, d⟩, ⟨6, 20#6⟩]
    (by show w3 0x50000003 d.toNat 21 a.toNat 16 p.toNat 8 = _; simp only [w3, pack, BitVec.toNat_ofNat]; omega) 20 rfl rfl rfl rfl decodeVred
    (fields_Vred _ (fld_pack _ 26 6 20 rfl)) (fun _ => queued_Vred _ (fld_pack _ 26 6 20 rfl))
    (by unfold decodeVred; rw [fld_pack _ 0 7 3 rfl]; rw [fld_pack _ 7 1 0 rfl, fld_pack _ 11 5 0 rfl, bits_pack _ 21 5 d rfl, bits_pack _ 16 5 a rfl, bits_pack _ 8 3 p rfl]; rfl)

theorem vredand (d a : VReg) (p : PReg) : Statement (.vredand d a p) :=
  word_law [⟨7, 4#7⟩, ⟨1, 0#1⟩, ⟨3, p⟩, ⟨5, 0#5⟩, ⟨5, a⟩, ⟨5, d⟩, ⟨6, 20#6⟩]
    (by show w3 0x50000004 d.toNat 21 a.toNat 16 p.toNat 8 = _; simp only [w3, pack, BitVec.toNat_ofNat]; omega) 20 rfl rfl rfl rfl decodeVred
    (fields_Vred _ (fld_pack _ 26 6 20 rfl)) (fun _ => queued_Vred _ (fld_pack _ 26 6 20 rfl))
    (by unfold decodeVred; rw [fld_pack _ 0 7 4 rfl]; rw [fld_pack _ 7 1 0 rfl, fld_pack _ 11 5 0 rfl, bits_pack _ 21 5 d rfl, bits_pack _ 16 5 a rfl, bits_pack _ 8 3 p rfl]; rfl)

theorem vredor (d a : VReg) (p : PReg) : Statement (.vredor d a p) :=
  word_law [⟨7, 5#7⟩, ⟨1, 0#1⟩, ⟨3, p⟩, ⟨5, 0#5⟩, ⟨5, a⟩, ⟨5, d⟩, ⟨6, 20#6⟩]
    (by show w3 0x50000005 d.toNat 21 a.toNat 16 p.toNat 8 = _; simp only [w3, pack, BitVec.toNat_ofNat]; omega) 20 rfl rfl rfl rfl decodeVred
    (fields_Vred _ (fld_pack _ 26 6 20 rfl)) (fun _ => queued_Vred _ (fld_pack _ 26 6 20 rfl))
    (by unfold decodeVred; rw [fld_pack _ 0 7 5 rfl]; rw [fld_pack _ 7 1 0 rfl, fld_pack _ 11 5 0 rfl, bits_pack _ 21 5 d rfl, bits_pack _ 16 5 a rfl, bits_pack _ 8 3 p rfl]; rfl)

theorem vredxor (d a : VReg) (p : PReg) : Statement (.vredxor d a p) :=
  word_law [⟨7, 6#7⟩, ⟨1, 0#1⟩, ⟨3, p⟩, ⟨5, 0#5⟩, ⟨5, a⟩, ⟨5, d⟩, ⟨6, 20#6⟩]
    (by show w3 0x50000006 d.toNat 21 a.toNat 16 p.toNat 8 = _; simp only [w3, pack, BitVec.toNat_ofNat]; omega) 20 rfl rfl rfl rfl decodeVred
    (fields_Vred _ (fld_pack _ 26 6 20 rfl)) (fun _ => queued_Vred _ (fld_pack _ 26 6 20 rfl))
    (by unfold decodeVred; rw [fld_pack _ 0 7 6 rfl]; rw [fld_pack _ 7 1 0 rfl, fld_pack _ 11 5 0 rfl, bits_pack _ 21 5 d rfl, bits_pack _ 16 5 a rfl, bits_pack _ 8 3 p rfl]; rfl)

theorem vredsumW (d a : VReg) (p : PReg) : Statement (.vredsumW d a p) :=
  word_law [⟨7, 7#7⟩, ⟨1, 0#1⟩, ⟨3, p⟩, ⟨5, 0#5⟩, ⟨5, a⟩, ⟨5, d⟩, ⟨6, 20#6⟩]
    (by show w3 0x50000007 d.toNat 21 a.toNat 16 p.toNat 8 = _; simp only [w3, pack, BitVec.toNat_ofNat]; omega) 20 rfl rfl rfl rfl decodeVred
    (fields_Vred _ (fld_pack _ 26 6 20 rfl)) (fun _ => queued_Vred _ (fld_pack _ 26 6 20 rfl))
    (by unfold decodeVred; rw [fld_pack _ 0 7 7 rfl]; rw [fld_pack _ 7 1 0 rfl, fld_pack _ 11 5 0 rfl, bits_pack _ 21 5 d rfl, bits_pack _ 16 5 a rfl, bits_pack _ 8 3 p rfl]; rfl)

theorem vslideup (d a : VReg) (g : GReg) (p : PReg) (z : Bool) : Statement (.vslideup d a g p z) :=
  word_law [⟨6, 0#6⟩, ⟨1, BitVec.ofBool z⟩, ⟨3, p⟩, ⟨6, g⟩, ⟨5, a⟩, ⟨5, d⟩, ⟨6, 21#6⟩]
    (by show w5 0x54000000 d.toNat 21 a.toNat 16 g.toNat 10 p.toNat 7 z.toNat 6 = _; simp only [w5, pack, BitVec.toNat_ofNat, BitVec.toNat_ofBool]; omega) 21 rfl rfl rfl rfl decodeVperm
    (fields_Vperm _ (fld_pack _ 26 6 21 rfl)) (fun _ => queued_Vperm _ (fld_pack _ 26 6 21 rfl))
    (by unfold decodeVperm; rw [fld_pack _ 0 6 0 rfl]; rw [bits_pack _ 21 5 d rfl, bits_pack _ 16 5 a rfl, bits_pack _ 10 6 g rfl, bits_pack _ 7 3 p rfl, flag_pack _ 6 z rfl]; rfl)

theorem vslidedn (d a : VReg) (g : GReg) (p : PReg) (z : Bool) : Statement (.vslidedn d a g p z) :=
  word_law [⟨6, 1#6⟩, ⟨1, BitVec.ofBool z⟩, ⟨3, p⟩, ⟨6, g⟩, ⟨5, a⟩, ⟨5, d⟩, ⟨6, 21#6⟩]
    (by show w5 0x54000001 d.toNat 21 a.toNat 16 g.toNat 10 p.toNat 7 z.toNat 6 = _; simp only [w5, pack, BitVec.toNat_ofNat, BitVec.toNat_ofBool]; omega) 21 rfl rfl rfl rfl decodeVperm
    (fields_Vperm _ (fld_pack _ 26 6 21 rfl)) (fun _ => queued_Vperm _ (fld_pack _ 26 6 21 rfl))
    (by unfold decodeVperm; rw [fld_pack _ 0 6 1 rfl]; rw [bits_pack _ 21 5 d rfl, bits_pack _ 16 5 a rfl, bits_pack _ 10 6 g rfl, bits_pack _ 7 3 p rfl, flag_pack _ 6 z rfl]; rfl)

theorem vrgather (d a b : VReg) (p : PReg) (z : Bool) : Statement (.vrgather d a b p z) :=
  word_law [⟨6, 2#6⟩, ⟨1, 0#1⟩, ⟨1, BitVec.ofBool z⟩, ⟨3, p⟩, ⟨5, b⟩, ⟨5, a⟩, ⟨5, d⟩, ⟨6, 21#6⟩]
    (by show w5 0x54000002 d.toNat 21 a.toNat 16 b.toNat 11 p.toNat 8 z.toNat 7 = _; simp only [w5, pack, BitVec.toNat_ofNat, BitVec.toNat_ofBool]; omega) 21 rfl rfl rfl rfl decodeVperm
    (fields_Vperm _ (fld_pack _ 26 6 21 rfl)) (fun _ => queued_Vperm _ (fld_pack _ 26 6 21 rfl))
    (by unfold decodeVperm; rw [fld_pack _ 0 6 2 rfl]; rw [fld_pack _ 6 1 0 rfl, bits_pack _ 21 5 d rfl, bits_pack _ 16 5 a rfl, bits_pack _ 11 5 b rfl, bits_pack _ 8 3 p rfl, flag_pack _ 7 z rfl]; rfl)

theorem vcompress (d a : VReg) (p : PReg) : Statement (.vcompress d a p) :=
  word_law [⟨6, 3#6⟩, ⟨2, 0#2⟩, ⟨3, p⟩, ⟨5, 0#5⟩, ⟨5, a⟩, ⟨5, d⟩, ⟨6, 21#6⟩]
    (by show w3 0x54000003 d.toNat 21 a.toNat 16 p.toNat 8 = _; simp only [w3, pack, BitVec.toNat_ofNat]; omega) 21 rfl rfl rfl rfl decodeVperm
    (fields_Vperm _ (fld_pack _ 26 6 21 rfl)) (fun _ => queued_Vperm _ (fld_pack _ 26 6 21 rfl))
    (by unfold decodeVperm; rw [fld_pack _ 0 6 3 rfl]; rw [fld_pack _ 6 2 0 rfl, fld_pack _ 11 5 0 rfl, bits_pack _ 21 5 d rfl, bits_pack _ 16 5 a rfl, bits_pack _ 8 3 p rfl]; rfl)

theorem vexpand (d a : VReg) (p : PReg) (z : Bool) : Statement (.vexpand d a p z) :=
  word_law [⟨6, 4#6⟩, ⟨1, 0#1⟩, ⟨1, BitVec.ofBool z⟩, ⟨3, p⟩, ⟨5, 0#5⟩, ⟨5, a⟩, ⟨5, d⟩, ⟨6, 21#6⟩]
    (by show w4 0x54000004 d.toNat 21 a.toNat 16 p.toNat 8 z.toNat 7 = _; simp only [w4, pack, BitVec.toNat_ofNat, BitVec.toNat_ofBool]; omega) 21 rfl rfl rfl rfl decodeVperm
    (fields_Vperm _ (fld_pack _ 26 6 21 rfl)) (fun _ => queued_Vperm _ (fld_pack _ 26 6 21 rfl))
    (by unfold decodeVperm; rw [fld_pack _ 0 6 4 rfl]; rw [fld_pack _ 6 1 0 rfl, fld_pack _ 11 5 0 rfl, bits_pack _ 21 5 d rfl, bits_pack _ 16 5 a rfl, bits_pack _ 8 3 p rfl, flag_pack _ 7 z rfl]; rfl)

theorem viota (d : VReg) (p : PReg) (z : Bool) : Statement (.viota d p z) :=
  word_law [⟨6, 5#6⟩, ⟨1, 0#1⟩, ⟨1, BitVec.ofBool z⟩, ⟨3, p⟩, ⟨10, 0#10⟩, ⟨5, d⟩, ⟨6, 21#6⟩]
    (by show w3 0x54000005 d.toNat 21 p.toNat 8 z.toNat 7 = _; simp only [w3, pack, BitVec.toNat_ofNat, BitVec.toNat_ofBool]; omega) 21 rfl rfl rfl rfl decodeVperm
    (fields_Vperm _ (fld_pack _ 26 6 21 rfl)) (fun _ => queued_Vperm _ (fld_pack _ 26 6 21 rfl))
    (by unfold decodeVperm; rw [fld_pack _ 0 6 5 rfl]; rw [fld_pack _ 6 1 0 rfl, fld_pack _ 11 10 0 rfl, bits_pack _ 21 5 d rfl, bits_pack _ 8 3 p rfl, flag_pack _ 7 z rfl]; rfl)

theorem vzip (d a b : VReg) (p : PReg) (z : Bool) : Statement (.vzip d a b p z) :=
  word_law [⟨6, 6#6⟩, ⟨1, 0#1⟩, ⟨1, BitVec.ofBool z⟩, ⟨3, p⟩, ⟨5, b⟩, ⟨5, a⟩, ⟨5, d⟩, ⟨6, 21#6⟩]
    (by show w5 0x54000006 d.toNat 21 a.toNat 16 b.toNat 11 p.toNat 8 z.toNat 7 = _; simp only [w5, pack, BitVec.toNat_ofNat, BitVec.toNat_ofBool]; omega) 21 rfl rfl rfl rfl decodeVperm
    (fields_Vperm _ (fld_pack _ 26 6 21 rfl)) (fun _ => queued_Vperm _ (fld_pack _ 26 6 21 rfl))
    (by unfold decodeVperm; rw [fld_pack _ 0 6 6 rfl]; rw [fld_pack _ 6 1 0 rfl, bits_pack _ 21 5 d rfl, bits_pack _ 16 5 a rfl, bits_pack _ 11 5 b rfl, bits_pack _ 8 3 p rfl, flag_pack _ 7 z rfl]; rfl)

theorem vunzip (d a b : VReg) (p : PReg) (z : Bool) : Statement (.vunzip d a b p z) :=
  word_law [⟨6, 7#6⟩, ⟨1, 0#1⟩, ⟨1, BitVec.ofBool z⟩, ⟨3, p⟩, ⟨5, b⟩, ⟨5, a⟩, ⟨5, d⟩, ⟨6, 21#6⟩]
    (by show w5 0x54000007 d.toNat 21 a.toNat 16 b.toNat 11 p.toNat 8 z.toNat 7 = _; simp only [w5, pack, BitVec.toNat_ofNat, BitVec.toNat_ofBool]; omega) 21 rfl rfl rfl rfl decodeVperm
    (fields_Vperm _ (fld_pack _ 26 6 21 rfl)) (fun _ => queued_Vperm _ (fld_pack _ 26 6 21 rfl))
    (by unfold decodeVperm; rw [fld_pack _ 0 6 7 rfl]; rw [fld_pack _ 6 1 0 rfl, bits_pack _ 21 5 d rfl, bits_pack _ 16 5 a rfl, bits_pack _ 11 5 b rfl, bits_pack _ 8 3 p rfl, flag_pack _ 7 z rfl]; rfl)

theorem vrev (d a : VReg) (p : PReg) (z : Bool) : Statement (.vrev d a p z) :=
  word_law [⟨6, 8#6⟩, ⟨1, 0#1⟩, ⟨1, BitVec.ofBool z⟩, ⟨3, p⟩, ⟨5, 0#5⟩, ⟨5, a⟩, ⟨5, d⟩, ⟨6, 21#6⟩]
    (by show w4 0x54000008 d.toNat 21 a.toNat 16 p.toNat 8 z.toNat 7 = _; simp only [w4, pack, BitVec.toNat_ofNat, BitVec.toNat_ofBool]; omega) 21 rfl rfl rfl rfl decodeVperm
    (fields_Vperm _ (fld_pack _ 26 6 21 rfl)) (fun _ => queued_Vperm _ (fld_pack _ 26 6 21 rfl))
    (by unfold decodeVperm; rw [fld_pack _ 0 6 8 rfl]; rw [fld_pack _ 6 1 0 rfl, fld_pack _ 11 5 0 rfl, bits_pack _ 21 5 d rfl, bits_pack _ 16 5 a rfl, bits_pack _ 8 3 p rfl, flag_pack _ 7 z rfl]; rfl)

theorem vcvt (d a : VReg) (t : Fmt) (p : PReg) (z : Bool) (k : BitVec 2) (s : Bool) (r : BitVec 2) : Statement (.vcvt d a t p z k s r) :=
  word_law [⟨2, r⟩, ⟨1, BitVec.ofBool s⟩, ⟨2, k⟩, ⟨2, 0#2⟩, ⟨1, BitVec.ofBool z⟩, ⟨3, p⟩, ⟨4, t.code⟩, ⟨1, 0#1⟩, ⟨5, a⟩, ⟨5, d⟩, ⟨6, 22#6⟩]
    (by show w8 0x58000000 d.toNat 21 a.toNat 16 t.code.toNat 11 p.toNat 8 z.toNat 7 k.toNat 3 s.toNat 2 r.toNat 0 = _; simp only [w8, pack, BitVec.toNat_ofNat, BitVec.toNat_ofBool]; omega) 22 rfl rfl rfl rfl decodeVcvt
    (fields_Vcvt _ (fld_pack _ 26 6 22 rfl)) (fun _ => queued_Vcvt _ (fld_pack _ 26 6 22 rfl))
    (by unfold decodeVcvt; rw [fld_pack _ 5 2 0 rfl]; rw [fld_pack _ 15 1 0 rfl, bits_pack _ 21 5 d rfl, bits_pack _ 16 5 a rfl, bits_pack _ 11 4 t.code rfl, Fmt.ofCode_code, bits_pack _ 8 3 p rfl, flag_pack _ 7 z rfl, bits_pack _ 3 2 k rfl, flag_pack _ 2 s rfl, bits_pack _ 0 2 r rfl]; rfl)

theorem vcvtBits (d a : VReg) (t : Fmt) (p : PReg) (z : Bool) : Statement (.vcvtBits d a t p z) :=
  word_law [⟨5, 0#5⟩, ⟨2, 1#2⟩, ⟨1, BitVec.ofBool z⟩, ⟨3, p⟩, ⟨4, t.code⟩, ⟨1, 0#1⟩, ⟨5, a⟩, ⟨5, d⟩, ⟨6, 22#6⟩]
    (by show w5 0x58000020 d.toNat 21 a.toNat 16 t.code.toNat 11 p.toNat 8 z.toNat 7 = _; simp only [w5, pack, BitVec.toNat_ofNat, BitVec.toNat_ofBool]; omega) 22 rfl rfl rfl rfl decodeVcvt
    (fields_Vcvt _ (fld_pack _ 26 6 22 rfl)) (fun _ => queued_Vcvt _ (fld_pack _ 26 6 22 rfl))
    (by unfold decodeVcvt; rw [fld_pack _ 5 2 1 rfl]; rw [fld_pack _ 0 5 0 rfl, fld_pack _ 15 1 0 rfl, bits_pack _ 21 5 d rfl, bits_pack _ 16 5 a rfl, bits_pack _ 11 4 t.code rfl, Fmt.ofCode_code, bits_pack _ 8 3 p rfl, flag_pack _ 7 z rfl]; rfl)

theorem setvl (d a : GReg) (k : BitVec 2) : Statement (.setvl d a k) :=
  word_law [⟨2, k⟩, ⟨9, 0#9⟩, ⟨3, 0#3⟩, ⟨6, a⟩, ⟨6, d⟩, ⟨6, 23#6⟩]
    (by show w3 0x5C000000 d.toNat 20 a.toNat 14 k.toNat 0 = _; simp only [w3, pack, BitVec.toNat_ofNat]; omega) 23 rfl rfl rfl rfl decodeVset
    (fields_Vset _ (fld_pack _ 26 6 23 rfl)) (fun _ => queued_Vset _ (fld_pack _ 26 6 23 rfl))
    (by unfold decodeVset; rw [fld_pack _ 11 3 0 rfl]; rw [fld_pack _ 2 9 0 rfl, bits_pack _ 20 6 d rfl, bits_pack _ 14 6 a rfl, bits_pack _ 0 2 k rfl]; rfl)

theorem vcfg (d : VReg) (f : Fmt) : Statement (.vcfg d f) :=
  word_law [⟨4, f.code⟩, ⟨7, 0#7⟩, ⟨3, 1#3⟩, ⟨6, 0#6⟩, ⟨5, d⟩, ⟨1, 0#1⟩, ⟨6, 23#6⟩]
    (by show w2 0x5C000800 d.toNat 20 f.code.toNat 0 = _; simp only [w2, pack, BitVec.toNat_ofNat]; omega) 23 rfl rfl rfl rfl decodeVset
    (fields_Vset _ (fld_pack _ 26 6 23 rfl)) (fun _ => queued_Vset _ (fld_pack _ 26 6 23 rfl))
    (by unfold decodeVset; rw [fld_pack _ 11 3 1 rfl]; rw [fld_pack _ 4 7 0 rfl, fld_pack _ 14 6 0 rfl, fld_pack _ 25 1 0 rfl, bits_pack _ 20 5 d rfl, bits_pack _ 0 4 f.code rfl, Fmt.ofCode_code]; rfl)

theorem vmvg (d i : GReg) (v : VReg) : Statement (.vmvg d i v) :=
  word_law [⟨5, v⟩, ⟨6, 0#6⟩, ⟨3, 2#3⟩, ⟨6, i⟩, ⟨6, d⟩, ⟨6, 23#6⟩]
    (by show w3 0x5C001000 d.toNat 20 i.toNat 14 v.toNat 0 = _; simp only [w3, pack, BitVec.toNat_ofNat]; omega) 23 rfl rfl rfl rfl decodeVset
    (fields_Vset _ (fld_pack _ 26 6 23 rfl)) (fun _ => queued_Vset _ (fld_pack _ 26 6 23 rfl))
    (by unfold decodeVset; rw [fld_pack _ 11 3 2 rfl]; rw [fld_pack _ 5 6 0 rfl, bits_pack _ 20 6 d rfl, bits_pack _ 14 6 i rfl, bits_pack _ 0 5 v rfl]; rfl)

theorem vins (d : VReg) (a i : GReg) : Statement (.vins d a i) :=
  word_law [⟨6, i⟩, ⟨5, 0#5⟩, ⟨3, 3#3⟩, ⟨6, a⟩, ⟨5, d⟩, ⟨1, 0#1⟩, ⟨6, 23#6⟩]
    (by show w3 0x5C001800 d.toNat 20 a.toNat 14 i.toNat 0 = _; simp only [w3, pack, BitVec.toNat_ofNat]; omega) 23 rfl rfl rfl rfl decodeVset
    (fields_Vset _ (fld_pack _ 26 6 23 rfl)) (fun _ => queued_Vset _ (fld_pack _ 26 6 23 rfl))
    (by unfold decodeVset; rw [fld_pack _ 11 3 3 rfl]; rw [fld_pack _ 6 5 0 rfl, fld_pack _ 25 1 0 rfl, bits_pack _ 20 5 d rfl, bits_pack _ 14 6 a rfl, bits_pack _ 0 6 i rfl]; rfl)

theorem vfree : Statement (.vfree) :=
  word_law [⟨11, 0#11⟩, ⟨3, 4#3⟩, ⟨12, 0#12⟩, ⟨6, 23#6⟩]
    (by rfl) 23 rfl rfl rfl rfl decodeVset
    (fields_Vset _ (fld_pack _ 26 6 23 rfl)) (fun _ => queued_Vset _ (fld_pack _ 26 6 23 rfl))
    (by unfold decodeVset; rw [fld_pack _ 11 3 4 rfl]; rw [fld_pack _ 0 11 0 rfl, fld_pack _ 14 12 0 rfl]; rfl)

theorem vld (d : VReg) (b x : GReg) (p : PReg) (f : Fmt) : Statement (.vld d b x p f) :=
  word_law [⟨4, f.code⟩, ⟨3, p⟩, ⟨2, 0#2⟩, ⟨6, x⟩, ⟨6, b⟩, ⟨5, d⟩, ⟨6, 24#6⟩]
    (by show w5 0x60000000 d.toNat 21 b.toNat 15 x.toNat 9 p.toNat 4 f.code.toNat 0 = _; simp only [w5, pack, BitVec.toNat_ofNat]; omega) 24 rfl rfl rfl rfl decodeVld
    (fields_Vld _ (fld_pack _ 26 6 24 rfl)) (fun _ => queued_Vld _ (fld_pack _ 26 6 24 rfl))
    (by unfold decodeVld; rw [fld_pack _ 7 2 0 rfl]; rw [bits_pack _ 21 5 d rfl, bits_pack _ 15 6 b rfl, bits_pack _ 9 6 x rfl, bits_pack _ 4 3 p rfl, bits_pack _ 0 4 f.code rfl, Fmt.ofCode_code]; rfl)

theorem vlds (d : VReg) (b x : GReg) (p : PReg) (f : Fmt) : Statement (.vlds d b x p f) :=
  word_law [⟨4, f.code⟩, ⟨3, p⟩, ⟨2, 1#2⟩, ⟨6, x⟩, ⟨6, b⟩, ⟨5, d⟩, ⟨6, 24#6⟩]
    (by show w5 0x60000080 d.toNat 21 b.toNat 15 x.toNat 9 p.toNat 4 f.code.toNat 0 = _; simp only [w5, pack, BitVec.toNat_ofNat]; omega) 24 rfl rfl rfl rfl decodeVld
    (fields_Vld _ (fld_pack _ 26 6 24 rfl)) (fun _ => queued_Vld _ (fld_pack _ 26 6 24 rfl))
    (by unfold decodeVld; rw [fld_pack _ 7 2 1 rfl]; rw [bits_pack _ 21 5 d rfl, bits_pack _ 15 6 b rfl, bits_pack _ 9 6 x rfl, bits_pack _ 4 3 p rfl, bits_pack _ 0 4 f.code rfl, Fmt.ofCode_code]; rfl)

theorem vldx (d : VReg) (b : GReg) (x : VReg) (p : PReg) (f : Fmt) : Statement (.vldx d b x p f) :=
  word_law [⟨4, f.code⟩, ⟨3, p⟩, ⟨2, 2#2⟩, ⟨5, x⟩, ⟨1, 0#1⟩, ⟨6, b⟩, ⟨5, d⟩, ⟨6, 24#6⟩]
    (by show w5 0x60000100 d.toNat 21 b.toNat 15 x.toNat 9 p.toNat 4 f.code.toNat 0 = _; simp only [w5, pack, BitVec.toNat_ofNat]; omega) 24 rfl rfl rfl rfl decodeVld
    (fields_Vld _ (fld_pack _ 26 6 24 rfl)) (fun _ => queued_Vld _ (fld_pack _ 26 6 24 rfl))
    (by unfold decodeVld; rw [fld_pack _ 7 2 2 rfl]; rw [fld_pack _ 14 1 0 rfl, bits_pack _ 21 5 d rfl, bits_pack _ 15 6 b rfl, bits_pack _ 9 5 x rfl, bits_pack _ 4 3 p rfl, bits_pack _ 0 4 f.code rfl, Fmt.ofCode_code]; rfl)

theorem vldff (d : VReg) (b x : GReg) (p : PReg) (f : Fmt) : Statement (.vldff d b x p f) :=
  word_law [⟨4, f.code⟩, ⟨3, p⟩, ⟨2, 3#2⟩, ⟨6, x⟩, ⟨6, b⟩, ⟨5, d⟩, ⟨6, 24#6⟩]
    (by show w5 0x60000180 d.toNat 21 b.toNat 15 x.toNat 9 p.toNat 4 f.code.toNat 0 = _; simp only [w5, pack, BitVec.toNat_ofNat]; omega) 24 rfl rfl rfl rfl decodeVld
    (fields_Vld _ (fld_pack _ 26 6 24 rfl)) (fun _ => queued_Vld _ (fld_pack _ 26 6 24 rfl))
    (by unfold decodeVld; rw [fld_pack _ 7 2 3 rfl]; rw [bits_pack _ 21 5 d rfl, bits_pack _ 15 6 b rfl, bits_pack _ 9 6 x rfl, bits_pack _ 4 3 p rfl, bits_pack _ 0 4 f.code rfl, Fmt.ofCode_code]; rfl)

theorem vst (s : VReg) (b x : GReg) (p : PReg) (n : Bool) : Statement (.vst s b x p n) :=
  word_law [⟨3, 0#3⟩, ⟨1, BitVec.ofBool n⟩, ⟨3, p⟩, ⟨2, 0#2⟩, ⟨6, x⟩, ⟨6, b⟩, ⟨5, s⟩, ⟨6, 25#6⟩]
    (by show w5 0x64000000 s.toNat 21 b.toNat 15 x.toNat 9 p.toNat 4 n.toNat 3 = _; simp only [w5, pack, BitVec.toNat_ofNat, BitVec.toNat_ofBool]; omega) 25 rfl rfl rfl rfl decodeVst
    (fields_Vst _ (fld_pack _ 26 6 25 rfl)) (fun _ => queued_Vst _ (fld_pack _ 26 6 25 rfl))
    (by unfold decodeVst; rw [fld_pack _ 7 2 0 rfl]; rw [fld_pack _ 0 3 0 rfl, bits_pack _ 21 5 s rfl, bits_pack _ 15 6 b rfl, bits_pack _ 9 6 x rfl, bits_pack _ 4 3 p rfl, flag_pack _ 3 n rfl]; rfl)

theorem vsts (s : VReg) (b x : GReg) (p : PReg) (n : Bool) : Statement (.vsts s b x p n) :=
  word_law [⟨3, 0#3⟩, ⟨1, BitVec.ofBool n⟩, ⟨3, p⟩, ⟨2, 1#2⟩, ⟨6, x⟩, ⟨6, b⟩, ⟨5, s⟩, ⟨6, 25#6⟩]
    (by show w5 0x64000080 s.toNat 21 b.toNat 15 x.toNat 9 p.toNat 4 n.toNat 3 = _; simp only [w5, pack, BitVec.toNat_ofNat, BitVec.toNat_ofBool]; omega) 25 rfl rfl rfl rfl decodeVst
    (fields_Vst _ (fld_pack _ 26 6 25 rfl)) (fun _ => queued_Vst _ (fld_pack _ 26 6 25 rfl))
    (by unfold decodeVst; rw [fld_pack _ 7 2 1 rfl]; rw [fld_pack _ 0 3 0 rfl, bits_pack _ 21 5 s rfl, bits_pack _ 15 6 b rfl, bits_pack _ 9 6 x rfl, bits_pack _ 4 3 p rfl, flag_pack _ 3 n rfl]; rfl)

theorem vstx (s : VReg) (b : GReg) (x : VReg) (p : PReg) (n : Bool) : Statement (.vstx s b x p n) :=
  word_law [⟨3, 0#3⟩, ⟨1, BitVec.ofBool n⟩, ⟨3, p⟩, ⟨2, 2#2⟩, ⟨5, x⟩, ⟨1, 0#1⟩, ⟨6, b⟩, ⟨5, s⟩, ⟨6, 25#6⟩]
    (by show w5 0x64000100 s.toNat 21 b.toNat 15 x.toNat 9 p.toNat 4 n.toNat 3 = _; simp only [w5, pack, BitVec.toNat_ofNat, BitVec.toNat_ofBool]; omega) 25 rfl rfl rfl rfl decodeVst
    (fields_Vst _ (fld_pack _ 26 6 25 rfl)) (fun _ => queued_Vst _ (fld_pack _ 26 6 25 rfl))
    (by unfold decodeVst; rw [fld_pack _ 7 2 2 rfl]; rw [fld_pack _ 0 3 0 rfl, fld_pack _ 14 1 0 rfl, bits_pack _ 21 5 s rfl, bits_pack _ 15 6 b rfl, bits_pack _ 9 5 x rfl, bits_pack _ 4 3 p rfl, flag_pack _ 3 n rfl]; rfl)

theorem vldT (t : TReg) (b x : GReg) : Statement (.vldT t b x) :=
  word_law [⟨6, 0#6⟩, ⟨3, 0#3⟩, ⟨6, x⟩, ⟨6, b⟩, ⟨2, t⟩, ⟨3, 0#3⟩, ⟨6, 26#6⟩]
    (by show w3 0x68000000 t.toNat 21 b.toNat 15 x.toNat 9 = _; simp only [w3, pack, BitVec.toNat_ofNat]; omega) 26 rfl rfl rfl rfl decodeVmx
    (fields_Vmx _ (fld_pack _ 26 6 26 rfl)) (fun _ => queued_Vmx _ (fld_pack _ 26 6 26 rfl))
    (by unfold decodeVmx; rw [fld_pack _ 6 3 0 rfl]; rw [fld_pack _ 0 6 0 rfl, fld_pack _ 23 3 0 rfl, bits_pack _ 21 2 t rfl, bits_pack _ 15 6 b rfl, bits_pack _ 9 6 x rfl]; rfl)

theorem vstT (t : TReg) (b x : GReg) : Statement (.vstT t b x) :=
  word_law [⟨6, 0#6⟩, ⟨3, 1#3⟩, ⟨6, x⟩, ⟨6, b⟩, ⟨2, t⟩, ⟨3, 0#3⟩, ⟨6, 26#6⟩]
    (by show w3 0x68000040 t.toNat 21 b.toNat 15 x.toNat 9 = _; simp only [w3, pack, BitVec.toNat_ofNat]; omega) 26 rfl rfl rfl rfl decodeVmx
    (fields_Vmx _ (fld_pack _ 26 6 26 rfl)) (fun _ => queued_Vmx _ (fld_pack _ 26 6 26 rfl))
    (by unfold decodeVmx; rw [fld_pack _ 6 3 1 rfl]; rw [fld_pack _ 0 6 0 rfl, fld_pack _ 23 3 0 rfl, bits_pack _ 21 2 t rfl, bits_pack _ 15 6 b rfl, bits_pack _ 9 6 x rfl]; rfl)

theorem vldR (v : VReg) (b x : GReg) (k : Bool) : Statement (.vldR v b x k) :=
  word_law [⟨2, 0#2⟩, ⟨1, BitVec.ofBool k⟩, ⟨3, 0#3⟩, ⟨3, 2#3⟩, ⟨6, x⟩, ⟨6, b⟩, ⟨5, v⟩, ⟨6, 26#6⟩]
    (by show w4 0x68000080 v.toNat 21 b.toNat 15 x.toNat 9 k.toNat 2 = _; simp only [w4, pack, BitVec.toNat_ofNat, BitVec.toNat_ofBool]; omega) 26 rfl rfl rfl rfl decodeVmx
    (fields_Vmx _ (fld_pack _ 26 6 26 rfl)) (fun _ => queued_Vmx _ (fld_pack _ 26 6 26 rfl))
    (by unfold decodeVmx; rw [fld_pack _ 6 3 2 rfl]; rw [fld_pack _ 0 2 0 rfl, fld_pack _ 3 3 0 rfl, bits_pack _ 21 5 v rfl, bits_pack _ 15 6 b rfl, bits_pack _ 9 6 x rfl, flag_pack _ 2 k rfl]; rfl)

theorem vstR (v : VReg) (b x : GReg) (k : Bool) : Statement (.vstR v b x k) :=
  word_law [⟨2, 0#2⟩, ⟨1, BitVec.ofBool k⟩, ⟨3, 0#3⟩, ⟨3, 3#3⟩, ⟨6, x⟩, ⟨6, b⟩, ⟨5, v⟩, ⟨6, 26#6⟩]
    (by show w4 0x680000C0 v.toNat 21 b.toNat 15 x.toNat 9 k.toNat 2 = _; simp only [w4, pack, BitVec.toNat_ofNat, BitVec.toNat_ofBool]; omega) 26 rfl rfl rfl rfl decodeVmx
    (fields_Vmx _ (fld_pack _ 26 6 26 rfl)) (fun _ => queued_Vmx _ (fld_pack _ 26 6 26 rfl))
    (by unfold decodeVmx; rw [fld_pack _ 6 3 3 rfl]; rw [fld_pack _ 0 2 0 rfl, fld_pack _ 3 3 0 rfl, bits_pack _ 21 5 v rfl, bits_pack _ 15 6 b rfl, bits_pack _ 9 6 x rfl, flag_pack _ 2 k rfl]; rfl)

theorem vldAv (d : VReg) (b x : GReg) (f : Fmt) : Statement (.vldAv d b x f) :=
  word_law [⟨2, 0#2⟩, ⟨4, f.code⟩, ⟨3, 4#3⟩, ⟨6, x⟩, ⟨6, b⟩, ⟨5, d⟩, ⟨6, 26#6⟩]
    (by show w4 0x68000100 d.toNat 21 b.toNat 15 x.toNat 9 f.code.toNat 2 = _; simp only [w4, pack, BitVec.toNat_ofNat]; omega) 26 rfl rfl rfl rfl decodeVmx
    (fields_Vmx _ (fld_pack _ 26 6 26 rfl)) (fun _ => queued_Vmx _ (fld_pack _ 26 6 26 rfl))
    (by unfold decodeVmx; rw [fld_pack _ 6 3 4 rfl]; rw [fld_pack _ 0 2 0 rfl, bits_pack _ 21 5 d rfl, bits_pack _ 15 6 b rfl, bits_pack _ 9 6 x rfl, bits_pack _ 2 4 f.code rfl, Fmt.ofCode_code]; rfl)

theorem vldAm (d : VReg) (b x : GReg) (f : Fmt) : Statement (.vldAm d b x f) :=
  word_law [⟨2, 0#2⟩, ⟨4, f.code⟩, ⟨3, 5#3⟩, ⟨6, x⟩, ⟨6, b⟩, ⟨5, d⟩, ⟨6, 26#6⟩]
    (by show w4 0x68000140 d.toNat 21 b.toNat 15 x.toNat 9 f.code.toNat 2 = _; simp only [w4, pack, BitVec.toNat_ofNat]; omega) 26 rfl rfl rfl rfl decodeVmx
    (fields_Vmx _ (fld_pack _ 26 6 26 rfl)) (fun _ => queued_Vmx _ (fld_pack _ 26 6 26 rfl))
    (by unfold decodeVmx; rw [fld_pack _ 6 3 5 rfl]; rw [fld_pack _ 0 2 0 rfl, bits_pack _ 21 5 d rfl, bits_pack _ 15 6 b rfl, bits_pack _ 9 6 x rfl, bits_pack _ 2 4 f.code rfl, Fmt.ofCode_code]; rfl)

theorem vamoAdd (d : VReg) (b : GReg) (i : VReg) (p : PReg) (s : Scope) : Statement (.vamoAdd d b i p s) :=
  word_law [⟨1, 0#1⟩, ⟨2, s.code⟩, ⟨3, p⟩, ⟨4, 0#4⟩, ⟨5, i⟩, ⟨6, b⟩, ⟨5, d⟩, ⟨6, 27#6⟩]
    (by show w5 0x6C000000 d.toNat 21 b.toNat 15 i.toNat 10 p.toNat 3 s.code.toNat 1 = _; simp only [w5, pack, BitVec.toNat_ofNat]; omega) 27 rfl rfl rfl rfl decodeVamo
    (fields_Vamo _ (fld_pack _ 26 6 27 rfl)) (fun _ => queued_Vamo _ (fld_pack _ 26 6 27 rfl))
    (by unfold decodeVamo; rw [fld_pack _ 6 4 0 rfl]; rw [fld_pack _ 0 1 0 rfl, bits_pack _ 21 5 d rfl, bits_pack _ 15 6 b rfl, bits_pack _ 10 5 i rfl, bits_pack _ 3 3 p rfl, bits_pack _ 1 2 s.code rfl, Scope.ofCode_code]; rfl)

theorem vamoMin (d : VReg) (b : GReg) (i : VReg) (p : PReg) (s : Scope) : Statement (.vamoMin d b i p s) :=
  word_law [⟨1, 0#1⟩, ⟨2, s.code⟩, ⟨3, p⟩, ⟨4, 1#4⟩, ⟨5, i⟩, ⟨6, b⟩, ⟨5, d⟩, ⟨6, 27#6⟩]
    (by show w5 0x6C000040 d.toNat 21 b.toNat 15 i.toNat 10 p.toNat 3 s.code.toNat 1 = _; simp only [w5, pack, BitVec.toNat_ofNat]; omega) 27 rfl rfl rfl rfl decodeVamo
    (fields_Vamo _ (fld_pack _ 26 6 27 rfl)) (fun _ => queued_Vamo _ (fld_pack _ 26 6 27 rfl))
    (by unfold decodeVamo; rw [fld_pack _ 6 4 1 rfl]; rw [fld_pack _ 0 1 0 rfl, bits_pack _ 21 5 d rfl, bits_pack _ 15 6 b rfl, bits_pack _ 10 5 i rfl, bits_pack _ 3 3 p rfl, bits_pack _ 1 2 s.code rfl, Scope.ofCode_code]; rfl)

theorem vamoMax (d : VReg) (b : GReg) (i : VReg) (p : PReg) (s : Scope) : Statement (.vamoMax d b i p s) :=
  word_law [⟨1, 0#1⟩, ⟨2, s.code⟩, ⟨3, p⟩, ⟨4, 2#4⟩, ⟨5, i⟩, ⟨6, b⟩, ⟨5, d⟩, ⟨6, 27#6⟩]
    (by show w5 0x6C000080 d.toNat 21 b.toNat 15 i.toNat 10 p.toNat 3 s.code.toNat 1 = _; simp only [w5, pack, BitVec.toNat_ofNat]; omega) 27 rfl rfl rfl rfl decodeVamo
    (fields_Vamo _ (fld_pack _ 26 6 27 rfl)) (fun _ => queued_Vamo _ (fld_pack _ 26 6 27 rfl))
    (by unfold decodeVamo; rw [fld_pack _ 6 4 2 rfl]; rw [fld_pack _ 0 1 0 rfl, bits_pack _ 21 5 d rfl, bits_pack _ 15 6 b rfl, bits_pack _ 10 5 i rfl, bits_pack _ 3 3 p rfl, bits_pack _ 1 2 s.code rfl, Scope.ofCode_code]; rfl)

theorem vamoAnd (d : VReg) (b : GReg) (i : VReg) (p : PReg) (s : Scope) : Statement (.vamoAnd d b i p s) :=
  word_law [⟨1, 0#1⟩, ⟨2, s.code⟩, ⟨3, p⟩, ⟨4, 3#4⟩, ⟨5, i⟩, ⟨6, b⟩, ⟨5, d⟩, ⟨6, 27#6⟩]
    (by show w5 0x6C0000C0 d.toNat 21 b.toNat 15 i.toNat 10 p.toNat 3 s.code.toNat 1 = _; simp only [w5, pack, BitVec.toNat_ofNat]; omega) 27 rfl rfl rfl rfl decodeVamo
    (fields_Vamo _ (fld_pack _ 26 6 27 rfl)) (fun _ => queued_Vamo _ (fld_pack _ 26 6 27 rfl))
    (by unfold decodeVamo; rw [fld_pack _ 6 4 3 rfl]; rw [fld_pack _ 0 1 0 rfl, bits_pack _ 21 5 d rfl, bits_pack _ 15 6 b rfl, bits_pack _ 10 5 i rfl, bits_pack _ 3 3 p rfl, bits_pack _ 1 2 s.code rfl, Scope.ofCode_code]; rfl)

theorem vamoOr (d : VReg) (b : GReg) (i : VReg) (p : PReg) (s : Scope) : Statement (.vamoOr d b i p s) :=
  word_law [⟨1, 0#1⟩, ⟨2, s.code⟩, ⟨3, p⟩, ⟨4, 4#4⟩, ⟨5, i⟩, ⟨6, b⟩, ⟨5, d⟩, ⟨6, 27#6⟩]
    (by show w5 0x6C000100 d.toNat 21 b.toNat 15 i.toNat 10 p.toNat 3 s.code.toNat 1 = _; simp only [w5, pack, BitVec.toNat_ofNat]; omega) 27 rfl rfl rfl rfl decodeVamo
    (fields_Vamo _ (fld_pack _ 26 6 27 rfl)) (fun _ => queued_Vamo _ (fld_pack _ 26 6 27 rfl))
    (by unfold decodeVamo; rw [fld_pack _ 6 4 4 rfl]; rw [fld_pack _ 0 1 0 rfl, bits_pack _ 21 5 d rfl, bits_pack _ 15 6 b rfl, bits_pack _ 10 5 i rfl, bits_pack _ 3 3 p rfl, bits_pack _ 1 2 s.code rfl, Scope.ofCode_code]; rfl)

theorem vamoXor (d : VReg) (b : GReg) (i : VReg) (p : PReg) (s : Scope) : Statement (.vamoXor d b i p s) :=
  word_law [⟨1, 0#1⟩, ⟨2, s.code⟩, ⟨3, p⟩, ⟨4, 5#4⟩, ⟨5, i⟩, ⟨6, b⟩, ⟨5, d⟩, ⟨6, 27#6⟩]
    (by show w5 0x6C000140 d.toNat 21 b.toNat 15 i.toNat 10 p.toNat 3 s.code.toNat 1 = _; simp only [w5, pack, BitVec.toNat_ofNat]; omega) 27 rfl rfl rfl rfl decodeVamo
    (fields_Vamo _ (fld_pack _ 26 6 27 rfl)) (fun _ => queued_Vamo _ (fld_pack _ 26 6 27 rfl))
    (by unfold decodeVamo; rw [fld_pack _ 6 4 5 rfl]; rw [fld_pack _ 0 1 0 rfl, bits_pack _ 21 5 d rfl, bits_pack _ 15 6 b rfl, bits_pack _ 10 5 i rfl, bits_pack _ 3 3 p rfl, bits_pack _ 1 2 s.code rfl, Scope.ofCode_code]; rfl)

theorem vamoSwap (d : VReg) (b : GReg) (i : VReg) (p : PReg) (s : Scope) : Statement (.vamoSwap d b i p s) :=
  word_law [⟨1, 0#1⟩, ⟨2, s.code⟩, ⟨3, p⟩, ⟨4, 6#4⟩, ⟨5, i⟩, ⟨6, b⟩, ⟨5, d⟩, ⟨6, 27#6⟩]
    (by show w5 0x6C000180 d.toNat 21 b.toNat 15 i.toNat 10 p.toNat 3 s.code.toNat 1 = _; simp only [w5, pack, BitVec.toNat_ofNat]; omega) 27 rfl rfl rfl rfl decodeVamo
    (fields_Vamo _ (fld_pack _ 26 6 27 rfl)) (fun _ => queued_Vamo _ (fld_pack _ 26 6 27 rfl))
    (by unfold decodeVamo; rw [fld_pack _ 6 4 6 rfl]; rw [fld_pack _ 0 1 0 rfl, bits_pack _ 21 5 d rfl, bits_pack _ 15 6 b rfl, bits_pack _ 10 5 i rfl, bits_pack _ 3 3 p rfl, bits_pack _ 1 2 s.code rfl, Scope.ofCode_code]; rfl)

theorem vamoFmin (d : VReg) (b : GReg) (i : VReg) (p : PReg) (s : Scope) : Statement (.vamoFmin d b i p s) :=
  word_law [⟨1, 0#1⟩, ⟨2, s.code⟩, ⟨3, p⟩, ⟨4, 7#4⟩, ⟨5, i⟩, ⟨6, b⟩, ⟨5, d⟩, ⟨6, 27#6⟩]
    (by show w5 0x6C0001C0 d.toNat 21 b.toNat 15 i.toNat 10 p.toNat 3 s.code.toNat 1 = _; simp only [w5, pack, BitVec.toNat_ofNat]; omega) 27 rfl rfl rfl rfl decodeVamo
    (fields_Vamo _ (fld_pack _ 26 6 27 rfl)) (fun _ => queued_Vamo _ (fld_pack _ 26 6 27 rfl))
    (by unfold decodeVamo; rw [fld_pack _ 6 4 7 rfl]; rw [fld_pack _ 0 1 0 rfl, bits_pack _ 21 5 d rfl, bits_pack _ 15 6 b rfl, bits_pack _ 10 5 i rfl, bits_pack _ 3 3 p rfl, bits_pack _ 1 2 s.code rfl, Scope.ofCode_code]; rfl)

theorem vamoFadd (d : VReg) (b : GReg) (i : VReg) (p : PReg) (s : Scope) : Statement (.vamoFadd d b i p s) :=
  word_law [⟨1, 0#1⟩, ⟨2, s.code⟩, ⟨3, p⟩, ⟨4, 8#4⟩, ⟨5, i⟩, ⟨6, b⟩, ⟨5, d⟩, ⟨6, 27#6⟩]
    (by show w5 0x6C000200 d.toNat 21 b.toNat 15 i.toNat 10 p.toNat 3 s.code.toNat 1 = _; simp only [w5, pack, BitVec.toNat_ofNat]; omega) 27 rfl rfl rfl rfl decodeVamo
    (fields_Vamo _ (fld_pack _ 26 6 27 rfl)) (fun _ => queued_Vamo _ (fld_pack _ 26 6 27 rfl))
    (by unfold decodeVamo; rw [fld_pack _ 6 4 8 rfl]; rw [fld_pack _ 0 1 0 rfl, bits_pack _ 21 5 d rfl, bits_pack _ 15 6 b rfl, bits_pack _ 10 5 i rfl, bits_pack _ 3 3 p rfl, bits_pack _ 1 2 s.code rfl, Scope.ofCode_code]; rfl)

theorem pand (d a b : PReg) : Statement (.pand d a b) :=
  word_law [⟨3, 0#3⟩, ⟨8, 0#8⟩, ⟨3, b⟩, ⟨3, a⟩, ⟨3, d⟩, ⟨6, 0#6⟩, ⟨6, 28#6⟩]
    (by show w3 0x70000000 d.toNat 17 a.toNat 14 b.toNat 11 = _; simp only [w3, pack, BitVec.toNat_ofNat]; omega) 28 rfl rfl rfl rfl decodeVpred
    (fields_Vpred _ (fld_pack _ 26 6 28 rfl)) (fun _ => queued_Vpred _ (fld_pack _ 26 6 28 rfl))
    (by unfold decodeVpred; rw [fld_pack _ 3 8 0 rfl]; rw [fld_pack _ 0 3 0 rfl, fld_pack _ 20 6 0 rfl, bits_pack _ 17 3 d rfl, bits_pack _ 14 3 a rfl, bits_pack _ 11 3 b rfl]; rfl)

theorem por (d a b : PReg) : Statement (.por d a b) :=
  word_law [⟨3, 0#3⟩, ⟨8, 1#8⟩, ⟨3, b⟩, ⟨3, a⟩, ⟨3, d⟩, ⟨6, 0#6⟩, ⟨6, 28#6⟩]
    (by show w3 0x70000008 d.toNat 17 a.toNat 14 b.toNat 11 = _; simp only [w3, pack, BitVec.toNat_ofNat]; omega) 28 rfl rfl rfl rfl decodeVpred
    (fields_Vpred _ (fld_pack _ 26 6 28 rfl)) (fun _ => queued_Vpred _ (fld_pack _ 26 6 28 rfl))
    (by unfold decodeVpred; rw [fld_pack _ 3 8 1 rfl]; rw [fld_pack _ 0 3 0 rfl, fld_pack _ 20 6 0 rfl, bits_pack _ 17 3 d rfl, bits_pack _ 14 3 a rfl, bits_pack _ 11 3 b rfl]; rfl)

theorem pxor (d a b : PReg) : Statement (.pxor d a b) :=
  word_law [⟨3, 0#3⟩, ⟨8, 2#8⟩, ⟨3, b⟩, ⟨3, a⟩, ⟨3, d⟩, ⟨6, 0#6⟩, ⟨6, 28#6⟩]
    (by show w3 0x70000010 d.toNat 17 a.toNat 14 b.toNat 11 = _; simp only [w3, pack, BitVec.toNat_ofNat]; omega) 28 rfl rfl rfl rfl decodeVpred
    (fields_Vpred _ (fld_pack _ 26 6 28 rfl)) (fun _ => queued_Vpred _ (fld_pack _ 26 6 28 rfl))
    (by unfold decodeVpred; rw [fld_pack _ 3 8 2 rfl]; rw [fld_pack _ 0 3 0 rfl, fld_pack _ 20 6 0 rfl, bits_pack _ 17 3 d rfl, bits_pack _ 14 3 a rfl, bits_pack _ 11 3 b rfl]; rfl)

theorem pandn (d a b : PReg) : Statement (.pandn d a b) :=
  word_law [⟨3, 0#3⟩, ⟨8, 3#8⟩, ⟨3, b⟩, ⟨3, a⟩, ⟨3, d⟩, ⟨6, 0#6⟩, ⟨6, 28#6⟩]
    (by show w3 0x70000018 d.toNat 17 a.toNat 14 b.toNat 11 = _; simp only [w3, pack, BitVec.toNat_ofNat]; omega) 28 rfl rfl rfl rfl decodeVpred
    (fields_Vpred _ (fld_pack _ 26 6 28 rfl)) (fun _ => queued_Vpred _ (fld_pack _ 26 6 28 rfl))
    (by unfold decodeVpred; rw [fld_pack _ 3 8 3 rfl]; rw [fld_pack _ 0 3 0 rfl, fld_pack _ 20 6 0 rfl, bits_pack _ 17 3 d rfl, bits_pack _ 14 3 a rfl, bits_pack _ 11 3 b rfl]; rfl)

theorem pnot (d a : PReg) : Statement (.pnot d a) :=
  word_law [⟨3, 0#3⟩, ⟨8, 4#8⟩, ⟨3, 0#3⟩, ⟨3, a⟩, ⟨3, d⟩, ⟨6, 0#6⟩, ⟨6, 28#6⟩]
    (by show w2 0x70000020 d.toNat 17 a.toNat 14 = _; simp only [w2, pack, BitVec.toNat_ofNat]; omega) 28 rfl rfl rfl rfl decodeVpred
    (fields_Vpred _ (fld_pack _ 26 6 28 rfl)) (fun _ => queued_Vpred _ (fld_pack _ 26 6 28 rfl))
    (by unfold decodeVpred; rw [fld_pack _ 3 8 4 rfl]; rw [fld_pack _ 0 3 0 rfl, fld_pack _ 11 3 0 rfl, fld_pack _ 20 6 0 rfl, bits_pack _ 17 3 d rfl, bits_pack _ 14 3 a rfl]; rfl)

theorem pset (g : GReg) (d : PReg) : Statement (.pset g d) :=
  word_law [⟨3, 0#3⟩, ⟨8, 5#8⟩, ⟨6, 0#6⟩, ⟨3, d⟩, ⟨6, g⟩, ⟨6, 28#6⟩]
    (by show w2 0x70000028 g.toNat 20 d.toNat 17 = _; simp only [w2, pack, BitVec.toNat_ofNat]; omega) 28 rfl rfl rfl rfl decodeVpred
    (fields_Vpred _ (fld_pack _ 26 6 28 rfl)) (fun _ => queued_Vpred _ (fld_pack _ 26 6 28 rfl))
    (by unfold decodeVpred; rw [fld_pack _ 3 8 5 rfl]; rw [fld_pack _ 0 3 0 rfl, fld_pack _ 11 6 0 rfl, bits_pack _ 20 6 g rfl, bits_pack _ 17 3 d rfl]; rfl)

theorem pcnt (g : GReg) (a b : PReg) : Statement (.pcnt g a b) :=
  word_law [⟨3, 0#3⟩, ⟨8, 6#8⟩, ⟨3, b⟩, ⟨3, a⟩, ⟨3, 0#3⟩, ⟨6, g⟩, ⟨6, 28#6⟩]
    (by show w3 0x70000030 g.toNat 20 a.toNat 14 b.toNat 11 = _; simp only [w3, pack, BitVec.toNat_ofNat]; omega) 28 rfl rfl rfl rfl decodeVpred
    (fields_Vpred _ (fld_pack _ 26 6 28 rfl)) (fun _ => queued_Vpred _ (fld_pack _ 26 6 28 rfl))
    (by unfold decodeVpred; rw [fld_pack _ 3 8 6 rfl]; rw [fld_pack _ 0 3 0 rfl, fld_pack _ 17 3 0 rfl, bits_pack _ 20 6 g rfl, bits_pack _ 14 3 a rfl, bits_pack _ 11 3 b rfl]; rfl)

theorem pffs (g : GReg) (a b : PReg) : Statement (.pffs g a b) :=
  word_law [⟨3, 0#3⟩, ⟨8, 7#8⟩, ⟨3, b⟩, ⟨3, a⟩, ⟨3, 0#3⟩, ⟨6, g⟩, ⟨6, 28#6⟩]
    (by show w3 0x70000038 g.toNat 20 a.toNat 14 b.toNat 11 = _; simp only [w3, pack, BitVec.toNat_ofNat]; omega) 28 rfl rfl rfl rfl decodeVpred
    (fields_Vpred _ (fld_pack _ 26 6 28 rfl)) (fun _ => queued_Vpred _ (fld_pack _ 26 6 28 rfl))
    (by unfold decodeVpred; rw [fld_pack _ 3 8 7 rfl]; rw [fld_pack _ 0 3 0 rfl, fld_pack _ 17 3 0 rfl, bits_pack _ 20 6 g rfl, bits_pack _ 14 3 a rfl, bits_pack _ 11 3 b rfl]; rfl)

theorem pbrk (d a b : PReg) : Statement (.pbrk d a b) :=
  word_law [⟨3, 0#3⟩, ⟨8, 8#8⟩, ⟨3, b⟩, ⟨3, a⟩, ⟨3, d⟩, ⟨6, 0#6⟩, ⟨6, 28#6⟩]
    (by show w3 0x70000040 d.toNat 17 a.toNat 14 b.toNat 11 = _; simp only [w3, pack, BitVec.toNat_ofNat]; omega) 28 rfl rfl rfl rfl decodeVpred
    (fields_Vpred _ (fld_pack _ 26 6 28 rfl)) (fun _ => queued_Vpred _ (fld_pack _ 26 6 28 rfl))
    (by unfold decodeVpred; rw [fld_pack _ 3 8 8 rfl]; rw [fld_pack _ 0 3 0 rfl, fld_pack _ 20 6 0 rfl, bits_pack _ 17 3 d rfl, bits_pack _ 14 3 a rfl, bits_pack _ 11 3 b rfl]; rfl)

theorem pmov (d a : PReg) : Statement (.pmov d a) :=
  word_law [⟨3, 0#3⟩, ⟨8, 9#8⟩, ⟨3, 0#3⟩, ⟨3, a⟩, ⟨3, d⟩, ⟨6, 0#6⟩, ⟨6, 28#6⟩]
    (by show w2 0x70000048 d.toNat 17 a.toNat 14 = _; simp only [w2, pack, BitVec.toNat_ofNat]; omega) 28 rfl rfl rfl rfl decodeVpred
    (fields_Vpred _ (fld_pack _ 26 6 28 rfl)) (fun _ => queued_Vpred _ (fld_pack _ 26 6 28 rfl))
    (by unfold decodeVpred; rw [fld_pack _ 3 8 9 rfl]; rw [fld_pack _ 0 3 0 rfl, fld_pack _ 11 3 0 rfl, fld_pack _ 20 6 0 rfl, bits_pack _ 17 3 d rfl, bits_pack _ 14 3 a rfl]; rfl)

theorem oacc (t : TReg) (a b : VReg) (p : PReg) : Statement (.oacc t a b p) :=
  word_law [⟨6, 0#6⟩, ⟨5, 0#5⟩, ⟨3, p⟩, ⟨5, b⟩, ⟨5, a⟩, ⟨2, t⟩, ⟨6, 32#6⟩]
    (by show w4 0x80000000 t.toNat 24 a.toNat 19 b.toNat 14 p.toNat 11 = _; simp only [w4, pack, BitVec.toNat_ofNat]; omega) 32 rfl rfl rfl rfl decodeMx
    (fields_Mx _ (fld_pack _ 26 6 32 rfl)) (fun _ => queued_Mx _ (fld_pack _ 26 6 32 rfl))
    (by unfold decodeMx; rw [fld_pack _ 6 5 0 rfl]; rw [fld_pack _ 0 6 0 rfl, bits_pack _ 24 2 t rfl, bits_pack _ 19 5 a rfl, bits_pack _ 14 5 b rfl, bits_pack _ 11 3 p rfl]; rfl)

theorem osub (t : TReg) (a b : VReg) (p : PReg) : Statement (.osub t a b p) :=
  word_law [⟨6, 0#6⟩, ⟨5, 1#5⟩, ⟨3, p⟩, ⟨5, b⟩, ⟨5, a⟩, ⟨2, t⟩, ⟨6, 32#6⟩]
    (by show w4 0x80000040 t.toNat 24 a.toNat 19 b.toNat 14 p.toNat 11 = _; simp only [w4, pack, BitVec.toNat_ofNat]; omega) 32 rfl rfl rfl rfl decodeMx
    (fields_Mx _ (fld_pack _ 26 6 32 rfl)) (fun _ => queued_Mx _ (fld_pack _ 26 6 32 rfl))
    (by unfold decodeMx; rw [fld_pack _ 6 5 1 rfl]; rw [fld_pack _ 0 6 0 rfl, bits_pack _ 24 2 t rfl, bits_pack _ 19 5 a rfl, bits_pack _ 14 5 b rfl, bits_pack _ 11 3 p rfl]; rfl)

theorem mzero (t : TReg) (f : Fmt) : Statement (.mzero t f) :=
  word_law [⟨6, 0#6⟩, ⟨5, 2#5⟩, ⟨8, 0#8⟩, ⟨4, f.code⟩, ⟨1, 0#1⟩, ⟨2, t⟩, ⟨6, 32#6⟩]
    (by show w2 0x80000080 t.toNat 24 f.code.toNat 19 = _; simp only [w2, pack, BitVec.toNat_ofNat]; omega) 32 rfl rfl rfl rfl decodeMx
    (fields_Mx _ (fld_pack _ 26 6 32 rfl)) (fun _ => queued_Mx _ (fld_pack _ 26 6 32 rfl))
    (by unfold decodeMx; rw [fld_pack _ 6 5 2 rfl]; rw [fld_pack _ 0 6 0 rfl, fld_pack _ 11 8 0 rfl, fld_pack _ 23 1 0 rfl, bits_pack _ 24 2 t rfl, bits_pack _ 19 4 f.code rfl, Fmt.ofCode_code]; rfl)

theorem mrd (t : TReg) (d : VReg) (g : GReg) : Statement (.mrd t d g) :=
  word_law [⟨6, g⟩, ⟨5, 3#5⟩, ⟨8, 0#8⟩, ⟨5, d⟩, ⟨2, t⟩, ⟨6, 32#6⟩]
    (by show w3 0x800000C0 t.toNat 24 d.toNat 19 g.toNat 0 = _; simp only [w3, pack, BitVec.toNat_ofNat]; omega) 32 rfl rfl rfl rfl decodeMx
    (fields_Mx _ (fld_pack _ 26 6 32 rfl)) (fun _ => queued_Mx _ (fld_pack _ 26 6 32 rfl))
    (by unfold decodeMx; rw [fld_pack _ 6 5 3 rfl]; rw [fld_pack _ 11 8 0 rfl, bits_pack _ 24 2 t rfl, bits_pack _ 19 5 d rfl, bits_pack _ 0 6 g rfl]; rfl)

theorem mrdc (t : TReg) (d : VReg) (g : GReg) : Statement (.mrdc t d g) :=
  word_law [⟨6, g⟩, ⟨5, 4#5⟩, ⟨8, 0#8⟩, ⟨5, d⟩, ⟨2, t⟩, ⟨6, 32#6⟩]
    (by show w3 0x80000100 t.toNat 24 d.toNat 19 g.toNat 0 = _; simp only [w3, pack, BitVec.toNat_ofNat]; omega) 32 rfl rfl rfl rfl decodeMx
    (fields_Mx _ (fld_pack _ 26 6 32 rfl)) (fun _ => queued_Mx _ (fld_pack _ 26 6 32 rfl))
    (by unfold decodeMx; rw [fld_pack _ 6 5 4 rfl]; rw [fld_pack _ 11 8 0 rfl, bits_pack _ 24 2 t rfl, bits_pack _ 19 5 d rfl, bits_pack _ 0 6 g rfl]; rfl)

theorem mwr (t : TReg) (a : VReg) (g : GReg) : Statement (.mwr t a g) :=
  word_law [⟨6, g⟩, ⟨5, 5#5⟩, ⟨8, 0#8⟩, ⟨5, a⟩, ⟨2, t⟩, ⟨6, 32#6⟩]
    (by show w3 0x80000140 t.toNat 24 a.toNat 19 g.toNat 0 = _; simp only [w3, pack, BitVec.toNat_ofNat]; omega) 32 rfl rfl rfl rfl decodeMx
    (fields_Mx _ (fld_pack _ 26 6 32 rfl)) (fun _ => queued_Mx _ (fld_pack _ 26 6 32 rfl))
    (by unfold decodeMx; rw [fld_pack _ 6 5 5 rfl]; rw [fld_pack _ 11 8 0 rfl, bits_pack _ 24 2 t rfl, bits_pack _ 19 5 a rfl, bits_pack _ 0 6 g rfl]; rfl)

theorem oaccN (t : TReg) (a b : VReg) (p : PReg) : Statement (.oaccN t a b p) :=
  word_law [⟨6, 0#6⟩, ⟨5, 6#5⟩, ⟨3, p⟩, ⟨5, b⟩, ⟨5, a⟩, ⟨2, t⟩, ⟨6, 32#6⟩]
    (by show w4 0x80000180 t.toNat 24 a.toNat 19 b.toNat 14 p.toNat 11 = _; simp only [w4, pack, BitVec.toNat_ofNat]; omega) 32 rfl rfl rfl rfl decodeMx
    (fields_Mx _ (fld_pack _ 26 6 32 rfl)) (fun _ => queued_Mx _ (fld_pack _ 26 6 32 rfl))
    (by unfold decodeMx; rw [fld_pack _ 6 5 6 rfl]; rw [fld_pack _ 0 6 0 rfl, bits_pack _ 24 2 t rfl, bits_pack _ 19 5 a rfl, bits_pack _ 14 5 b rfl, bits_pack _ 11 3 p rfl]; rfl)

theorem cpg (d a : GReg) (v : VReg) (n : BitVec 4) (p : PReg) : Statement (.cpg d a v n p) :=
  word_law [⟨2, 0#2⟩, ⟨3, p⟩, ⟨4, n⟩, ⟨5, v⟩, ⟨6, a⟩, ⟨6, d⟩, ⟨6, 33#6⟩]
    (by show w5 0x84000000 d.toNat 20 a.toNat 14 v.toNat 9 n.toNat 5 p.toNat 2 = _; simp only [w5, pack, BitVec.toNat_ofNat]; omega) 33 rfl rfl rfl rfl decodeCp
    (fields_Cp _ (fld_pack _ 26 6 33 rfl)) (fun _ => queued_Cp _ (fld_pack _ 26 6 33 rfl))
    (by unfold decodeCp; rw [fld_pack _ 0 2 0 rfl]; rw [bits_pack _ 20 6 d rfl, bits_pack _ 14 6 a rfl, bits_pack _ 9 5 v rfl, bits_pack _ 5 4 n rfl, bits_pack _ 2 3 p rfl]; rfl)

theorem cpt (d a : GReg) (n : BitVec 4) : Statement (.cpt d a n) :=
  word_law [⟨2, 1#2⟩, ⟨3, 0#3⟩, ⟨4, n⟩, ⟨5, 0#5⟩, ⟨6, a⟩, ⟨6, d⟩, ⟨6, 33#6⟩]
    (by show w3 0x84000001 d.toNat 20 a.toNat 14 n.toNat 5 = _; simp only [w3, pack, BitVec.toNat_ofNat]; omega) 33 rfl rfl rfl rfl decodeCp
    (fields_Cp _ (fld_pack _ 26 6 33 rfl)) (fun _ => queued_Cp _ (fld_pack _ 26 6 33 rfl))
    (by unfold decodeCp; rw [fld_pack _ 0 2 1 rfl]; rw [fld_pack _ 2 3 0 rfl, fld_pack _ 9 5 0 rfl, bits_pack _ 20 6 d rfl, bits_pack _ 14 6 a rfl, bits_pack _ 5 4 n rfl]; rfl)

theorem cpl (d a : GReg) (n : BitVec 4) : Statement (.cpl d a n) :=
  word_law [⟨2, 2#2⟩, ⟨3, 0#3⟩, ⟨4, n⟩, ⟨5, 0#5⟩, ⟨6, a⟩, ⟨6, d⟩, ⟨6, 33#6⟩]
    (by show w3 0x84000002 d.toNat 20 a.toNat 14 n.toNat 5 = _; simp only [w3, pack, BitVec.toNat_ofNat]; omega) 33 rfl rfl rfl rfl decodeCp
    (fields_Cp _ (fld_pack _ 26 6 33 rfl)) (fun _ => queued_Cp _ (fld_pack _ 26 6 33 rfl))
    (by unfold decodeCp; rw [fld_pack _ 0 2 2 rfl]; rw [fld_pack _ 2 3 0 rfl, fld_pack _ 9 5 0 rfl, bits_pack _ 20 6 d rfl, bits_pack _ 14 6 a rfl, bits_pack _ 5 4 n rfl]; rfl)

theorem cpmask (p : PReg) (n : BitVec 4) : Statement (.cpmask p n) :=
  word_law [⟨4, n⟩, ⟨7, 0#7⟩, ⟨3, 1#3⟩, ⟨6, 0#6⟩, ⟨3, p⟩, ⟨3, 0#3⟩, ⟨6, 34#6⟩]
    (by show w2 0x88000800 p.toNat 20 n.toNat 0 = _; simp only [w2, pack, BitVec.toNat_ofNat]; omega) 34 rfl rfl rfl rfl decodeCpmask
    ((fields_Cpc _ (fld_pack _ 26 6 34 rfl)).trans (cpc_mask _ (fld_pack _ 11 3 1 rfl))) (fun _ => queued_Cpmask _ (fld_pack _ 26 6 34 rfl))
    (by unfold decodeCpmask; rw [fld_pack _ 11 3 1 rfl, fld_pack _ 4 7 0 rfl, fld_pack _ 14 6 0 rfl, fld_pack _ 23 3 0 rfl, bits_pack _ 20 3 p rfl, bits_pack _ 0 4 n rfl]; rfl)

theorem add (d a b : GReg) : Statement (.add d a b) :=
  word_law [⟨7, 0#7⟩, ⟨1, 0#1⟩, ⟨6, b⟩, ⟨6, a⟩, ⟨6, d⟩, ⟨6, 1#6⟩]
    (by show w3 0x04000000 d.toNat 20 a.toNat 14 b.toNat 8 = _; simp only [w3, pack, BitVec.toNat_ofNat]; omega) 1 rfl rfl rfl rfl decodeOp
    (fields_Op _ (fld_pack _ 26 6 1 rfl)) nofun
    (by unfold decodeOp; rw [fld_pack _ 0 7 0 rfl]; rw [fld_pack _ 7 1 0 rfl, bits_pack _ 20 6 d rfl, bits_pack _ 14 6 a rfl, bits_pack _ 8 6 b rfl]; rfl)

theorem sub (d a b : GReg) : Statement (.sub d a b) :=
  word_law [⟨7, 1#7⟩, ⟨1, 0#1⟩, ⟨6, b⟩, ⟨6, a⟩, ⟨6, d⟩, ⟨6, 1#6⟩]
    (by show w3 0x04000001 d.toNat 20 a.toNat 14 b.toNat 8 = _; simp only [w3, pack, BitVec.toNat_ofNat]; omega) 1 rfl rfl rfl rfl decodeOp
    (fields_Op _ (fld_pack _ 26 6 1 rfl)) nofun
    (by unfold decodeOp; rw [fld_pack _ 0 7 1 rfl]; rw [fld_pack _ 7 1 0 rfl, bits_pack _ 20 6 d rfl, bits_pack _ 14 6 a rfl, bits_pack _ 8 6 b rfl]; rfl)

theorem and (d a b : GReg) : Statement (.and d a b) :=
  word_law [⟨7, 2#7⟩, ⟨1, 0#1⟩, ⟨6, b⟩, ⟨6, a⟩, ⟨6, d⟩, ⟨6, 1#6⟩]
    (by show w3 0x04000002 d.toNat 20 a.toNat 14 b.toNat 8 = _; simp only [w3, pack, BitVec.toNat_ofNat]; omega) 1 rfl rfl rfl rfl decodeOp
    (fields_Op _ (fld_pack _ 26 6 1 rfl)) nofun
    (by unfold decodeOp; rw [fld_pack _ 0 7 2 rfl]; rw [fld_pack _ 7 1 0 rfl, bits_pack _ 20 6 d rfl, bits_pack _ 14 6 a rfl, bits_pack _ 8 6 b rfl]; rfl)

theorem or (d a b : GReg) : Statement (.or d a b) :=
  word_law [⟨7, 3#7⟩, ⟨1, 0#1⟩, ⟨6, b⟩, ⟨6, a⟩, ⟨6, d⟩, ⟨6, 1#6⟩]
    (by show w3 0x04000003 d.toNat 20 a.toNat 14 b.toNat 8 = _; simp only [w3, pack, BitVec.toNat_ofNat]; omega) 1 rfl rfl rfl rfl decodeOp
    (fields_Op _ (fld_pack _ 26 6 1 rfl)) nofun
    (by unfold decodeOp; rw [fld_pack _ 0 7 3 rfl]; rw [fld_pack _ 7 1 0 rfl, bits_pack _ 20 6 d rfl, bits_pack _ 14 6 a rfl, bits_pack _ 8 6 b rfl]; rfl)

theorem xor (d a b : GReg) : Statement (.xor d a b) :=
  word_law [⟨7, 4#7⟩, ⟨1, 0#1⟩, ⟨6, b⟩, ⟨6, a⟩, ⟨6, d⟩, ⟨6, 1#6⟩]
    (by show w3 0x04000004 d.toNat 20 a.toNat 14 b.toNat 8 = _; simp only [w3, pack, BitVec.toNat_ofNat]; omega) 1 rfl rfl rfl rfl decodeOp
    (fields_Op _ (fld_pack _ 26 6 1 rfl)) nofun
    (by unfold decodeOp; rw [fld_pack _ 0 7 4 rfl]; rw [fld_pack _ 7 1 0 rfl, bits_pack _ 20 6 d rfl, bits_pack _ 14 6 a rfl, bits_pack _ 8 6 b rfl]; rfl)

theorem andn (d a b : GReg) : Statement (.andn d a b) :=
  word_law [⟨7, 5#7⟩, ⟨1, 0#1⟩, ⟨6, b⟩, ⟨6, a⟩, ⟨6, d⟩, ⟨6, 1#6⟩]
    (by show w3 0x04000005 d.toNat 20 a.toNat 14 b.toNat 8 = _; simp only [w3, pack, BitVec.toNat_ofNat]; omega) 1 rfl rfl rfl rfl decodeOp
    (fields_Op _ (fld_pack _ 26 6 1 rfl)) nofun
    (by unfold decodeOp; rw [fld_pack _ 0 7 5 rfl]; rw [fld_pack _ 7 1 0 rfl, bits_pack _ 20 6 d rfl, bits_pack _ 14 6 a rfl, bits_pack _ 8 6 b rfl]; rfl)

theorem sll (d a b : GReg) : Statement (.sll d a b) :=
  word_law [⟨7, 6#7⟩, ⟨1, 0#1⟩, ⟨6, b⟩, ⟨6, a⟩, ⟨6, d⟩, ⟨6, 1#6⟩]
    (by show w3 0x04000006 d.toNat 20 a.toNat 14 b.toNat 8 = _; simp only [w3, pack, BitVec.toNat_ofNat]; omega) 1 rfl rfl rfl rfl decodeOp
    (fields_Op _ (fld_pack _ 26 6 1 rfl)) nofun
    (by unfold decodeOp; rw [fld_pack _ 0 7 6 rfl]; rw [fld_pack _ 7 1 0 rfl, bits_pack _ 20 6 d rfl, bits_pack _ 14 6 a rfl, bits_pack _ 8 6 b rfl]; rfl)

theorem srl (d a b : GReg) : Statement (.srl d a b) :=
  word_law [⟨7, 7#7⟩, ⟨1, 0#1⟩, ⟨6, b⟩, ⟨6, a⟩, ⟨6, d⟩, ⟨6, 1#6⟩]
    (by show w3 0x04000007 d.toNat 20 a.toNat 14 b.toNat 8 = _; simp only [w3, pack, BitVec.toNat_ofNat]; omega) 1 rfl rfl rfl rfl decodeOp
    (fields_Op _ (fld_pack _ 26 6 1 rfl)) nofun
    (by unfold decodeOp; rw [fld_pack _ 0 7 7 rfl]; rw [fld_pack _ 7 1 0 rfl, bits_pack _ 20 6 d rfl, bits_pack _ 14 6 a rfl, bits_pack _ 8 6 b rfl]; rfl)

theorem sra (d a b : GReg) : Statement (.sra d a b) :=
  word_law [⟨7, 8#7⟩, ⟨1, 0#1⟩, ⟨6, b⟩, ⟨6, a⟩, ⟨6, d⟩, ⟨6, 1#6⟩]
    (by show w3 0x04000008 d.toNat 20 a.toNat 14 b.toNat 8 = _; simp only [w3, pack, BitVec.toNat_ofNat]; omega) 1 rfl rfl rfl rfl decodeOp
    (fields_Op _ (fld_pack _ 26 6 1 rfl)) nofun
    (by unfold decodeOp; rw [fld_pack _ 0 7 8 rfl]; rw [fld_pack _ 7 1 0 rfl, bits_pack _ 20 6 d rfl, bits_pack _ 14 6 a rfl, bits_pack _ 8 6 b rfl]; rfl)

theorem rotr (d a b : GReg) : Statement (.rotr d a b) :=
  word_law [⟨7, 9#7⟩, ⟨1, 0#1⟩, ⟨6, b⟩, ⟨6, a⟩, ⟨6, d⟩, ⟨6, 1#6⟩]
    (by show w3 0x04000009 d.toNat 20 a.toNat 14 b.toNat 8 = _; simp only [w3, pack, BitVec.toNat_ofNat]; omega) 1 rfl rfl rfl rfl decodeOp
    (fields_Op _ (fld_pack _ 26 6 1 rfl)) nofun
    (by unfold decodeOp; rw [fld_pack _ 0 7 9 rfl]; rw [fld_pack _ 7 1 0 rfl, bits_pack _ 20 6 d rfl, bits_pack _ 14 6 a rfl, bits_pack _ 8 6 b rfl]; rfl)

theorem slt (d a b : GReg) : Statement (.slt d a b) :=
  word_law [⟨7, 10#7⟩, ⟨1, 0#1⟩, ⟨6, b⟩, ⟨6, a⟩, ⟨6, d⟩, ⟨6, 1#6⟩]
    (by show w3 0x0400000A d.toNat 20 a.toNat 14 b.toNat 8 = _; simp only [w3, pack, BitVec.toNat_ofNat]; omega) 1 rfl rfl rfl rfl decodeOp
    (fields_Op _ (fld_pack _ 26 6 1 rfl)) nofun
    (by unfold decodeOp; rw [fld_pack _ 0 7 10 rfl]; rw [fld_pack _ 7 1 0 rfl, bits_pack _ 20 6 d rfl, bits_pack _ 14 6 a rfl, bits_pack _ 8 6 b rfl]; rfl)

theorem sltu (d a b : GReg) : Statement (.sltu d a b) :=
  word_law [⟨7, 11#7⟩, ⟨1, 0#1⟩, ⟨6, b⟩, ⟨6, a⟩, ⟨6, d⟩, ⟨6, 1#6⟩]
    (by show w3 0x0400000B d.toNat 20 a.toNat 14 b.toNat 8 = _; simp only [w3, pack, BitVec.toNat_ofNat]; omega) 1 rfl rfl rfl rfl decodeOp
    (fields_Op _ (fld_pack _ 26 6 1 rfl)) nofun
    (by unfold decodeOp; rw [fld_pack _ 0 7 11 rfl]; rw [fld_pack _ 7 1 0 rfl, bits_pack _ 20 6 d rfl, bits_pack _ 14 6 a rfl, bits_pack _ 8 6 b rfl]; rfl)

theorem min (d a b : GReg) : Statement (.min d a b) :=
  word_law [⟨7, 12#7⟩, ⟨1, 0#1⟩, ⟨6, b⟩, ⟨6, a⟩, ⟨6, d⟩, ⟨6, 1#6⟩]
    (by show w3 0x0400000C d.toNat 20 a.toNat 14 b.toNat 8 = _; simp only [w3, pack, BitVec.toNat_ofNat]; omega) 1 rfl rfl rfl rfl decodeOp
    (fields_Op _ (fld_pack _ 26 6 1 rfl)) nofun
    (by unfold decodeOp; rw [fld_pack _ 0 7 12 rfl]; rw [fld_pack _ 7 1 0 rfl, bits_pack _ 20 6 d rfl, bits_pack _ 14 6 a rfl, bits_pack _ 8 6 b rfl]; rfl)

theorem max (d a b : GReg) : Statement (.max d a b) :=
  word_law [⟨7, 13#7⟩, ⟨1, 0#1⟩, ⟨6, b⟩, ⟨6, a⟩, ⟨6, d⟩, ⟨6, 1#6⟩]
    (by show w3 0x0400000D d.toNat 20 a.toNat 14 b.toNat 8 = _; simp only [w3, pack, BitVec.toNat_ofNat]; omega) 1 rfl rfl rfl rfl decodeOp
    (fields_Op _ (fld_pack _ 26 6 1 rfl)) nofun
    (by unfold decodeOp; rw [fld_pack _ 0 7 13 rfl]; rw [fld_pack _ 7 1 0 rfl, bits_pack _ 20 6 d rfl, bits_pack _ 14 6 a rfl, bits_pack _ 8 6 b rfl]; rfl)

theorem minu (d a b : GReg) : Statement (.minu d a b) :=
  word_law [⟨7, 14#7⟩, ⟨1, 0#1⟩, ⟨6, b⟩, ⟨6, a⟩, ⟨6, d⟩, ⟨6, 1#6⟩]
    (by show w3 0x0400000E d.toNat 20 a.toNat 14 b.toNat 8 = _; simp only [w3, pack, BitVec.toNat_ofNat]; omega) 1 rfl rfl rfl rfl decodeOp
    (fields_Op _ (fld_pack _ 26 6 1 rfl)) nofun
    (by unfold decodeOp; rw [fld_pack _ 0 7 14 rfl]; rw [fld_pack _ 7 1 0 rfl, bits_pack _ 20 6 d rfl, bits_pack _ 14 6 a rfl, bits_pack _ 8 6 b rfl]; rfl)

theorem maxu (d a b : GReg) : Statement (.maxu d a b) :=
  word_law [⟨7, 15#7⟩, ⟨1, 0#1⟩, ⟨6, b⟩, ⟨6, a⟩, ⟨6, d⟩, ⟨6, 1#6⟩]
    (by show w3 0x0400000F d.toNat 20 a.toNat 14 b.toNat 8 = _; simp only [w3, pack, BitVec.toNat_ofNat]; omega) 1 rfl rfl rfl rfl decodeOp
    (fields_Op _ (fld_pack _ 26 6 1 rfl)) nofun
    (by unfold decodeOp; rw [fld_pack _ 0 7 15 rfl]; rw [fld_pack _ 7 1 0 rfl, bits_pack _ 20 6 d rfl, bits_pack _ 14 6 a rfl, bits_pack _ 8 6 b rfl]; rfl)

theorem mul (d a b : GReg) : Statement (.mul d a b) :=
  word_law [⟨7, 16#7⟩, ⟨1, 0#1⟩, ⟨6, b⟩, ⟨6, a⟩, ⟨6, d⟩, ⟨6, 1#6⟩]
    (by show w3 0x04000010 d.toNat 20 a.toNat 14 b.toNat 8 = _; simp only [w3, pack, BitVec.toNat_ofNat]; omega) 1 rfl rfl rfl rfl decodeOp
    (fields_Op _ (fld_pack _ 26 6 1 rfl)) nofun
    (by unfold decodeOp; rw [fld_pack _ 0 7 16 rfl]; rw [fld_pack _ 7 1 0 rfl, bits_pack _ 20 6 d rfl, bits_pack _ 14 6 a rfl, bits_pack _ 8 6 b rfl]; rfl)

theorem mulh (d a b : GReg) : Statement (.mulh d a b) :=
  word_law [⟨7, 17#7⟩, ⟨1, 0#1⟩, ⟨6, b⟩, ⟨6, a⟩, ⟨6, d⟩, ⟨6, 1#6⟩]
    (by show w3 0x04000011 d.toNat 20 a.toNat 14 b.toNat 8 = _; simp only [w3, pack, BitVec.toNat_ofNat]; omega) 1 rfl rfl rfl rfl decodeOp
    (fields_Op _ (fld_pack _ 26 6 1 rfl)) nofun
    (by unfold decodeOp; rw [fld_pack _ 0 7 17 rfl]; rw [fld_pack _ 7 1 0 rfl, bits_pack _ 20 6 d rfl, bits_pack _ 14 6 a rfl, bits_pack _ 8 6 b rfl]; rfl)

theorem mulhu (d a b : GReg) : Statement (.mulhu d a b) :=
  word_law [⟨7, 18#7⟩, ⟨1, 0#1⟩, ⟨6, b⟩, ⟨6, a⟩, ⟨6, d⟩, ⟨6, 1#6⟩]
    (by show w3 0x04000012 d.toNat 20 a.toNat 14 b.toNat 8 = _; simp only [w3, pack, BitVec.toNat_ofNat]; omega) 1 rfl rfl rfl rfl decodeOp
    (fields_Op _ (fld_pack _ 26 6 1 rfl)) nofun
    (by unfold decodeOp; rw [fld_pack _ 0 7 18 rfl]; rw [fld_pack _ 7 1 0 rfl, bits_pack _ 20 6 d rfl, bits_pack _ 14 6 a rfl, bits_pack _ 8 6 b rfl]; rfl)

theorem div (d a b : GReg) : Statement (.div d a b) :=
  word_law [⟨7, 19#7⟩, ⟨1, 0#1⟩, ⟨6, b⟩, ⟨6, a⟩, ⟨6, d⟩, ⟨6, 1#6⟩]
    (by show w3 0x04000013 d.toNat 20 a.toNat 14 b.toNat 8 = _; simp only [w3, pack, BitVec.toNat_ofNat]; omega) 1 rfl rfl rfl rfl decodeOp
    (fields_Op _ (fld_pack _ 26 6 1 rfl)) nofun
    (by unfold decodeOp; rw [fld_pack _ 0 7 19 rfl]; rw [fld_pack _ 7 1 0 rfl, bits_pack _ 20 6 d rfl, bits_pack _ 14 6 a rfl, bits_pack _ 8 6 b rfl]; rfl)

theorem divu (d a b : GReg) : Statement (.divu d a b) :=
  word_law [⟨7, 20#7⟩, ⟨1, 0#1⟩, ⟨6, b⟩, ⟨6, a⟩, ⟨6, d⟩, ⟨6, 1#6⟩]
    (by show w3 0x04000014 d.toNat 20 a.toNat 14 b.toNat 8 = _; simp only [w3, pack, BitVec.toNat_ofNat]; omega) 1 rfl rfl rfl rfl decodeOp
    (fields_Op _ (fld_pack _ 26 6 1 rfl)) nofun
    (by unfold decodeOp; rw [fld_pack _ 0 7 20 rfl]; rw [fld_pack _ 7 1 0 rfl, bits_pack _ 20 6 d rfl, bits_pack _ 14 6 a rfl, bits_pack _ 8 6 b rfl]; rfl)

theorem rem (d a b : GReg) : Statement (.rem d a b) :=
  word_law [⟨7, 21#7⟩, ⟨1, 0#1⟩, ⟨6, b⟩, ⟨6, a⟩, ⟨6, d⟩, ⟨6, 1#6⟩]
    (by show w3 0x04000015 d.toNat 20 a.toNat 14 b.toNat 8 = _; simp only [w3, pack, BitVec.toNat_ofNat]; omega) 1 rfl rfl rfl rfl decodeOp
    (fields_Op _ (fld_pack _ 26 6 1 rfl)) nofun
    (by unfold decodeOp; rw [fld_pack _ 0 7 21 rfl]; rw [fld_pack _ 7 1 0 rfl, bits_pack _ 20 6 d rfl, bits_pack _ 14 6 a rfl, bits_pack _ 8 6 b rfl]; rfl)

theorem remu (d a b : GReg) : Statement (.remu d a b) :=
  word_law [⟨7, 22#7⟩, ⟨1, 0#1⟩, ⟨6, b⟩, ⟨6, a⟩, ⟨6, d⟩, ⟨6, 1#6⟩]
    (by show w3 0x04000016 d.toNat 20 a.toNat 14 b.toNat 8 = _; simp only [w3, pack, BitVec.toNat_ofNat]; omega) 1 rfl rfl rfl rfl decodeOp
    (fields_Op _ (fld_pack _ 26 6 1 rfl)) nofun
    (by unfold decodeOp; rw [fld_pack _ 0 7 22 rfl]; rw [fld_pack _ 7 1 0 rfl, bits_pack _ 20 6 d rfl, bits_pack _ 14 6 a rfl, bits_pack _ 8 6 b rfl]; rfl)

theorem addw (d a b : GReg) : Statement (.addw d a b) :=
  word_law [⟨7, 23#7⟩, ⟨1, 0#1⟩, ⟨6, b⟩, ⟨6, a⟩, ⟨6, d⟩, ⟨6, 1#6⟩]
    (by show w3 0x04000017 d.toNat 20 a.toNat 14 b.toNat 8 = _; simp only [w3, pack, BitVec.toNat_ofNat]; omega) 1 rfl rfl rfl rfl decodeOp
    (fields_Op _ (fld_pack _ 26 6 1 rfl)) nofun
    (by unfold decodeOp; rw [fld_pack _ 0 7 23 rfl]; rw [fld_pack _ 7 1 0 rfl, bits_pack _ 20 6 d rfl, bits_pack _ 14 6 a rfl, bits_pack _ 8 6 b rfl]; rfl)

theorem subw (d a b : GReg) : Statement (.subw d a b) :=
  word_law [⟨7, 24#7⟩, ⟨1, 0#1⟩, ⟨6, b⟩, ⟨6, a⟩, ⟨6, d⟩, ⟨6, 1#6⟩]
    (by show w3 0x04000018 d.toNat 20 a.toNat 14 b.toNat 8 = _; simp only [w3, pack, BitVec.toNat_ofNat]; omega) 1 rfl rfl rfl rfl decodeOp
    (fields_Op _ (fld_pack _ 26 6 1 rfl)) nofun
    (by unfold decodeOp; rw [fld_pack _ 0 7 24 rfl]; rw [fld_pack _ 7 1 0 rfl, bits_pack _ 20 6 d rfl, bits_pack _ 14 6 a rfl, bits_pack _ 8 6 b rfl]; rfl)

theorem mulw (d a b : GReg) : Statement (.mulw d a b) :=
  word_law [⟨7, 25#7⟩, ⟨1, 0#1⟩, ⟨6, b⟩, ⟨6, a⟩, ⟨6, d⟩, ⟨6, 1#6⟩]
    (by show w3 0x04000019 d.toNat 20 a.toNat 14 b.toNat 8 = _; simp only [w3, pack, BitVec.toNat_ofNat]; omega) 1 rfl rfl rfl rfl decodeOp
    (fields_Op _ (fld_pack _ 26 6 1 rfl)) nofun
    (by unfold decodeOp; rw [fld_pack _ 0 7 25 rfl]; rw [fld_pack _ 7 1 0 rfl, bits_pack _ 20 6 d rfl, bits_pack _ 14 6 a rfl, bits_pack _ 8 6 b rfl]; rfl)

theorem clz (d a : GReg) : Statement (.clz d a) :=
  word_law [⟨7, 26#7⟩, ⟨7, 0#7⟩, ⟨6, a⟩, ⟨6, d⟩, ⟨6, 1#6⟩]
    (by show w2 0x0400001A d.toNat 20 a.toNat 14 = _; simp only [w2, pack, BitVec.toNat_ofNat]; omega) 1 rfl rfl rfl rfl decodeOp
    (fields_Op _ (fld_pack _ 26 6 1 rfl)) nofun
    (by unfold decodeOp; rw [fld_pack _ 0 7 26 rfl]; rw [fld_pack _ 7 7 0 rfl, bits_pack _ 20 6 d rfl, bits_pack _ 14 6 a rfl]; rfl)

theorem ctz (d a : GReg) : Statement (.ctz d a) :=
  word_law [⟨7, 27#7⟩, ⟨7, 0#7⟩, ⟨6, a⟩, ⟨6, d⟩, ⟨6, 1#6⟩]
    (by show w2 0x0400001B d.toNat 20 a.toNat 14 = _; simp only [w2, pack, BitVec.toNat_ofNat]; omega) 1 rfl rfl rfl rfl decodeOp
    (fields_Op _ (fld_pack _ 26 6 1 rfl)) nofun
    (by unfold decodeOp; rw [fld_pack _ 0 7 27 rfl]; rw [fld_pack _ 7 7 0 rfl, bits_pack _ 20 6 d rfl, bits_pack _ 14 6 a rfl]; rfl)

theorem popc (d a : GReg) : Statement (.popc d a) :=
  word_law [⟨7, 28#7⟩, ⟨7, 0#7⟩, ⟨6, a⟩, ⟨6, d⟩, ⟨6, 1#6⟩]
    (by show w2 0x0400001C d.toNat 20 a.toNat 14 = _; simp only [w2, pack, BitVec.toNat_ofNat]; omega) 1 rfl rfl rfl rfl decodeOp
    (fields_Op _ (fld_pack _ 26 6 1 rfl)) nofun
    (by unfold decodeOp; rw [fld_pack _ 0 7 28 rfl]; rw [fld_pack _ 7 7 0 rfl, bits_pack _ 20 6 d rfl, bits_pack _ 14 6 a rfl]; rfl)

theorem bswap (d a : GReg) : Statement (.bswap d a) :=
  word_law [⟨7, 29#7⟩, ⟨7, 0#7⟩, ⟨6, a⟩, ⟨6, d⟩, ⟨6, 1#6⟩]
    (by show w2 0x0400001D d.toNat 20 a.toNat 14 = _; simp only [w2, pack, BitVec.toNat_ofNat]; omega) 1 rfl rfl rfl rfl decodeOp
    (fields_Op _ (fld_pack _ 26 6 1 rfl)) nofun
    (by unfold decodeOp; rw [fld_pack _ 0 7 29 rfl]; rw [fld_pack _ 7 7 0 rfl, bits_pack _ 20 6 d rfl, bits_pack _ 14 6 a rfl]; rfl)

theorem sxb (d a : GReg) : Statement (.sxb d a) :=
  word_law [⟨7, 30#7⟩, ⟨7, 0#7⟩, ⟨6, a⟩, ⟨6, d⟩, ⟨6, 1#6⟩]
    (by show w2 0x0400001E d.toNat 20 a.toNat 14 = _; simp only [w2, pack, BitVec.toNat_ofNat]; omega) 1 rfl rfl rfl rfl decodeOp
    (fields_Op _ (fld_pack _ 26 6 1 rfl)) nofun
    (by unfold decodeOp; rw [fld_pack _ 0 7 30 rfl]; rw [fld_pack _ 7 7 0 rfl, bits_pack _ 20 6 d rfl, bits_pack _ 14 6 a rfl]; rfl)

theorem sxh (d a : GReg) : Statement (.sxh d a) :=
  word_law [⟨7, 31#7⟩, ⟨7, 0#7⟩, ⟨6, a⟩, ⟨6, d⟩, ⟨6, 1#6⟩]
    (by show w2 0x0400001F d.toNat 20 a.toNat 14 = _; simp only [w2, pack, BitVec.toNat_ofNat]; omega) 1 rfl rfl rfl rfl decodeOp
    (fields_Op _ (fld_pack _ 26 6 1 rfl)) nofun
    (by unfold decodeOp; rw [fld_pack _ 0 7 31 rfl]; rw [fld_pack _ 7 7 0 rfl, bits_pack _ 20 6 d rfl, bits_pack _ 14 6 a rfl]; rfl)

theorem sxw (d a : GReg) : Statement (.sxw d a) :=
  word_law [⟨7, 32#7⟩, ⟨7, 0#7⟩, ⟨6, a⟩, ⟨6, d⟩, ⟨6, 1#6⟩]
    (by show w2 0x04000020 d.toNat 20 a.toNat 14 = _; simp only [w2, pack, BitVec.toNat_ofNat]; omega) 1 rfl rfl rfl rfl decodeOp
    (fields_Op _ (fld_pack _ 26 6 1 rfl)) nofun
    (by unfold decodeOp; rw [fld_pack _ 0 7 32 rfl]; rw [fld_pack _ 7 7 0 rfl, bits_pack _ 20 6 d rfl, bits_pack _ 14 6 a rfl]; rfl)

theorem zxw (d a : GReg) : Statement (.zxw d a) :=
  word_law [⟨7, 33#7⟩, ⟨7, 0#7⟩, ⟨6, a⟩, ⟨6, d⟩, ⟨6, 1#6⟩]
    (by show w2 0x04000021 d.toNat 20 a.toNat 14 = _; simp only [w2, pack, BitVec.toNat_ofNat]; omega) 1 rfl rfl rfl rfl decodeOp
    (fields_Op _ (fld_pack _ 26 6 1 rfl)) nofun
    (by unfold decodeOp; rw [fld_pack _ 0 7 33 rfl]; rw [fld_pack _ 7 7 0 rfl, bits_pack _ 20 6 d rfl, bits_pack _ 14 6 a rfl]; rfl)

theorem addi (d a : GReg) (i : BitVec 11) : Statement (.addi d a i) :=
  word_law [⟨11, i⟩, ⟨3, 0#3⟩, ⟨6, a⟩, ⟨6, d⟩, ⟨6, 2#6⟩]
    (by show w3 0x08000000 d.toNat 20 a.toNat 14 i.toNat 0 = _; simp only [w3, pack, BitVec.toNat_ofNat]; omega) 2 rfl rfl rfl rfl decodeOpi
    (fields_Opi _ (fld_pack _ 26 6 2 rfl)) nofun
    (by unfold decodeOpi; rw [fld_pack _ 11 3 0 rfl]; rw [bits_pack _ 20 6 d rfl, bits_pack _ 14 6 a rfl, bits_pack _ 0 11 i rfl]; rfl)

theorem andi (d a : GReg) (i : BitVec 11) : Statement (.andi d a i) :=
  word_law [⟨11, i⟩, ⟨3, 1#3⟩, ⟨6, a⟩, ⟨6, d⟩, ⟨6, 2#6⟩]
    (by show w3 0x08000800 d.toNat 20 a.toNat 14 i.toNat 0 = _; simp only [w3, pack, BitVec.toNat_ofNat]; omega) 2 rfl rfl rfl rfl decodeOpi
    (fields_Opi _ (fld_pack _ 26 6 2 rfl)) nofun
    (by unfold decodeOpi; rw [fld_pack _ 11 3 1 rfl]; rw [bits_pack _ 20 6 d rfl, bits_pack _ 14 6 a rfl, bits_pack _ 0 11 i rfl]; rfl)

theorem ori (d a : GReg) (i : BitVec 11) : Statement (.ori d a i) :=
  word_law [⟨11, i⟩, ⟨3, 2#3⟩, ⟨6, a⟩, ⟨6, d⟩, ⟨6, 2#6⟩]
    (by show w3 0x08001000 d.toNat 20 a.toNat 14 i.toNat 0 = _; simp only [w3, pack, BitVec.toNat_ofNat]; omega) 2 rfl rfl rfl rfl decodeOpi
    (fields_Opi _ (fld_pack _ 26 6 2 rfl)) nofun
    (by unfold decodeOpi; rw [fld_pack _ 11 3 2 rfl]; rw [bits_pack _ 20 6 d rfl, bits_pack _ 14 6 a rfl, bits_pack _ 0 11 i rfl]; rfl)

theorem xori (d a : GReg) (i : BitVec 11) : Statement (.xori d a i) :=
  word_law [⟨11, i⟩, ⟨3, 3#3⟩, ⟨6, a⟩, ⟨6, d⟩, ⟨6, 2#6⟩]
    (by show w3 0x08001800 d.toNat 20 a.toNat 14 i.toNat 0 = _; simp only [w3, pack, BitVec.toNat_ofNat]; omega) 2 rfl rfl rfl rfl decodeOpi
    (fields_Opi _ (fld_pack _ 26 6 2 rfl)) nofun
    (by unfold decodeOpi; rw [fld_pack _ 11 3 3 rfl]; rw [bits_pack _ 20 6 d rfl, bits_pack _ 14 6 a rfl, bits_pack _ 0 11 i rfl]; rfl)

theorem slli (d a i : BitVec 6) : Statement (.slli d a i) :=
  word_law [⟨6, i⟩, ⟨5, 0#5⟩, ⟨3, 4#3⟩, ⟨6, a⟩, ⟨6, d⟩, ⟨6, 2#6⟩]
    (by show w3 0x08002000 d.toNat 20 a.toNat 14 i.toNat 0 = _; simp only [w3, pack, BitVec.toNat_ofNat]; omega) 2 rfl rfl rfl rfl decodeOpi
    (fields_Opi _ (fld_pack _ 26 6 2 rfl)) nofun
    (by unfold decodeOpi; rw [fld_pack _ 11 3 4 rfl]; rw [fld_pack _ 6 5 0 rfl, bits_pack _ 20 6 d rfl, bits_pack _ 14 6 a rfl, bits_pack _ 0 6 i rfl]; rfl)

theorem srli (d a i : BitVec 6) : Statement (.srli d a i) :=
  word_law [⟨6, i⟩, ⟨5, 0#5⟩, ⟨3, 5#3⟩, ⟨6, a⟩, ⟨6, d⟩, ⟨6, 2#6⟩]
    (by show w3 0x08002800 d.toNat 20 a.toNat 14 i.toNat 0 = _; simp only [w3, pack, BitVec.toNat_ofNat]; omega) 2 rfl rfl rfl rfl decodeOpi
    (fields_Opi _ (fld_pack _ 26 6 2 rfl)) nofun
    (by unfold decodeOpi; rw [fld_pack _ 11 3 5 rfl]; rw [fld_pack _ 6 5 0 rfl, bits_pack _ 20 6 d rfl, bits_pack _ 14 6 a rfl, bits_pack _ 0 6 i rfl]; rfl)

theorem srai (d a i : BitVec 6) : Statement (.srai d a i) :=
  word_law [⟨6, i⟩, ⟨5, 0#5⟩, ⟨3, 6#3⟩, ⟨6, a⟩, ⟨6, d⟩, ⟨6, 2#6⟩]
    (by show w3 0x08003000 d.toNat 20 a.toNat 14 i.toNat 0 = _; simp only [w3, pack, BitVec.toNat_ofNat]; omega) 2 rfl rfl rfl rfl decodeOpi
    (fields_Opi _ (fld_pack _ 26 6 2 rfl)) nofun
    (by unfold decodeOpi; rw [fld_pack _ 11 3 6 rfl]; rw [fld_pack _ 6 5 0 rfl, bits_pack _ 20 6 d rfl, bits_pack _ 14 6 a rfl, bits_pack _ 0 6 i rfl]; rfl)

theorem slti (d a : GReg) (i : BitVec 11) : Statement (.slti d a i) :=
  word_law [⟨11, i⟩, ⟨3, 7#3⟩, ⟨6, a⟩, ⟨6, d⟩, ⟨6, 2#6⟩]
    (by show w3 0x08003800 d.toNat 20 a.toNat 14 i.toNat 0 = _; simp only [w3, pack, BitVec.toNat_ofNat]; omega) 2 rfl rfl rfl rfl decodeOpi
    (fields_Opi _ (fld_pack _ 26 6 2 rfl)) nofun
    (by unfold decodeOpi; rw [fld_pack _ 11 3 7 rfl]; rw [bits_pack _ 20 6 d rfl, bits_pack _ 14 6 a rfl, bits_pack _ 0 11 i rfl]; rfl)

theorem lhi (d : GReg) (i : BitVec 20) : Statement (.lhi d i) :=
  word_law [⟨20, i⟩, ⟨6, d⟩, ⟨6, 3#6⟩]
    (by show w2 0x0C000000 d.toNat 20 i.toNat 0 = _; simp only [w2, pack, BitVec.toNat_ofNat]; omega) 3 rfl rfl rfl rfl decodeLhi
    (fields_Lhi _ (fld_pack _ 26 6 3 rfl)) nofun
    (by unfold decodeLhi; rw [bits_pack _ 20 6 d rfl, bits_pack _ 0 20 i rfl])

theorem beq (a b : GReg) (o : BitVec 10) : Statement (.beq a b o) :=
  word_law [⟨10, o⟩, ⟨6, b⟩, ⟨6, a⟩, ⟨4, 0#4⟩, ⟨6, 4#6⟩]
    (by show w3 0x10000000 a.toNat 16 b.toNat 10 o.toNat 0 = _; simp only [w3, pack, BitVec.toNat_ofNat]; omega) 4 rfl rfl rfl rfl decodeBrc
    (fields_Brc _ (fld_pack _ 26 6 4 rfl)) nofun
    (by unfold decodeBrc; rw [fld_pack _ 22 4 0 rfl]; rw [bits_pack _ 16 6 a rfl, bits_pack _ 10 6 b rfl, bits_pack _ 0 10 o rfl]; rfl)

theorem bne (a b : GReg) (o : BitVec 10) : Statement (.bne a b o) :=
  word_law [⟨10, o⟩, ⟨6, b⟩, ⟨6, a⟩, ⟨4, 1#4⟩, ⟨6, 4#6⟩]
    (by show w3 0x10400000 a.toNat 16 b.toNat 10 o.toNat 0 = _; simp only [w3, pack, BitVec.toNat_ofNat]; omega) 4 rfl rfl rfl rfl decodeBrc
    (fields_Brc _ (fld_pack _ 26 6 4 rfl)) nofun
    (by unfold decodeBrc; rw [fld_pack _ 22 4 1 rfl]; rw [bits_pack _ 16 6 a rfl, bits_pack _ 10 6 b rfl, bits_pack _ 0 10 o rfl]; rfl)

theorem blt (a b : GReg) (o : BitVec 10) : Statement (.blt a b o) :=
  word_law [⟨10, o⟩, ⟨6, b⟩, ⟨6, a⟩, ⟨4, 2#4⟩, ⟨6, 4#6⟩]
    (by show w3 0x10800000 a.toNat 16 b.toNat 10 o.toNat 0 = _; simp only [w3, pack, BitVec.toNat_ofNat]; omega) 4 rfl rfl rfl rfl decodeBrc
    (fields_Brc _ (fld_pack _ 26 6 4 rfl)) nofun
    (by unfold decodeBrc; rw [fld_pack _ 22 4 2 rfl]; rw [bits_pack _ 16 6 a rfl, bits_pack _ 10 6 b rfl, bits_pack _ 0 10 o rfl]; rfl)

theorem bge (a b : GReg) (o : BitVec 10) : Statement (.bge a b o) :=
  word_law [⟨10, o⟩, ⟨6, b⟩, ⟨6, a⟩, ⟨4, 3#4⟩, ⟨6, 4#6⟩]
    (by show w3 0x10C00000 a.toNat 16 b.toNat 10 o.toNat 0 = _; simp only [w3, pack, BitVec.toNat_ofNat]; omega) 4 rfl rfl rfl rfl decodeBrc
    (fields_Brc _ (fld_pack _ 26 6 4 rfl)) nofun
    (by unfold decodeBrc; rw [fld_pack _ 22 4 3 rfl]; rw [bits_pack _ 16 6 a rfl, bits_pack _ 10 6 b rfl, bits_pack _ 0 10 o rfl]; rfl)

theorem bltu (a b : GReg) (o : BitVec 10) : Statement (.bltu a b o) :=
  word_law [⟨10, o⟩, ⟨6, b⟩, ⟨6, a⟩, ⟨4, 4#4⟩, ⟨6, 4#6⟩]
    (by show w3 0x11000000 a.toNat 16 b.toNat 10 o.toNat 0 = _; simp only [w3, pack, BitVec.toNat_ofNat]; omega) 4 rfl rfl rfl rfl decodeBrc
    (fields_Brc _ (fld_pack _ 26 6 4 rfl)) nofun
    (by unfold decodeBrc; rw [fld_pack _ 22 4 4 rfl]; rw [bits_pack _ 16 6 a rfl, bits_pack _ 10 6 b rfl, bits_pack _ 0 10 o rfl]; rfl)

theorem bgeu (a b : GReg) (o : BitVec 10) : Statement (.bgeu a b o) :=
  word_law [⟨10, o⟩, ⟨6, b⟩, ⟨6, a⟩, ⟨4, 5#4⟩, ⟨6, 4#6⟩]
    (by show w3 0x11400000 a.toNat 16 b.toNat 10 o.toNat 0 = _; simp only [w3, pack, BitVec.toNat_ofNat]; omega) 4 rfl rfl rfl rfl decodeBrc
    (fields_Brc _ (fld_pack _ 26 6 4 rfl)) nofun
    (by unfold decodeBrc; rw [fld_pack _ 22 4 5 rfl]; rw [bits_pack _ 16 6 a rfl, bits_pack _ 10 6 b rfl, bits_pack _ 0 10 o rfl]; rfl)

theorem beqz (a : GReg) (o : BitVec 17) : Statement (.beqz a o) :=
  word_law [⟨17, o⟩, ⟨6, a⟩, ⟨3, 0#3⟩, ⟨6, 5#6⟩]
    (by show w2 0x14000000 a.toNat 17 o.toNat 0 = _; simp only [w2, pack, BitVec.toNat_ofNat]; omega) 5 rfl rfl rfl rfl decodeBrz
    (fields_Brz _ (fld_pack _ 26 6 5 rfl)) nofun
    (by unfold decodeBrz; rw [fld_pack _ 23 3 0 rfl]; rw [bits_pack _ 17 6 a rfl, bits_pack _ 0 17 o rfl]; rfl)

theorem bnez (a : GReg) (o : BitVec 17) : Statement (.bnez a o) :=
  word_law [⟨17, o⟩, ⟨6, a⟩, ⟨3, 1#3⟩, ⟨6, 5#6⟩]
    (by show w2 0x14800000 a.toNat 17 o.toNat 0 = _; simp only [w2, pack, BitVec.toNat_ofNat]; omega) 5 rfl rfl rfl rfl decodeBrz
    (fields_Brz _ (fld_pack _ 26 6 5 rfl)) nofun
    (by unfold decodeBrz; rw [fld_pack _ 23 3 1 rfl]; rw [bits_pack _ 17 6 a rfl, bits_pack _ 0 17 o rfl]; rfl)

theorem bltz (a : GReg) (o : BitVec 17) : Statement (.bltz a o) :=
  word_law [⟨17, o⟩, ⟨6, a⟩, ⟨3, 2#3⟩, ⟨6, 5#6⟩]
    (by show w2 0x15000000 a.toNat 17 o.toNat 0 = _; simp only [w2, pack, BitVec.toNat_ofNat]; omega) 5 rfl rfl rfl rfl decodeBrz
    (fields_Brz _ (fld_pack _ 26 6 5 rfl)) nofun
    (by unfold decodeBrz; rw [fld_pack _ 23 3 2 rfl]; rw [bits_pack _ 17 6 a rfl, bits_pack _ 0 17 o rfl]; rfl)

theorem bgez (a : GReg) (o : BitVec 17) : Statement (.bgez a o) :=
  word_law [⟨17, o⟩, ⟨6, a⟩, ⟨3, 3#3⟩, ⟨6, 5#6⟩]
    (by show w2 0x15800000 a.toNat 17 o.toNat 0 = _; simp only [w2, pack, BitVec.toNat_ofNat]; omega) 5 rfl rfl rfl rfl decodeBrz
    (fields_Brz _ (fld_pack _ 26 6 5 rfl)) nofun
    (by unfold decodeBrz; rw [fld_pack _ 23 3 3 rfl]; rw [bits_pack _ 17 6 a rfl, bits_pack _ 0 17 o rfl]; rfl)

theorem bgtz (a : GReg) (o : BitVec 17) : Statement (.bgtz a o) :=
  word_law [⟨17, o⟩, ⟨6, a⟩, ⟨3, 4#3⟩, ⟨6, 5#6⟩]
    (by show w2 0x16000000 a.toNat 17 o.toNat 0 = _; simp only [w2, pack, BitVec.toNat_ofNat]; omega) 5 rfl rfl rfl rfl decodeBrz
    (fields_Brz _ (fld_pack _ 26 6 5 rfl)) nofun
    (by unfold decodeBrz; rw [fld_pack _ 23 3 4 rfl]; rw [bits_pack _ 17 6 a rfl, bits_pack _ 0 17 o rfl]; rfl)

theorem blez (a : GReg) (o : BitVec 17) : Statement (.blez a o) :=
  word_law [⟨17, o⟩, ⟨6, a⟩, ⟨3, 5#3⟩, ⟨6, 5#6⟩]
    (by show w2 0x16800000 a.toNat 17 o.toNat 0 = _; simp only [w2, pack, BitVec.toNat_ofNat]; omega) 5 rfl rfl rfl rfl decodeBrz
    (fields_Brz _ (fld_pack _ 26 6 5 rfl)) nofun
    (by unfold decodeBrz; rw [fld_pack _ 23 3 5 rfl]; rw [bits_pack _ 17 6 a rfl, bits_pack _ 0 17 o rfl]; rfl)

theorem jal (d : GReg) (o : BitVec 20) : Statement (.jal d o) :=
  word_law [⟨20, o⟩, ⟨6, d⟩, ⟨6, 6#6⟩]
    (by show w2 0x18000000 d.toNat 20 o.toNat 0 = _; simp only [w2, pack, BitVec.toNat_ofNat]; omega) 6 rfl rfl rfl rfl decodeJal
    (fields_Jal _ (fld_pack _ 26 6 6 rfl)) nofun
    (by unfold decodeJal; rw [bits_pack _ 20 6 d rfl, bits_pack _ 0 20 o rfl])

theorem jalr (d a : GReg) (i : BitVec 11) : Statement (.jalr d a i) :=
  word_law [⟨11, i⟩, ⟨3, 0#3⟩, ⟨6, a⟩, ⟨6, d⟩, ⟨6, 7#6⟩]
    (by show w3 0x1C000000 d.toNat 20 a.toNat 14 i.toNat 0 = _; simp only [w3, pack, BitVec.toNat_ofNat]; omega) 7 rfl rfl rfl rfl decodeJalr
    (fields_Jalr _ (fld_pack _ 26 6 7 rfl)) nofun
    (by unfold decodeJalr; rw [fld_pack _ 11 3 0 rfl]; rw [bits_pack _ 20 6 d rfl, bits_pack _ 14 6 a rfl, bits_pack _ 0 11 i rfl]; rfl)

theorem ldB (g b : GReg) (i : BitVec 11) : Statement (.ldB g b i) :=
  word_law [⟨11, i⟩, ⟨3, 0#3⟩, ⟨6, b⟩, ⟨6, g⟩, ⟨6, 8#6⟩]
    (by show w3 0x20000000 g.toNat 20 b.toNat 14 i.toNat 0 = _; simp only [w3, pack, BitVec.toNat_ofNat]; omega) 8 rfl rfl rfl rfl decodeLd
    (fields_Ld _ (fld_pack _ 26 6 8 rfl)) nofun
    (by unfold decodeLd; rw [fld_pack _ 11 3 0 rfl]; rw [bits_pack _ 20 6 g rfl, bits_pack _ 14 6 b rfl, bits_pack _ 0 11 i rfl]; rfl)

theorem ldH (g b : GReg) (i : BitVec 11) : Statement (.ldH g b i) :=
  word_law [⟨11, i⟩, ⟨3, 1#3⟩, ⟨6, b⟩, ⟨6, g⟩, ⟨6, 8#6⟩]
    (by show w3 0x20000800 g.toNat 20 b.toNat 14 i.toNat 0 = _; simp only [w3, pack, BitVec.toNat_ofNat]; omega) 8 rfl rfl rfl rfl decodeLd
    (fields_Ld _ (fld_pack _ 26 6 8 rfl)) nofun
    (by unfold decodeLd; rw [fld_pack _ 11 3 1 rfl]; rw [bits_pack _ 20 6 g rfl, bits_pack _ 14 6 b rfl, bits_pack _ 0 11 i rfl]; rfl)

theorem ldW (g b : GReg) (i : BitVec 11) : Statement (.ldW g b i) :=
  word_law [⟨11, i⟩, ⟨3, 2#3⟩, ⟨6, b⟩, ⟨6, g⟩, ⟨6, 8#6⟩]
    (by show w3 0x20001000 g.toNat 20 b.toNat 14 i.toNat 0 = _; simp only [w3, pack, BitVec.toNat_ofNat]; omega) 8 rfl rfl rfl rfl decodeLd
    (fields_Ld _ (fld_pack _ 26 6 8 rfl)) nofun
    (by unfold decodeLd; rw [fld_pack _ 11 3 2 rfl]; rw [bits_pack _ 20 6 g rfl, bits_pack _ 14 6 b rfl, bits_pack _ 0 11 i rfl]; rfl)

theorem ldD (g b : GReg) (i : BitVec 11) : Statement (.ldD g b i) :=
  word_law [⟨11, i⟩, ⟨3, 3#3⟩, ⟨6, b⟩, ⟨6, g⟩, ⟨6, 8#6⟩]
    (by show w3 0x20001800 g.toNat 20 b.toNat 14 i.toNat 0 = _; simp only [w3, pack, BitVec.toNat_ofNat]; omega) 8 rfl rfl rfl rfl decodeLd
    (fields_Ld _ (fld_pack _ 26 6 8 rfl)) nofun
    (by unfold decodeLd; rw [fld_pack _ 11 3 3 rfl]; rw [bits_pack _ 20 6 g rfl, bits_pack _ 14 6 b rfl, bits_pack _ 0 11 i rfl]; rfl)

theorem ldBu (g b : GReg) (i : BitVec 11) : Statement (.ldBu g b i) :=
  word_law [⟨11, i⟩, ⟨3, 4#3⟩, ⟨6, b⟩, ⟨6, g⟩, ⟨6, 8#6⟩]
    (by show w3 0x20002000 g.toNat 20 b.toNat 14 i.toNat 0 = _; simp only [w3, pack, BitVec.toNat_ofNat]; omega) 8 rfl rfl rfl rfl decodeLd
    (fields_Ld _ (fld_pack _ 26 6 8 rfl)) nofun
    (by unfold decodeLd; rw [fld_pack _ 11 3 4 rfl]; rw [bits_pack _ 20 6 g rfl, bits_pack _ 14 6 b rfl, bits_pack _ 0 11 i rfl]; rfl)

theorem ldHu (g b : GReg) (i : BitVec 11) : Statement (.ldHu g b i) :=
  word_law [⟨11, i⟩, ⟨3, 5#3⟩, ⟨6, b⟩, ⟨6, g⟩, ⟨6, 8#6⟩]
    (by show w3 0x20002800 g.toNat 20 b.toNat 14 i.toNat 0 = _; simp only [w3, pack, BitVec.toNat_ofNat]; omega) 8 rfl rfl rfl rfl decodeLd
    (fields_Ld _ (fld_pack _ 26 6 8 rfl)) nofun
    (by unfold decodeLd; rw [fld_pack _ 11 3 5 rfl]; rw [bits_pack _ 20 6 g rfl, bits_pack _ 14 6 b rfl, bits_pack _ 0 11 i rfl]; rfl)

theorem ldWu (g b : GReg) (i : BitVec 11) : Statement (.ldWu g b i) :=
  word_law [⟨11, i⟩, ⟨3, 6#3⟩, ⟨6, b⟩, ⟨6, g⟩, ⟨6, 8#6⟩]
    (by show w3 0x20003000 g.toNat 20 b.toNat 14 i.toNat 0 = _; simp only [w3, pack, BitVec.toNat_ofNat]; omega) 8 rfl rfl rfl rfl decodeLd
    (fields_Ld _ (fld_pack _ 26 6 8 rfl)) nofun
    (by unfold decodeLd; rw [fld_pack _ 11 3 6 rfl]; rw [bits_pack _ 20 6 g rfl, bits_pack _ 14 6 b rfl, bits_pack _ 0 11 i rfl]; rfl)

theorem stB (g b : GReg) (i : BitVec 11) : Statement (.stB g b i) :=
  word_law [⟨11, i⟩, ⟨3, 0#3⟩, ⟨6, b⟩, ⟨6, g⟩, ⟨6, 9#6⟩]
    (by show w3 0x24000000 g.toNat 20 b.toNat 14 i.toNat 0 = _; simp only [w3, pack, BitVec.toNat_ofNat]; omega) 9 rfl rfl rfl rfl decodeSt
    (fields_St _ (fld_pack _ 26 6 9 rfl)) nofun
    (by unfold decodeSt; rw [fld_pack _ 11 3 0 rfl]; rw [bits_pack _ 20 6 g rfl, bits_pack _ 14 6 b rfl, bits_pack _ 0 11 i rfl]; rfl)

theorem stH (g b : GReg) (i : BitVec 11) : Statement (.stH g b i) :=
  word_law [⟨11, i⟩, ⟨3, 1#3⟩, ⟨6, b⟩, ⟨6, g⟩, ⟨6, 9#6⟩]
    (by show w3 0x24000800 g.toNat 20 b.toNat 14 i.toNat 0 = _; simp only [w3, pack, BitVec.toNat_ofNat]; omega) 9 rfl rfl rfl rfl decodeSt
    (fields_St _ (fld_pack _ 26 6 9 rfl)) nofun
    (by unfold decodeSt; rw [fld_pack _ 11 3 1 rfl]; rw [bits_pack _ 20 6 g rfl, bits_pack _ 14 6 b rfl, bits_pack _ 0 11 i rfl]; rfl)

theorem stW (g b : GReg) (i : BitVec 11) : Statement (.stW g b i) :=
  word_law [⟨11, i⟩, ⟨3, 2#3⟩, ⟨6, b⟩, ⟨6, g⟩, ⟨6, 9#6⟩]
    (by show w3 0x24001000 g.toNat 20 b.toNat 14 i.toNat 0 = _; simp only [w3, pack, BitVec.toNat_ofNat]; omega) 9 rfl rfl rfl rfl decodeSt
    (fields_St _ (fld_pack _ 26 6 9 rfl)) nofun
    (by unfold decodeSt; rw [fld_pack _ 11 3 2 rfl]; rw [bits_pack _ 20 6 g rfl, bits_pack _ 14 6 b rfl, bits_pack _ 0 11 i rfl]; rfl)

theorem stD (g b : GReg) (i : BitVec 11) : Statement (.stD g b i) :=
  word_law [⟨11, i⟩, ⟨3, 3#3⟩, ⟨6, b⟩, ⟨6, g⟩, ⟨6, 9#6⟩]
    (by show w3 0x24001800 g.toNat 20 b.toNat 14 i.toNat 0 = _; simp only [w3, pack, BitVec.toNat_ofNat]; omega) 9 rfl rfl rfl rfl decodeSt
    (fields_St _ (fld_pack _ 26 6 9 rfl)) nofun
    (by unfold decodeSt; rw [fld_pack _ 11 3 3 rfl]; rw [bits_pack _ 20 6 g rfl, bits_pack _ 14 6 b rfl, bits_pack _ 0 11 i rfl]; rfl)

theorem ldAcqW (g b : GReg) (s : Scope) : Statement (.ldAcqW g b s) :=
  word_law [⟨10, 0#10⟩, ⟨2, 0#2⟩, ⟨2, s.code⟩, ⟨6, b⟩, ⟨6, g⟩, ⟨6, 10#6⟩]
    (by show w3 0x28000000 g.toNat 20 b.toNat 14 s.code.toNat 12 = _; simp only [w3, pack, BitVec.toNat_ofNat]; omega) 10 rfl rfl rfl rfl decodeLdstO
    (fields_LdstO _ (fld_pack _ 26 6 10 rfl)) nofun
    (by unfold decodeLdstO; rw [fld_pack _ 10 2 0 rfl]; rw [fld_pack _ 0 10 0 rfl, bits_pack _ 20 6 g rfl, bits_pack _ 14 6 b rfl, bits_pack _ 12 2 s.code rfl, Scope.ofCode_code]; rfl)

theorem ldAcqD (g b : GReg) (s : Scope) : Statement (.ldAcqD g b s) :=
  word_law [⟨10, 0#10⟩, ⟨2, 1#2⟩, ⟨2, s.code⟩, ⟨6, b⟩, ⟨6, g⟩, ⟨6, 10#6⟩]
    (by show w3 0x28000400 g.toNat 20 b.toNat 14 s.code.toNat 12 = _; simp only [w3, pack, BitVec.toNat_ofNat]; omega) 10 rfl rfl rfl rfl decodeLdstO
    (fields_LdstO _ (fld_pack _ 26 6 10 rfl)) nofun
    (by unfold decodeLdstO; rw [fld_pack _ 10 2 1 rfl]; rw [fld_pack _ 0 10 0 rfl, bits_pack _ 20 6 g rfl, bits_pack _ 14 6 b rfl, bits_pack _ 12 2 s.code rfl, Scope.ofCode_code]; rfl)

theorem stRelW (g b : GReg) (s : Scope) : Statement (.stRelW g b s) :=
  word_law [⟨10, 0#10⟩, ⟨2, 2#2⟩, ⟨2, s.code⟩, ⟨6, b⟩, ⟨6, g⟩, ⟨6, 10#6⟩]
    (by show w3 0x28000800 g.toNat 20 b.toNat 14 s.code.toNat 12 = _; simp only [w3, pack, BitVec.toNat_ofNat]; omega) 10 rfl rfl rfl rfl decodeLdstO
    (fields_LdstO _ (fld_pack _ 26 6 10 rfl)) nofun
    (by unfold decodeLdstO; rw [fld_pack _ 10 2 2 rfl]; rw [fld_pack _ 0 10 0 rfl, bits_pack _ 20 6 g rfl, bits_pack _ 14 6 b rfl, bits_pack _ 12 2 s.code rfl, Scope.ofCode_code]; rfl)

theorem stRelD (g b : GReg) (s : Scope) : Statement (.stRelD g b s) :=
  word_law [⟨10, 0#10⟩, ⟨2, 3#2⟩, ⟨2, s.code⟩, ⟨6, b⟩, ⟨6, g⟩, ⟨6, 10#6⟩]
    (by show w3 0x28000C00 g.toNat 20 b.toNat 14 s.code.toNat 12 = _; simp only [w3, pack, BitVec.toNat_ofNat]; omega) 10 rfl rfl rfl rfl decodeLdstO
    (fields_LdstO _ (fld_pack _ 26 6 10 rfl)) nofun
    (by unfold decodeLdstO; rw [fld_pack _ 10 2 3 rfl]; rw [fld_pack _ 0 10 0 rfl, bits_pack _ 20 6 g rfl, bits_pack _ 14 6 b rfl, bits_pack _ 12 2 s.code rfl, Scope.ofCode_code]; rfl)

theorem amoAdd (d a b : GReg) (o : MemOrder) (s : Scope) : Statement (.amoAdd d a b o s) :=
  word_law [⟨4, 0#4⟩, ⟨2, s.code⟩, ⟨2, o.code⟩, ⟨6, b⟩, ⟨6, a⟩, ⟨6, d⟩, ⟨6, 11#6⟩]
    (by show w5 0x2C000000 d.toNat 20 a.toNat 14 b.toNat 8 o.code.toNat 6 s.code.toNat 4 = _; simp only [w5, pack, BitVec.toNat_ofNat]; omega) 11 rfl rfl rfl rfl decodeAmo
    (fields_Amo _ (fld_pack _ 26 6 11 rfl)) nofun
    (by unfold decodeAmo; rw [fld_pack _ 0 4 0 rfl]; rw [bits_pack _ 20 6 d rfl, bits_pack _ 14 6 a rfl, bits_pack _ 8 6 b rfl, bits_pack _ 6 2 o.code rfl, MemOrder.ofCode_code, bits_pack _ 4 2 s.code rfl, Scope.ofCode_code]; rfl)

theorem amoAnd (d a b : GReg) (o : MemOrder) (s : Scope) : Statement (.amoAnd d a b o s) :=
  word_law [⟨4, 1#4⟩, ⟨2, s.code⟩, ⟨2, o.code⟩, ⟨6, b⟩, ⟨6, a⟩, ⟨6, d⟩, ⟨6, 11#6⟩]
    (by show w5 0x2C000001 d.toNat 20 a.toNat 14 b.toNat 8 o.code.toNat 6 s.code.toNat 4 = _; simp only [w5, pack, BitVec.toNat_ofNat]; omega) 11 rfl rfl rfl rfl decodeAmo
    (fields_Amo _ (fld_pack _ 26 6 11 rfl)) nofun
    (by unfold decodeAmo; rw [fld_pack _ 0 4 1 rfl]; rw [bits_pack _ 20 6 d rfl, bits_pack _ 14 6 a rfl, bits_pack _ 8 6 b rfl, bits_pack _ 6 2 o.code rfl, MemOrder.ofCode_code, bits_pack _ 4 2 s.code rfl, Scope.ofCode_code]; rfl)

theorem amoOr (d a b : GReg) (o : MemOrder) (s : Scope) : Statement (.amoOr d a b o s) :=
  word_law [⟨4, 2#4⟩, ⟨2, s.code⟩, ⟨2, o.code⟩, ⟨6, b⟩, ⟨6, a⟩, ⟨6, d⟩, ⟨6, 11#6⟩]
    (by show w5 0x2C000002 d.toNat 20 a.toNat 14 b.toNat 8 o.code.toNat 6 s.code.toNat 4 = _; simp only [w5, pack, BitVec.toNat_ofNat]; omega) 11 rfl rfl rfl rfl decodeAmo
    (fields_Amo _ (fld_pack _ 26 6 11 rfl)) nofun
    (by unfold decodeAmo; rw [fld_pack _ 0 4 2 rfl]; rw [bits_pack _ 20 6 d rfl, bits_pack _ 14 6 a rfl, bits_pack _ 8 6 b rfl, bits_pack _ 6 2 o.code rfl, MemOrder.ofCode_code, bits_pack _ 4 2 s.code rfl, Scope.ofCode_code]; rfl)

theorem amoXor (d a b : GReg) (o : MemOrder) (s : Scope) : Statement (.amoXor d a b o s) :=
  word_law [⟨4, 3#4⟩, ⟨2, s.code⟩, ⟨2, o.code⟩, ⟨6, b⟩, ⟨6, a⟩, ⟨6, d⟩, ⟨6, 11#6⟩]
    (by show w5 0x2C000003 d.toNat 20 a.toNat 14 b.toNat 8 o.code.toNat 6 s.code.toNat 4 = _; simp only [w5, pack, BitVec.toNat_ofNat]; omega) 11 rfl rfl rfl rfl decodeAmo
    (fields_Amo _ (fld_pack _ 26 6 11 rfl)) nofun
    (by unfold decodeAmo; rw [fld_pack _ 0 4 3 rfl]; rw [bits_pack _ 20 6 d rfl, bits_pack _ 14 6 a rfl, bits_pack _ 8 6 b rfl, bits_pack _ 6 2 o.code rfl, MemOrder.ofCode_code, bits_pack _ 4 2 s.code rfl, Scope.ofCode_code]; rfl)

theorem amoMin (d a b : GReg) (o : MemOrder) (s : Scope) : Statement (.amoMin d a b o s) :=
  word_law [⟨4, 4#4⟩, ⟨2, s.code⟩, ⟨2, o.code⟩, ⟨6, b⟩, ⟨6, a⟩, ⟨6, d⟩, ⟨6, 11#6⟩]
    (by show w5 0x2C000004 d.toNat 20 a.toNat 14 b.toNat 8 o.code.toNat 6 s.code.toNat 4 = _; simp only [w5, pack, BitVec.toNat_ofNat]; omega) 11 rfl rfl rfl rfl decodeAmo
    (fields_Amo _ (fld_pack _ 26 6 11 rfl)) nofun
    (by unfold decodeAmo; rw [fld_pack _ 0 4 4 rfl]; rw [bits_pack _ 20 6 d rfl, bits_pack _ 14 6 a rfl, bits_pack _ 8 6 b rfl, bits_pack _ 6 2 o.code rfl, MemOrder.ofCode_code, bits_pack _ 4 2 s.code rfl, Scope.ofCode_code]; rfl)

theorem amoMax (d a b : GReg) (o : MemOrder) (s : Scope) : Statement (.amoMax d a b o s) :=
  word_law [⟨4, 5#4⟩, ⟨2, s.code⟩, ⟨2, o.code⟩, ⟨6, b⟩, ⟨6, a⟩, ⟨6, d⟩, ⟨6, 11#6⟩]
    (by show w5 0x2C000005 d.toNat 20 a.toNat 14 b.toNat 8 o.code.toNat 6 s.code.toNat 4 = _; simp only [w5, pack, BitVec.toNat_ofNat]; omega) 11 rfl rfl rfl rfl decodeAmo
    (fields_Amo _ (fld_pack _ 26 6 11 rfl)) nofun
    (by unfold decodeAmo; rw [fld_pack _ 0 4 5 rfl]; rw [bits_pack _ 20 6 d rfl, bits_pack _ 14 6 a rfl, bits_pack _ 8 6 b rfl, bits_pack _ 6 2 o.code rfl, MemOrder.ofCode_code, bits_pack _ 4 2 s.code rfl, Scope.ofCode_code]; rfl)

theorem amoMinu (d a b : GReg) (o : MemOrder) (s : Scope) : Statement (.amoMinu d a b o s) :=
  word_law [⟨4, 6#4⟩, ⟨2, s.code⟩, ⟨2, o.code⟩, ⟨6, b⟩, ⟨6, a⟩, ⟨6, d⟩, ⟨6, 11#6⟩]
    (by show w5 0x2C000006 d.toNat 20 a.toNat 14 b.toNat 8 o.code.toNat 6 s.code.toNat 4 = _; simp only [w5, pack, BitVec.toNat_ofNat]; omega) 11 rfl rfl rfl rfl decodeAmo
    (fields_Amo _ (fld_pack _ 26 6 11 rfl)) nofun
    (by unfold decodeAmo; rw [fld_pack _ 0 4 6 rfl]; rw [bits_pack _ 20 6 d rfl, bits_pack _ 14 6 a rfl, bits_pack _ 8 6 b rfl, bits_pack _ 6 2 o.code rfl, MemOrder.ofCode_code, bits_pack _ 4 2 s.code rfl, Scope.ofCode_code]; rfl)

theorem amoMaxu (d a b : GReg) (o : MemOrder) (s : Scope) : Statement (.amoMaxu d a b o s) :=
  word_law [⟨4, 7#4⟩, ⟨2, s.code⟩, ⟨2, o.code⟩, ⟨6, b⟩, ⟨6, a⟩, ⟨6, d⟩, ⟨6, 11#6⟩]
    (by show w5 0x2C000007 d.toNat 20 a.toNat 14 b.toNat 8 o.code.toNat 6 s.code.toNat 4 = _; simp only [w5, pack, BitVec.toNat_ofNat]; omega) 11 rfl rfl rfl rfl decodeAmo
    (fields_Amo _ (fld_pack _ 26 6 11 rfl)) nofun
    (by unfold decodeAmo; rw [fld_pack _ 0 4 7 rfl]; rw [bits_pack _ 20 6 d rfl, bits_pack _ 14 6 a rfl, bits_pack _ 8 6 b rfl, bits_pack _ 6 2 o.code rfl, MemOrder.ofCode_code, bits_pack _ 4 2 s.code rfl, Scope.ofCode_code]; rfl)

theorem amoSwap (d a b : GReg) (o : MemOrder) (s : Scope) : Statement (.amoSwap d a b o s) :=
  word_law [⟨4, 8#4⟩, ⟨2, s.code⟩, ⟨2, o.code⟩, ⟨6, b⟩, ⟨6, a⟩, ⟨6, d⟩, ⟨6, 11#6⟩]
    (by show w5 0x2C000008 d.toNat 20 a.toNat 14 b.toNat 8 o.code.toNat 6 s.code.toNat 4 = _; simp only [w5, pack, BitVec.toNat_ofNat]; omega) 11 rfl rfl rfl rfl decodeAmo
    (fields_Amo _ (fld_pack _ 26 6 11 rfl)) nofun
    (by unfold decodeAmo; rw [fld_pack _ 0 4 8 rfl]; rw [bits_pack _ 20 6 d rfl, bits_pack _ 14 6 a rfl, bits_pack _ 8 6 b rfl, bits_pack _ 6 2 o.code rfl, MemOrder.ofCode_code, bits_pack _ 4 2 s.code rfl, Scope.ofCode_code]; rfl)

theorem amoCas (d a b : GReg) (o : MemOrder) (s : Scope) : Statement (.amoCas d a b o s) :=
  word_law [⟨4, 9#4⟩, ⟨2, s.code⟩, ⟨2, o.code⟩, ⟨6, b⟩, ⟨6, a⟩, ⟨6, d⟩, ⟨6, 11#6⟩]
    (by show w5 0x2C000009 d.toNat 20 a.toNat 14 b.toNat 8 o.code.toNat 6 s.code.toNat 4 = _; simp only [w5, pack, BitVec.toNat_ofNat]; omega) 11 rfl rfl rfl rfl decodeAmo
    (fields_Amo _ (fld_pack _ 26 6 11 rfl)) nofun
    (by unfold decodeAmo; rw [fld_pack _ 0 4 9 rfl]; rw [bits_pack _ 20 6 d rfl, bits_pack _ 14 6 a rfl, bits_pack _ 8 6 b rfl, bits_pack _ 6 2 o.code rfl, MemOrder.ofCode_code, bits_pack _ 4 2 s.code rfl, Scope.ofCode_code]; rfl)

theorem amoIncb (d a b : GReg) (o : MemOrder) (s : Scope) : Statement (.amoIncb d a b o s) :=
  word_law [⟨4, 10#4⟩, ⟨2, s.code⟩, ⟨2, o.code⟩, ⟨6, b⟩, ⟨6, a⟩, ⟨6, d⟩, ⟨6, 11#6⟩]
    (by show w5 0x2C00000A d.toNat 20 a.toNat 14 b.toNat 8 o.code.toNat 6 s.code.toNat 4 = _; simp only [w5, pack, BitVec.toNat_ofNat]; omega) 11 rfl rfl rfl rfl decodeAmo
    (fields_Amo _ (fld_pack _ 26 6 11 rfl)) nofun
    (by unfold decodeAmo; rw [fld_pack _ 0 4 10 rfl]; rw [bits_pack _ 20 6 d rfl, bits_pack _ 14 6 a rfl, bits_pack _ 8 6 b rfl, bits_pack _ 6 2 o.code rfl, MemOrder.ofCode_code, bits_pack _ 4 2 s.code rfl, Scope.ofCode_code]; rfl)

theorem amoFmin (d a b : GReg) (o : MemOrder) (s : Scope) : Statement (.amoFmin d a b o s) :=
  word_law [⟨4, 11#4⟩, ⟨2, s.code⟩, ⟨2, o.code⟩, ⟨6, b⟩, ⟨6, a⟩, ⟨6, d⟩, ⟨6, 11#6⟩]
    (by show w5 0x2C00000B d.toNat 20 a.toNat 14 b.toNat 8 o.code.toNat 6 s.code.toNat 4 = _; simp only [w5, pack, BitVec.toNat_ofNat]; omega) 11 rfl rfl rfl rfl decodeAmo
    (fields_Amo _ (fld_pack _ 26 6 11 rfl)) nofun
    (by unfold decodeAmo; rw [fld_pack _ 0 4 11 rfl]; rw [bits_pack _ 20 6 d rfl, bits_pack _ 14 6 a rfl, bits_pack _ 8 6 b rfl, bits_pack _ 6 2 o.code rfl, MemOrder.ofCode_code, bits_pack _ 4 2 s.code rfl, Scope.ofCode_code]; rfl)

theorem amoFadd (d a b : GReg) (o : MemOrder) (s : Scope) : Statement (.amoFadd d a b o s) :=
  word_law [⟨4, 12#4⟩, ⟨2, s.code⟩, ⟨2, o.code⟩, ⟨6, b⟩, ⟨6, a⟩, ⟨6, d⟩, ⟨6, 11#6⟩]
    (by show w5 0x2C00000C d.toNat 20 a.toNat 14 b.toNat 8 o.code.toNat 6 s.code.toNat 4 = _; simp only [w5, pack, BitVec.toNat_ofNat]; omega) 11 rfl rfl rfl rfl decodeAmo
    (fields_Amo _ (fld_pack _ 26 6 11 rfl)) nofun
    (by unfold decodeAmo; rw [fld_pack _ 0 4 12 rfl]; rw [bits_pack _ 20 6 d rfl, bits_pack _ 14 6 a rfl, bits_pack _ 8 6 b rfl, bits_pack _ 6 2 o.code rfl, MemOrder.ofCode_code, bits_pack _ 4 2 s.code rfl, Scope.ofCode_code]; rfl)

theorem faddS (d a b : GReg) : Statement (.faddS d a b) :=
  word_law [⟨7, 0#7⟩, ⟨1, 0#1⟩, ⟨6, b⟩, ⟨6, a⟩, ⟨6, d⟩, ⟨6, 12#6⟩]
    (by show w3 0x30000000 d.toNat 20 a.toNat 14 b.toNat 8 = _; simp only [w3, pack, BitVec.toNat_ofNat]; omega) 12 rfl rfl rfl rfl decodeFop
    (fields_Fop _ (fld_pack _ 26 6 12 rfl)) nofun
    (by unfold decodeFop; rw [fld_pack _ 0 7 0 rfl]; rw [fld_pack _ 7 1 0 rfl, bits_pack _ 20 6 d rfl, bits_pack _ 14 6 a rfl, bits_pack _ 8 6 b rfl]; rfl)

theorem faddD (d a b : GReg) : Statement (.faddD d a b) :=
  word_law [⟨7, 1#7⟩, ⟨1, 0#1⟩, ⟨6, b⟩, ⟨6, a⟩, ⟨6, d⟩, ⟨6, 12#6⟩]
    (by show w3 0x30000001 d.toNat 20 a.toNat 14 b.toNat 8 = _; simp only [w3, pack, BitVec.toNat_ofNat]; omega) 12 rfl rfl rfl rfl decodeFop
    (fields_Fop _ (fld_pack _ 26 6 12 rfl)) nofun
    (by unfold decodeFop; rw [fld_pack _ 0 7 1 rfl]; rw [fld_pack _ 7 1 0 rfl, bits_pack _ 20 6 d rfl, bits_pack _ 14 6 a rfl, bits_pack _ 8 6 b rfl]; rfl)

theorem fsubS (d a b : GReg) : Statement (.fsubS d a b) :=
  word_law [⟨7, 2#7⟩, ⟨1, 0#1⟩, ⟨6, b⟩, ⟨6, a⟩, ⟨6, d⟩, ⟨6, 12#6⟩]
    (by show w3 0x30000002 d.toNat 20 a.toNat 14 b.toNat 8 = _; simp only [w3, pack, BitVec.toNat_ofNat]; omega) 12 rfl rfl rfl rfl decodeFop
    (fields_Fop _ (fld_pack _ 26 6 12 rfl)) nofun
    (by unfold decodeFop; rw [fld_pack _ 0 7 2 rfl]; rw [fld_pack _ 7 1 0 rfl, bits_pack _ 20 6 d rfl, bits_pack _ 14 6 a rfl, bits_pack _ 8 6 b rfl]; rfl)

theorem fsubD (d a b : GReg) : Statement (.fsubD d a b) :=
  word_law [⟨7, 3#7⟩, ⟨1, 0#1⟩, ⟨6, b⟩, ⟨6, a⟩, ⟨6, d⟩, ⟨6, 12#6⟩]
    (by show w3 0x30000003 d.toNat 20 a.toNat 14 b.toNat 8 = _; simp only [w3, pack, BitVec.toNat_ofNat]; omega) 12 rfl rfl rfl rfl decodeFop
    (fields_Fop _ (fld_pack _ 26 6 12 rfl)) nofun
    (by unfold decodeFop; rw [fld_pack _ 0 7 3 rfl]; rw [fld_pack _ 7 1 0 rfl, bits_pack _ 20 6 d rfl, bits_pack _ 14 6 a rfl, bits_pack _ 8 6 b rfl]; rfl)

theorem fmulS (d a b : GReg) : Statement (.fmulS d a b) :=
  word_law [⟨7, 4#7⟩, ⟨1, 0#1⟩, ⟨6, b⟩, ⟨6, a⟩, ⟨6, d⟩, ⟨6, 12#6⟩]
    (by show w3 0x30000004 d.toNat 20 a.toNat 14 b.toNat 8 = _; simp only [w3, pack, BitVec.toNat_ofNat]; omega) 12 rfl rfl rfl rfl decodeFop
    (fields_Fop _ (fld_pack _ 26 6 12 rfl)) nofun
    (by unfold decodeFop; rw [fld_pack _ 0 7 4 rfl]; rw [fld_pack _ 7 1 0 rfl, bits_pack _ 20 6 d rfl, bits_pack _ 14 6 a rfl, bits_pack _ 8 6 b rfl]; rfl)

theorem fmulD (d a b : GReg) : Statement (.fmulD d a b) :=
  word_law [⟨7, 5#7⟩, ⟨1, 0#1⟩, ⟨6, b⟩, ⟨6, a⟩, ⟨6, d⟩, ⟨6, 12#6⟩]
    (by show w3 0x30000005 d.toNat 20 a.toNat 14 b.toNat 8 = _; simp only [w3, pack, BitVec.toNat_ofNat]; omega) 12 rfl rfl rfl rfl decodeFop
    (fields_Fop _ (fld_pack _ 26 6 12 rfl)) nofun
    (by unfold decodeFop; rw [fld_pack _ 0 7 5 rfl]; rw [fld_pack _ 7 1 0 rfl, bits_pack _ 20 6 d rfl, bits_pack _ 14 6 a rfl, bits_pack _ 8 6 b rfl]; rfl)

theorem fdivS (d a b : GReg) : Statement (.fdivS d a b) :=
  word_law [⟨7, 6#7⟩, ⟨1, 0#1⟩, ⟨6, b⟩, ⟨6, a⟩, ⟨6, d⟩, ⟨6, 12#6⟩]
    (by show w3 0x30000006 d.toNat 20 a.toNat 14 b.toNat 8 = _; simp only [w3, pack, BitVec.toNat_ofNat]; omega) 12 rfl rfl rfl rfl decodeFop
    (fields_Fop _ (fld_pack _ 26 6 12 rfl)) nofun
    (by unfold decodeFop; rw [fld_pack _ 0 7 6 rfl]; rw [fld_pack _ 7 1 0 rfl, bits_pack _ 20 6 d rfl, bits_pack _ 14 6 a rfl, bits_pack _ 8 6 b rfl]; rfl)

theorem fdivD (d a b : GReg) : Statement (.fdivD d a b) :=
  word_law [⟨7, 7#7⟩, ⟨1, 0#1⟩, ⟨6, b⟩, ⟨6, a⟩, ⟨6, d⟩, ⟨6, 12#6⟩]
    (by show w3 0x30000007 d.toNat 20 a.toNat 14 b.toNat 8 = _; simp only [w3, pack, BitVec.toNat_ofNat]; omega) 12 rfl rfl rfl rfl decodeFop
    (fields_Fop _ (fld_pack _ 26 6 12 rfl)) nofun
    (by unfold decodeFop; rw [fld_pack _ 0 7 7 rfl]; rw [fld_pack _ 7 1 0 rfl, bits_pack _ 20 6 d rfl, bits_pack _ 14 6 a rfl, bits_pack _ 8 6 b rfl]; rfl)

theorem fsqrtS (d a : GReg) : Statement (.fsqrtS d a) :=
  word_law [⟨7, 8#7⟩, ⟨7, 0#7⟩, ⟨6, a⟩, ⟨6, d⟩, ⟨6, 12#6⟩]
    (by show w2 0x30000008 d.toNat 20 a.toNat 14 = _; simp only [w2, pack, BitVec.toNat_ofNat]; omega) 12 rfl rfl rfl rfl decodeFop
    (fields_Fop _ (fld_pack _ 26 6 12 rfl)) nofun
    (by unfold decodeFop; rw [fld_pack _ 0 7 8 rfl]; rw [fld_pack _ 7 7 0 rfl, bits_pack _ 20 6 d rfl, bits_pack _ 14 6 a rfl]; rfl)

theorem fsqrtD (d a : GReg) : Statement (.fsqrtD d a) :=
  word_law [⟨7, 9#7⟩, ⟨7, 0#7⟩, ⟨6, a⟩, ⟨6, d⟩, ⟨6, 12#6⟩]
    (by show w2 0x30000009 d.toNat 20 a.toNat 14 = _; simp only [w2, pack, BitVec.toNat_ofNat]; omega) 12 rfl rfl rfl rfl decodeFop
    (fields_Fop _ (fld_pack _ 26 6 12 rfl)) nofun
    (by unfold decodeFop; rw [fld_pack _ 0 7 9 rfl]; rw [fld_pack _ 7 7 0 rfl, bits_pack _ 20 6 d rfl, bits_pack _ 14 6 a rfl]; rfl)

theorem fminS (d a b : GReg) : Statement (.fminS d a b) :=
  word_law [⟨7, 10#7⟩, ⟨1, 0#1⟩, ⟨6, b⟩, ⟨6, a⟩, ⟨6, d⟩, ⟨6, 12#6⟩]
    (by show w3 0x3000000A d.toNat 20 a.toNat 14 b.toNat 8 = _; simp only [w3, pack, BitVec.toNat_ofNat]; omega) 12 rfl rfl rfl rfl decodeFop
    (fields_Fop _ (fld_pack _ 26 6 12 rfl)) nofun
    (by unfold decodeFop; rw [fld_pack _ 0 7 10 rfl]; rw [fld_pack _ 7 1 0 rfl, bits_pack _ 20 6 d rfl, bits_pack _ 14 6 a rfl, bits_pack _ 8 6 b rfl]; rfl)

theorem fminD (d a b : GReg) : Statement (.fminD d a b) :=
  word_law [⟨7, 11#7⟩, ⟨1, 0#1⟩, ⟨6, b⟩, ⟨6, a⟩, ⟨6, d⟩, ⟨6, 12#6⟩]
    (by show w3 0x3000000B d.toNat 20 a.toNat 14 b.toNat 8 = _; simp only [w3, pack, BitVec.toNat_ofNat]; omega) 12 rfl rfl rfl rfl decodeFop
    (fields_Fop _ (fld_pack _ 26 6 12 rfl)) nofun
    (by unfold decodeFop; rw [fld_pack _ 0 7 11 rfl]; rw [fld_pack _ 7 1 0 rfl, bits_pack _ 20 6 d rfl, bits_pack _ 14 6 a rfl, bits_pack _ 8 6 b rfl]; rfl)

theorem fmaxS (d a b : GReg) : Statement (.fmaxS d a b) :=
  word_law [⟨7, 12#7⟩, ⟨1, 0#1⟩, ⟨6, b⟩, ⟨6, a⟩, ⟨6, d⟩, ⟨6, 12#6⟩]
    (by show w3 0x3000000C d.toNat 20 a.toNat 14 b.toNat 8 = _; simp only [w3, pack, BitVec.toNat_ofNat]; omega) 12 rfl rfl rfl rfl decodeFop
    (fields_Fop _ (fld_pack _ 26 6 12 rfl)) nofun
    (by unfold decodeFop; rw [fld_pack _ 0 7 12 rfl]; rw [fld_pack _ 7 1 0 rfl, bits_pack _ 20 6 d rfl, bits_pack _ 14 6 a rfl, bits_pack _ 8 6 b rfl]; rfl)

theorem fmaxD (d a b : GReg) : Statement (.fmaxD d a b) :=
  word_law [⟨7, 13#7⟩, ⟨1, 0#1⟩, ⟨6, b⟩, ⟨6, a⟩, ⟨6, d⟩, ⟨6, 12#6⟩]
    (by show w3 0x3000000D d.toNat 20 a.toNat 14 b.toNat 8 = _; simp only [w3, pack, BitVec.toNat_ofNat]; omega) 12 rfl rfl rfl rfl decodeFop
    (fields_Fop _ (fld_pack _ 26 6 12 rfl)) nofun
    (by unfold decodeFop; rw [fld_pack _ 0 7 13 rfl]; rw [fld_pack _ 7 1 0 rfl, bits_pack _ 20 6 d rfl, bits_pack _ 14 6 a rfl, bits_pack _ 8 6 b rfl]; rfl)

theorem fmacS (d a b : GReg) : Statement (.fmacS d a b) :=
  word_law [⟨7, 14#7⟩, ⟨1, 0#1⟩, ⟨6, b⟩, ⟨6, a⟩, ⟨6, d⟩, ⟨6, 12#6⟩]
    (by show w3 0x3000000E d.toNat 20 a.toNat 14 b.toNat 8 = _; simp only [w3, pack, BitVec.toNat_ofNat]; omega) 12 rfl rfl rfl rfl decodeFop
    (fields_Fop _ (fld_pack _ 26 6 12 rfl)) nofun
    (by unfold decodeFop; rw [fld_pack _ 0 7 14 rfl]; rw [fld_pack _ 7 1 0 rfl, bits_pack _ 20 6 d rfl, bits_pack _ 14 6 a rfl, bits_pack _ 8 6 b rfl]; rfl)

theorem fmacD (d a b : GReg) : Statement (.fmacD d a b) :=
  word_law [⟨7, 15#7⟩, ⟨1, 0#1⟩, ⟨6, b⟩, ⟨6, a⟩, ⟨6, d⟩, ⟨6, 12#6⟩]
    (by show w3 0x3000000F d.toNat 20 a.toNat 14 b.toNat 8 = _; simp only [w3, pack, BitVec.toNat_ofNat]; omega) 12 rfl rfl rfl rfl decodeFop
    (fields_Fop _ (fld_pack _ 26 6 12 rfl)) nofun
    (by unfold decodeFop; rw [fld_pack _ 0 7 15 rfl]; rw [fld_pack _ 7 1 0 rfl, bits_pack _ 20 6 d rfl, bits_pack _ 14 6 a rfl, bits_pack _ 8 6 b rfl]; rfl)

theorem fnegS (d a : GReg) : Statement (.fnegS d a) :=
  word_law [⟨7, 16#7⟩, ⟨7, 0#7⟩, ⟨6, a⟩, ⟨6, d⟩, ⟨6, 12#6⟩]
    (by show w2 0x30000010 d.toNat 20 a.toNat 14 = _; simp only [w2, pack, BitVec.toNat_ofNat]; omega) 12 rfl rfl rfl rfl decodeFop
    (fields_Fop _ (fld_pack _ 26 6 12 rfl)) nofun
    (by unfold decodeFop; rw [fld_pack _ 0 7 16 rfl]; rw [fld_pack _ 7 7 0 rfl, bits_pack _ 20 6 d rfl, bits_pack _ 14 6 a rfl]; rfl)

theorem fnegD (d a : GReg) : Statement (.fnegD d a) :=
  word_law [⟨7, 17#7⟩, ⟨7, 0#7⟩, ⟨6, a⟩, ⟨6, d⟩, ⟨6, 12#6⟩]
    (by show w2 0x30000011 d.toNat 20 a.toNat 14 = _; simp only [w2, pack, BitVec.toNat_ofNat]; omega) 12 rfl rfl rfl rfl decodeFop
    (fields_Fop _ (fld_pack _ 26 6 12 rfl)) nofun
    (by unfold decodeFop; rw [fld_pack _ 0 7 17 rfl]; rw [fld_pack _ 7 7 0 rfl, bits_pack _ 20 6 d rfl, bits_pack _ 14 6 a rfl]; rfl)

theorem fabsS (d a : GReg) : Statement (.fabsS d a) :=
  word_law [⟨7, 18#7⟩, ⟨7, 0#7⟩, ⟨6, a⟩, ⟨6, d⟩, ⟨6, 12#6⟩]
    (by show w2 0x30000012 d.toNat 20 a.toNat 14 = _; simp only [w2, pack, BitVec.toNat_ofNat]; omega) 12 rfl rfl rfl rfl decodeFop
    (fields_Fop _ (fld_pack _ 26 6 12 rfl)) nofun
    (by unfold decodeFop; rw [fld_pack _ 0 7 18 rfl]; rw [fld_pack _ 7 7 0 rfl, bits_pack _ 20 6 d rfl, bits_pack _ 14 6 a rfl]; rfl)

theorem fabsD (d a : GReg) : Statement (.fabsD d a) :=
  word_law [⟨7, 19#7⟩, ⟨7, 0#7⟩, ⟨6, a⟩, ⟨6, d⟩, ⟨6, 12#6⟩]
    (by show w2 0x30000013 d.toNat 20 a.toNat 14 = _; simp only [w2, pack, BitVec.toNat_ofNat]; omega) 12 rfl rfl rfl rfl decodeFop
    (fields_Fop _ (fld_pack _ 26 6 12 rfl)) nofun
    (by unfold decodeFop; rw [fld_pack _ 0 7 19 rfl]; rw [fld_pack _ 7 7 0 rfl, bits_pack _ 20 6 d rfl, bits_pack _ 14 6 a rfl]; rfl)

theorem feqS (d a b : GReg) : Statement (.feqS d a b) :=
  word_law [⟨7, 20#7⟩, ⟨1, 0#1⟩, ⟨6, b⟩, ⟨6, a⟩, ⟨6, d⟩, ⟨6, 12#6⟩]
    (by show w3 0x30000014 d.toNat 20 a.toNat 14 b.toNat 8 = _; simp only [w3, pack, BitVec.toNat_ofNat]; omega) 12 rfl rfl rfl rfl decodeFop
    (fields_Fop _ (fld_pack _ 26 6 12 rfl)) nofun
    (by unfold decodeFop; rw [fld_pack _ 0 7 20 rfl]; rw [fld_pack _ 7 1 0 rfl, bits_pack _ 20 6 d rfl, bits_pack _ 14 6 a rfl, bits_pack _ 8 6 b rfl]; rfl)

theorem feqD (d a b : GReg) : Statement (.feqD d a b) :=
  word_law [⟨7, 21#7⟩, ⟨1, 0#1⟩, ⟨6, b⟩, ⟨6, a⟩, ⟨6, d⟩, ⟨6, 12#6⟩]
    (by show w3 0x30000015 d.toNat 20 a.toNat 14 b.toNat 8 = _; simp only [w3, pack, BitVec.toNat_ofNat]; omega) 12 rfl rfl rfl rfl decodeFop
    (fields_Fop _ (fld_pack _ 26 6 12 rfl)) nofun
    (by unfold decodeFop; rw [fld_pack _ 0 7 21 rfl]; rw [fld_pack _ 7 1 0 rfl, bits_pack _ 20 6 d rfl, bits_pack _ 14 6 a rfl, bits_pack _ 8 6 b rfl]; rfl)

theorem fltS (d a b : GReg) : Statement (.fltS d a b) :=
  word_law [⟨7, 22#7⟩, ⟨1, 0#1⟩, ⟨6, b⟩, ⟨6, a⟩, ⟨6, d⟩, ⟨6, 12#6⟩]
    (by show w3 0x30000016 d.toNat 20 a.toNat 14 b.toNat 8 = _; simp only [w3, pack, BitVec.toNat_ofNat]; omega) 12 rfl rfl rfl rfl decodeFop
    (fields_Fop _ (fld_pack _ 26 6 12 rfl)) nofun
    (by unfold decodeFop; rw [fld_pack _ 0 7 22 rfl]; rw [fld_pack _ 7 1 0 rfl, bits_pack _ 20 6 d rfl, bits_pack _ 14 6 a rfl, bits_pack _ 8 6 b rfl]; rfl)

theorem fltD (d a b : GReg) : Statement (.fltD d a b) :=
  word_law [⟨7, 23#7⟩, ⟨1, 0#1⟩, ⟨6, b⟩, ⟨6, a⟩, ⟨6, d⟩, ⟨6, 12#6⟩]
    (by show w3 0x30000017 d.toNat 20 a.toNat 14 b.toNat 8 = _; simp only [w3, pack, BitVec.toNat_ofNat]; omega) 12 rfl rfl rfl rfl decodeFop
    (fields_Fop _ (fld_pack _ 26 6 12 rfl)) nofun
    (by unfold decodeFop; rw [fld_pack _ 0 7 23 rfl]; rw [fld_pack _ 7 1 0 rfl, bits_pack _ 20 6 d rfl, bits_pack _ 14 6 a rfl, bits_pack _ 8 6 b rfl]; rfl)

theorem fleS (d a b : GReg) : Statement (.fleS d a b) :=
  word_law [⟨7, 24#7⟩, ⟨1, 0#1⟩, ⟨6, b⟩, ⟨6, a⟩, ⟨6, d⟩, ⟨6, 12#6⟩]
    (by show w3 0x30000018 d.toNat 20 a.toNat 14 b.toNat 8 = _; simp only [w3, pack, BitVec.toNat_ofNat]; omega) 12 rfl rfl rfl rfl decodeFop
    (fields_Fop _ (fld_pack _ 26 6 12 rfl)) nofun
    (by unfold decodeFop; rw [fld_pack _ 0 7 24 rfl]; rw [fld_pack _ 7 1 0 rfl, bits_pack _ 20 6 d rfl, bits_pack _ 14 6 a rfl, bits_pack _ 8 6 b rfl]; rfl)

theorem fleD (d a b : GReg) : Statement (.fleD d a b) :=
  word_law [⟨7, 25#7⟩, ⟨1, 0#1⟩, ⟨6, b⟩, ⟨6, a⟩, ⟨6, d⟩, ⟨6, 12#6⟩]
    (by show w3 0x30000019 d.toNat 20 a.toNat 14 b.toNat 8 = _; simp only [w3, pack, BitVec.toNat_ofNat]; omega) 12 rfl rfl rfl rfl decodeFop
    (fields_Fop _ (fld_pack _ 26 6 12 rfl)) nofun
    (by unfold decodeFop; rw [fld_pack _ 0 7 25 rfl]; rw [fld_pack _ 7 1 0 rfl, bits_pack _ 20 6 d rfl, bits_pack _ 14 6 a rfl, bits_pack _ 8 6 b rfl]; rfl)

theorem fclassS (d a : GReg) : Statement (.fclassS d a) :=
  word_law [⟨7, 26#7⟩, ⟨7, 0#7⟩, ⟨6, a⟩, ⟨6, d⟩, ⟨6, 12#6⟩]
    (by show w2 0x3000001A d.toNat 20 a.toNat 14 = _; simp only [w2, pack, BitVec.toNat_ofNat]; omega) 12 rfl rfl rfl rfl decodeFop
    (fields_Fop _ (fld_pack _ 26 6 12 rfl)) nofun
    (by unfold decodeFop; rw [fld_pack _ 0 7 26 rfl]; rw [fld_pack _ 7 7 0 rfl, bits_pack _ 20 6 d rfl, bits_pack _ 14 6 a rfl]; rfl)

theorem fclassD (d a : GReg) : Statement (.fclassD d a) :=
  word_law [⟨7, 27#7⟩, ⟨7, 0#7⟩, ⟨6, a⟩, ⟨6, d⟩, ⟨6, 12#6⟩]
    (by show w2 0x3000001B d.toNat 20 a.toNat 14 = _; simp only [w2, pack, BitVec.toNat_ofNat]; omega) 12 rfl rfl rfl rfl decodeFop
    (fields_Fop _ (fld_pack _ 26 6 12 rfl)) nofun
    (by unfold decodeFop; rw [fld_pack _ 0 7 27 rfl]; rw [fld_pack _ 7 7 0 rfl, bits_pack _ 20 6 d rfl, bits_pack _ 14 6 a rfl]; rfl)

theorem fcvtSD (d a : GReg) : Statement (.fcvtSD d a) :=
  word_law [⟨7, 28#7⟩, ⟨7, 0#7⟩, ⟨6, a⟩, ⟨6, d⟩, ⟨6, 12#6⟩]
    (by show w2 0x3000001C d.toNat 20 a.toNat 14 = _; simp only [w2, pack, BitVec.toNat_ofNat]; omega) 12 rfl rfl rfl rfl decodeFop
    (fields_Fop _ (fld_pack _ 26 6 12 rfl)) nofun
    (by unfold decodeFop; rw [fld_pack _ 0 7 28 rfl]; rw [fld_pack _ 7 7 0 rfl, bits_pack _ 20 6 d rfl, bits_pack _ 14 6 a rfl]; rfl)

theorem fcvtDS (d a : GReg) : Statement (.fcvtDS d a) :=
  word_law [⟨7, 29#7⟩, ⟨7, 0#7⟩, ⟨6, a⟩, ⟨6, d⟩, ⟨6, 12#6⟩]
    (by show w2 0x3000001D d.toNat 20 a.toNat 14 = _; simp only [w2, pack, BitVec.toNat_ofNat]; omega) 12 rfl rfl rfl rfl decodeFop
    (fields_Fop _ (fld_pack _ 26 6 12 rfl)) nofun
    (by unfold decodeFop; rw [fld_pack _ 0 7 29 rfl]; rw [fld_pack _ 7 7 0 rfl, bits_pack _ 20 6 d rfl, bits_pack _ 14 6 a rfl]; rfl)

theorem fcvtLS (d a : GReg) : Statement (.fcvtLS d a) :=
  word_law [⟨7, 30#7⟩, ⟨7, 0#7⟩, ⟨6, a⟩, ⟨6, d⟩, ⟨6, 12#6⟩]
    (by show w2 0x3000001E d.toNat 20 a.toNat 14 = _; simp only [w2, pack, BitVec.toNat_ofNat]; omega) 12 rfl rfl rfl rfl decodeFop
    (fields_Fop _ (fld_pack _ 26 6 12 rfl)) nofun
    (by unfold decodeFop; rw [fld_pack _ 0 7 30 rfl]; rw [fld_pack _ 7 7 0 rfl, bits_pack _ 20 6 d rfl, bits_pack _ 14 6 a rfl]; rfl)

theorem fcvtLD (d a : GReg) : Statement (.fcvtLD d a) :=
  word_law [⟨7, 31#7⟩, ⟨7, 0#7⟩, ⟨6, a⟩, ⟨6, d⟩, ⟨6, 12#6⟩]
    (by show w2 0x3000001F d.toNat 20 a.toNat 14 = _; simp only [w2, pack, BitVec.toNat_ofNat]; omega) 12 rfl rfl rfl rfl decodeFop
    (fields_Fop _ (fld_pack _ 26 6 12 rfl)) nofun
    (by unfold decodeFop; rw [fld_pack _ 0 7 31 rfl]; rw [fld_pack _ 7 7 0 rfl, bits_pack _ 20 6 d rfl, bits_pack _ 14 6 a rfl]; rfl)

theorem fcvtSL (d a : GReg) : Statement (.fcvtSL d a) :=
  word_law [⟨7, 32#7⟩, ⟨7, 0#7⟩, ⟨6, a⟩, ⟨6, d⟩, ⟨6, 12#6⟩]
    (by show w2 0x30000020 d.toNat 20 a.toNat 14 = _; simp only [w2, pack, BitVec.toNat_ofNat]; omega) 12 rfl rfl rfl rfl decodeFop
    (fields_Fop _ (fld_pack _ 26 6 12 rfl)) nofun
    (by unfold decodeFop; rw [fld_pack _ 0 7 32 rfl]; rw [fld_pack _ 7 7 0 rfl, bits_pack _ 20 6 d rfl, bits_pack _ 14 6 a rfl]; rfl)

theorem fcvtDL (d a : GReg) : Statement (.fcvtDL d a) :=
  word_law [⟨7, 33#7⟩, ⟨7, 0#7⟩, ⟨6, a⟩, ⟨6, d⟩, ⟨6, 12#6⟩]
    (by show w2 0x30000021 d.toNat 20 a.toNat 14 = _; simp only [w2, pack, BitVec.toNat_ofNat]; omega) 12 rfl rfl rfl rfl decodeFop
    (fields_Fop _ (fld_pack _ 26 6 12 rfl)) nofun
    (by unfold decodeFop; rw [fld_pack _ 0 7 33 rfl]; rw [fld_pack _ 7 7 0 rfl, bits_pack _ 20 6 d rfl, bits_pack _ 14 6 a rfl]; rfl)

theorem sysrd (d : GReg) (i : BitVec 11) : Statement (.sysrd d i) :=
  word_law [⟨11, i⟩, ⟨3, 0#3⟩, ⟨6, 0#6⟩, ⟨6, d⟩, ⟨6, 13#6⟩]
    (by show w2 0x34000000 d.toNat 20 i.toNat 0 = _; simp only [w2, pack, BitVec.toNat_ofNat]; omega) 13 rfl rfl rfl rfl decodeSys
    (fields_Sys _ (fld_pack _ 26 6 13 rfl)) nofun
    (by unfold decodeSys; rw [fld_pack _ 11 3 0 rfl]; rw [fld_pack _ 14 6 0 rfl, bits_pack _ 20 6 d rfl, bits_pack _ 0 11 i rfl]; rfl)

theorem syswr (a : GReg) (i : BitVec 11) : Statement (.syswr a i) :=
  word_law [⟨11, i⟩, ⟨3, 1#3⟩, ⟨6, a⟩, ⟨6, 0#6⟩, ⟨6, 13#6⟩]
    (by show w2 0x34000800 a.toNat 14 i.toNat 0 = _; simp only [w2, pack, BitVec.toNat_ofNat]; omega) 13 rfl rfl rfl rfl decodeSys
    (fields_Sys _ (fld_pack _ 26 6 13 rfl)) nofun
    (by unfold decodeSys; rw [fld_pack _ 11 3 1 rfl]; rw [fld_pack _ 20 6 0 rfl, bits_pack _ 14 6 a rfl, bits_pack _ 0 11 i rfl]; rfl)

theorem trap (i : BitVec 11) : Statement (.trap i) :=
  word_law [⟨11, i⟩, ⟨3, 2#3⟩, ⟨12, 0#12⟩, ⟨6, 13#6⟩]
    (by show w1 0x34001000 i.toNat 0 = _; simp only [w1, pack, BitVec.toNat_ofNat]; omega) 13 rfl rfl rfl rfl decodeSys
    (fields_Sys _ (fld_pack _ 26 6 13 rfl)) nofun
    (by unfold decodeSys; rw [fld_pack _ 11 3 2 rfl]; rw [fld_pack _ 14 12 0 rfl, bits_pack _ 0 11 i rfl]; rfl)

theorem done : Statement (.done) :=
  word_law [⟨11, 0#11⟩, ⟨3, 3#3⟩, ⟨12, 0#12⟩, ⟨6, 13#6⟩]
    (by rfl) 13 rfl rfl rfl rfl decodeSys
    (fields_Sys _ (fld_pack _ 26 6 13 rfl)) nofun
    (by unfold decodeSys; rw [fld_pack _ 11 3 3 rfl]; rw [fld_pack _ 0 11 0 rfl, fld_pack _ 14 12 0 rfl]; rfl)

theorem yield : Statement (.yield) :=
  word_law [⟨11, 0#11⟩, ⟨3, 4#3⟩, ⟨12, 0#12⟩, ⟨6, 13#6⟩]
    (by rfl) 13 rfl rfl rfl rfl decodeSys
    (fields_Sys _ (fld_pack _ 26 6 13 rfl)) nofun
    (by unfold decodeSys; rw [fld_pack _ 11 3 4 rfl]; rw [fld_pack _ 0 11 0 rfl, fld_pack _ 14 12 0 rfl]; rfl)

theorem eret : Statement (.eret) :=
  word_law [⟨11, 0#11⟩, ⟨3, 5#3⟩, ⟨12, 0#12⟩, ⟨6, 13#6⟩]
    (by rfl) 13 rfl rfl rfl rfl decodeSys
    (fields_Sys _ (fld_pack _ 26 6 13 rfl)) nofun
    (by unfold decodeSys; rw [fld_pack _ 11 3 5 rfl]; rw [fld_pack _ 0 11 0 rfl, fld_pack _ 14 12 0 rfl]; rfl)

theorem launch (d a : GReg) (i : BitVec 11) : Statement (.launch d a i) :=
  word_law [⟨11, i⟩, ⟨3, 6#3⟩, ⟨6, a⟩, ⟨6, d⟩, ⟨6, 13#6⟩]
    (by show w3 0x34003000 d.toNat 20 a.toNat 14 i.toNat 0 = _; simp only [w3, pack, BitVec.toNat_ofNat]; omega) 13 rfl rfl rfl rfl decodeSys
    (fields_Sys _ (fld_pack _ 26 6 13 rfl)) nofun
    (by unfold decodeSys; rw [fld_pack _ 11 3 6 rfl]; rw [bits_pack _ 20 6 d rfl, bits_pack _ 14 6 a rfl, bits_pack _ 0 11 i rfl]; rfl)

theorem replay (d a : GReg) : Statement (.replay d a) :=
  word_law [⟨11, 0#11⟩, ⟨3, 7#3⟩, ⟨6, a⟩, ⟨6, d⟩, ⟨6, 13#6⟩]
    (by show w2 0x34003800 d.toNat 20 a.toNat 14 = _; simp only [w2, pack, BitVec.toNat_ofNat]; omega) 13 rfl rfl rfl rfl decodeSys
    (fields_Sys _ (fld_pack _ 26 6 13 rfl)) nofun
    (by unfold decodeSys; rw [fld_pack _ 11 3 7 rfl]; rw [fld_pack _ 0 11 0 rfl, bits_pack _ 20 6 d rfl, bits_pack _ 14 6 a rfl]; rfl)

theorem fence (o : BitVec 3) (s : Scope) : Statement (.fence o s) :=
  word_law [⟨2, s.code⟩, ⟨3, o⟩, ⟨6, 0#6⟩, ⟨3, 0#3⟩, ⟨12, 0#12⟩, ⟨6, 14#6⟩]
    (by show w2 0x38000000 o.toNat 2 s.code.toNat 0 = _; simp only [w2, pack, BitVec.toNat_ofNat]; omega) 14 rfl rfl rfl rfl decodeSync
    (fields_Sync _ (fld_pack _ 26 6 14 rfl)) nofun
    (by unfold decodeSync; rw [fld_pack _ 11 3 0 rfl]; rw [fld_pack _ 5 6 0 rfl, fld_pack _ 14 12 0 rfl, bits_pack _ 2 3 o rfl, bits_pack _ 0 2 s.code rfl, Scope.ofCode_code]; rfl)

theorem barArv (d : GReg) (n : BitVec 3) (s : Scope) : Statement (.barArv d n s) :=
  word_law [⟨2, s.code⟩, ⟨3, n⟩, ⟨6, 0#6⟩, ⟨3, 1#3⟩, ⟨6, 0#6⟩, ⟨6, d⟩, ⟨6, 14#6⟩]
    (by show w3 0x38000800 d.toNat 20 n.toNat 2 s.code.toNat 0 = _; simp only [w3, pack, BitVec.toNat_ofNat]; omega) 14 rfl rfl rfl rfl decodeSync
    (fields_Sync _ (fld_pack _ 26 6 14 rfl)) nofun
    (by unfold decodeSync; rw [fld_pack _ 11 3 1 rfl]; rw [fld_pack _ 5 6 0 rfl, fld_pack _ 14 6 0 rfl, bits_pack _ 20 6 d rfl, bits_pack _ 2 3 n rfl, bits_pack _ 0 2 s.code rfl, Scope.ofCode_code]; rfl)

theorem barWt (d a : GReg) (n : BitVec 3) (s : Scope) : Statement (.barWt d a n s) :=
  word_law [⟨2, s.code⟩, ⟨3, n⟩, ⟨6, 0#6⟩, ⟨3, 2#3⟩, ⟨6, a⟩, ⟨6, d⟩, ⟨6, 14#6⟩]
    (by show w4 0x38001000 d.toNat 20 a.toNat 14 n.toNat 2 s.code.toNat 0 = _; simp only [w4, pack, BitVec.toNat_ofNat]; omega) 14 rfl rfl rfl rfl decodeSync
    (fields_Sync _ (fld_pack _ 26 6 14 rfl)) nofun
    (by unfold decodeSync; rw [fld_pack _ 11 3 2 rfl]; rw [fld_pack _ 5 6 0 rfl, bits_pack _ 20 6 d rfl, bits_pack _ 14 6 a rfl, bits_pack _ 2 3 n rfl, bits_pack _ 0 2 s.code rfl, Scope.ofCode_code]; rfl)

theorem barSy (d : GReg) (n : BitVec 3) (s : Scope) : Statement (.barSy d n s) :=
  word_law [⟨2, s.code⟩, ⟨3, n⟩, ⟨6, 0#6⟩, ⟨3, 3#3⟩, ⟨6, 0#6⟩, ⟨6, d⟩, ⟨6, 14#6⟩]
    (by show w3 0x38001800 d.toNat 20 n.toNat 2 s.code.toNat 0 = _; simp only [w3, pack, BitVec.toNat_ofNat]; omega) 14 rfl rfl rfl rfl decodeSync
    (fields_Sync _ (fld_pack _ 26 6 14 rfl)) nofun
    (by unfold decodeSync; rw [fld_pack _ 11 3 3 rfl]; rw [fld_pack _ 5 6 0 rfl, fld_pack _ 14 6 0 rfl, bits_pack _ 20 6 d rfl, bits_pack _ 2 3 n rfl, bits_pack _ 0 2 s.code rfl, Scope.ofCode_code]; rfl)

theorem stripTake (d : GReg) (n : BitVec 3) : Statement (.stripTake d n) :=
  word_law [⟨3, n⟩, ⟨8, 0#8⟩, ⟨3, 4#3⟩, ⟨6, 0#6⟩, ⟨6, d⟩, ⟨6, 14#6⟩]
    (by show w2 0x38002000 d.toNat 20 n.toNat 0 = _; simp only [w2, pack, BitVec.toNat_ofNat]; omega) 14 rfl rfl rfl rfl decodeSync
    (fields_Sync _ (fld_pack _ 26 6 14 rfl)) nofun
    (by unfold decodeSync; rw [fld_pack _ 11 3 4 rfl]; rw [fld_pack _ 3 8 0 rfl, fld_pack _ 14 6 0 rfl, bits_pack _ 20 6 d rfl, bits_pack _ 0 3 n rfl]; rfl)

theorem stripDeclare (d a : GReg) (n : BitVec 3) : Statement (.stripDeclare d a n) :=
  word_law [⟨3, n⟩, ⟨8, 1#8⟩, ⟨3, 4#3⟩, ⟨6, a⟩, ⟨6, d⟩, ⟨6, 14#6⟩]
    (by show w3 0x38002008 d.toNat 20 a.toNat 14 n.toNat 0 = _; simp only [w3, pack, BitVec.toNat_ofNat]; omega) 14 rfl rfl rfl rfl decodeSync
    (fields_Sync _ (fld_pack _ 26 6 14 rfl)) nofun
    (by unfold decodeSync; rw [fld_pack _ 11 3 4 rfl]; rw [fld_pack _ 3 8 1 rfl, bits_pack _ 20 6 d rfl, bits_pack _ 14 6 a rfl, bits_pack _ 0 3 n rfl]; rfl)

theorem vsync (k : Bool) : Statement (.vsync k) :=
  word_law [⟨1, BitVec.ofBool k⟩, ⟨10, 0#10⟩, ⟨3, 5#3⟩, ⟨12, 0#12⟩, ⟨6, 14#6⟩]
    (by show w1 0x38002800 k.toNat 0 = _; simp only [w1, pack, BitVec.toNat_ofNat, BitVec.toNat_ofBool]; omega) 14 rfl rfl rfl rfl decodeSync
    (fields_Sync _ (fld_pack _ 26 6 14 rfl)) nofun
    (by unfold decodeSync; rw [fld_pack _ 11 3 5 rfl]; rw [fld_pack _ 1 10 0 rfl, fld_pack _ 14 12 0 rfl, flag_pack _ 0 k rfl]; rfl)

theorem inval (n a : GReg) (i : BitVec 11) : Statement (.inval n a i) :=
  word_law [⟨11, i⟩, ⟨3, 6#3⟩, ⟨6, a⟩, ⟨6, n⟩, ⟨6, 14#6⟩]
    (by show w3 0x38003000 n.toNat 20 a.toNat 14 i.toNat 0 = _; simp only [w3, pack, BitVec.toNat_ofNat]; omega) 14 rfl rfl rfl rfl decodeSync
    (fields_Sync _ (fld_pack _ 26 6 14 rfl)) nofun
    (by unfold decodeSync; rw [fld_pack _ 11 3 6 rfl]; rw [bits_pack _ 20 6 n rfl, bits_pack _ 14 6 a rfl, bits_pack _ 0 11 i rfl]; rfl)

theorem ptsync (a : GReg) (k : Bool) : Statement (.ptsync a k) :=
  word_law [⟨1, BitVec.ofBool k⟩, ⟨10, 0#10⟩, ⟨3, 7#3⟩, ⟨6, a⟩, ⟨6, 0#6⟩, ⟨6, 14#6⟩]
    (by show w2 0x38003800 a.toNat 14 k.toNat 0 = _; simp only [w2, pack, BitVec.toNat_ofNat, BitVec.toNat_ofBool]; omega) 14 rfl rfl rfl rfl decodeSync
    (fields_Sync _ (fld_pack _ 26 6 14 rfl)) nofun
    (by unfold decodeSync; rw [fld_pack _ 11 3 7 rfl]; rw [fld_pack _ 1 10 0 rfl, fld_pack _ 20 6 0 rfl, bits_pack _ 14 6 a rfl, flag_pack _ 0 k rfl]; rfl)

theorem cpavail (d : GReg) (n : BitVec 4) : Statement (.cpavail d n) :=
  word_law [⟨4, n⟩, ⟨7, 0#7⟩, ⟨3, 0#3⟩, ⟨6, 0#6⟩, ⟨6, d⟩, ⟨6, 34#6⟩]
    (by show w2 0x88000000 d.toNat 20 n.toNat 0 = _; simp only [w2, pack, BitVec.toNat_ofNat]; omega) 34 rfl rfl rfl rfl decodeCpc
    (fields_Cpc _ (fld_pack _ 26 6 34 rfl)) nofun
    (by unfold decodeCpc; rw [fld_pack _ 11 3 0 rfl]; rw [fld_pack _ 4 7 0 rfl, fld_pack _ 14 6 0 rfl, bits_pack _ 20 6 d rfl, bits_pack _ 0 4 n rfl]; rfl)

theorem cpwait (d a : GReg) (n : BitVec 4) : Statement (.cpwait d a n) :=
  word_law [⟨4, n⟩, ⟨7, 0#7⟩, ⟨3, 2#3⟩, ⟨6, a⟩, ⟨6, d⟩, ⟨6, 34#6⟩]
    (by show w3 0x88001000 d.toNat 20 a.toNat 14 n.toNat 0 = _; simp only [w3, pack, BitVec.toNat_ofNat]; omega) 34 rfl rfl rfl rfl decodeCpc
    (fields_Cpc _ (fld_pack _ 26 6 34 rfl)) nofun
    (by unfold decodeCpc; rw [fld_pack _ 11 3 2 rfl]; rw [fld_pack _ 4 7 0 rfl, bits_pack _ 20 6 d rfl, bits_pack _ 14 6 a rfl, bits_pack _ 0 4 n rfl]; rfl)

theorem bxInit (a : GReg) (k : Bool) (n : BitVec 4) : Statement (.bxInit a k n) :=
  word_law [⟨4, n⟩, ⟨1, BitVec.ofBool k⟩, ⟨6, 0#6⟩, ⟨3, 3#3⟩, ⟨6, a⟩, ⟨6, 0#6⟩, ⟨6, 34#6⟩]
    (by show w3 0x88001800 a.toNat 14 k.toNat 4 n.toNat 0 = _; simp only [w3, pack, BitVec.toNat_ofNat, BitVec.toNat_ofBool]; omega) 34 rfl rfl rfl rfl decodeCpc
    (fields_Cpc _ (fld_pack _ 26 6 34 rfl)) nofun
    (by unfold decodeCpc; rw [fld_pack _ 11 3 3 rfl]; rw [fld_pack _ 5 6 0 rfl, fld_pack _ 20 6 0 rfl, bits_pack _ 14 6 a rfl, flag_pack _ 4 k rfl, bits_pack _ 0 4 n rfl]; rfl)

theorem bxExp (n a : GReg) : Statement (.bxExp n a) :=
  word_law [⟨11, 0#11⟩, ⟨3, 4#3⟩, ⟨6, a⟩, ⟨6, n⟩, ⟨6, 34#6⟩]
    (by show w2 0x88002000 n.toNat 20 a.toNat 14 = _; simp only [w2, pack, BitVec.toNat_ofNat]; omega) 34 rfl rfl rfl rfl decodeCpc
    (fields_Cpc _ (fld_pack _ 26 6 34 rfl)) nofun
    (by unfold decodeCpc; rw [fld_pack _ 11 3 4 rfl]; rw [fld_pack _ 0 11 0 rfl, bits_pack _ 20 6 n rfl, bits_pack _ 14 6 a rfl]; rfl)

theorem bxWait (d a : GReg) : Statement (.bxWait d a) :=
  word_law [⟨11, 0#11⟩, ⟨3, 5#3⟩, ⟨6, a⟩, ⟨6, d⟩, ⟨6, 34#6⟩]
    (by show w2 0x88002800 d.toNat 20 a.toNat 14 = _; simp only [w2, pack, BitVec.toNat_ofNat]; omega) 34 rfl rfl rfl rfl decodeCpc
    (fields_Cpc _ (fld_pack _ 26 6 34 rfl)) nofun
    (by unfold decodeCpc; rw [fld_pack _ 11 3 5 rfl]; rw [fld_pack _ 0 11 0 rfl, bits_pack _ 20 6 d rfl, bits_pack _ 14 6 a rfl]; rfl)

theorem cpsel (n : BitVec 4) : Statement (.cpsel n) :=
  word_law [⟨4, n⟩, ⟨7, 0#7⟩, ⟨3, 6#3⟩, ⟨12, 0#12⟩, ⟨6, 34#6⟩]
    (by show w1 0x88003000 n.toNat 0 = _; simp only [w1, pack, BitVec.toNat_ofNat]; omega) 34 rfl rfl rfl rfl decodeCpc
    (fields_Cpc _ (fld_pack _ 26 6 34 rfl)) nofun
    (by unfold decodeCpc; rw [fld_pack _ 11 3 6 rfl]; rw [fld_pack _ 4 7 0 rfl, fld_pack _ 14 12 0 rfl, bits_pack _ 0 4 n rfl]; rfl)

theorem moduleLoad (space part : Nat) (file : List Byte) (plan : LoadPlan) : Statement (.moduleLoad space part file plan) := event_law _ rfl rfl

theorem moduleRemove (space modNo : Nat) : Statement (.moduleRemove space modNo) := event_law _ rfl rfl

theorem wakeWrite (offset bytes : Nat) (data : BitVec 512) : Statement (.wakeWrite offset bytes data) := event_law _ rfl rfl

theorem timerFire (i : Nat) : Statement (.timerFire i) := event_law _ rfl rfl

theorem peerMessageReceive (port : BitVec 3) (device : BitVec 8) (queue : Nat) (msg : BitVec 512) : Statement (.peerMessageReceive port device queue msg) := event_law _ rfl rfl

theorem onyxDispatch (choice : Nat) : Statement (.onyxDispatch choice) := event_law _ rfl rfl

theorem teamPlace (i : Nat) : Statement (.teamPlace i) := event_law _ rfl rfl

theorem teamResume (team : Nat) : Statement (.teamResume team) := event_law _ rfl rfl

theorem handlerEntry (h : HartRef) : Statement (.handlerEntry h) := event_law _ rfl rfl

theorem streamTimeout (i : Nat) : Statement (.streamTimeout i) := event_law _ rfl rfl

theorem streamDrainComplete (i : Nat) : Statement (.streamDrainComplete i) := event_law _ rfl rfl

theorem queueEnable (q : Nat) : Statement (.queueEnable q) := event_law _ rfl rfl

theorem queueDisable (q : Nat) : Statement (.queueDisable q) := event_law _ rfl rfl

theorem queueMaxteamsWrite (q : Nat) (n : BitVec 12) : Statement (.queueMaxteamsWrite q n) := event_law _ rfl rfl

theorem partitionEnable (p : BitVec 3) : Statement (.partitionEnable p) := event_law _ rfl rfl

theorem partitionOut (p : BitVec 3) : Statement (.partitionOut p) := event_law _ rfl rfl

theorem partitionHaltComplete (p : BitVec 3) : Statement (.partitionHaltComplete p) := event_law _ rfl rfl

theorem partitionIn (p : BitVec 3) : Statement (.partitionIn p) := event_law _ rfl rfl

theorem partitionRestoreComplete (p : BitVec 3) : Statement (.partitionRestoreComplete p) := event_law _ rfl rfl

theorem teamMove (team facet cluster : Nat) : Statement (.teamMove team facet cluster) := event_law _ rfl rfl

theorem teamMoveComplete (team : Nat) : Statement (.teamMoveComplete team) := event_law _ rfl rfl

theorem laneRequestAge (h : HartRef) : Statement (.laneRequestAge h) := event_law _ rfl rfl

theorem vqEntryCommit (h : HartRef) : Statement (.vqEntryCommit h) := event_law _ rfl rfl

theorem setvlGrant (h : HartRef) : Statement (.setvlGrant h) := event_law _ rfl rfl

theorem rebind (h : HartRef) : Statement (.rebind h) := event_law _ rfl rfl

theorem fold (h : HartRef) (elems : Nat) : Statement (.fold h elems) := event_law _ rfl rfl

theorem unfold (h : HartRef) : Statement (.unfold h) := event_law _ rfl rfl

theorem storeLineTranslate (h : HartRef) (i : Nat) : Statement (.storeLineTranslate h i) := event_law _ rfl rfl

theorem homeRequest (h : HartRef) (va : Word) (kind : AccessKind) : Statement (.homeRequest h va kind) := event_law _ rfl rfl

theorem migStallResume (h : HartRef) (i : Nat) : Statement (.migStallResume h i) := event_law _ rfl rfl

theorem frameRelease (frame : Nat) : Statement (.frameRelease frame) := event_law _ rfl rfl

theorem frameReleaseComplete (frame : Nat) : Statement (.frameReleaseComplete frame) := event_law _ rfl rfl

theorem hostMemAccess (pa : Nat) (data : Option (BitVec 512)) (hold : HostMeta) : Statement (.hostMemAccess pa data hold) := event_law _ rfl rfl

theorem hostBirsp (line : Nat) (writeBack : Option (BitVec 1024)) : Statement (.hostBirsp line writeBack) := event_law _ rfl rfl

theorem hostSnoopTimeout (line : Nat) : Statement (.hostSnoopTimeout line) := event_law _ rfl rfl

theorem copyRowComplete (h : HartRef) (stream : BitVec 4) (op row : Nat) : Statement (.copyRowComplete h stream op row) := event_law _ rfl rfl

theorem copyRowFault (h : HartRef) (stream : BitVec 4) (op row : Nat) : Statement (.copyRowFault h stream op row) := event_law _ rfl rfl

theorem barrierComplete (kind : BarKind) (owner facet : Nat) (b : BitVec 3) : Statement (.barrierComplete kind owner facet b) := event_law _ rfl rfl

theorem barrierPhaseRelease (h : HartRef) : Statement (.barrierPhaseRelease h) := event_law _ rfl rfl

theorem phasePlanWrite (facet dw : Nat) (value : Word) : Statement (.phasePlanWrite facet dw value) := event_law _ rfl rfl

theorem asyncCauseTake (h : HartRef) : Statement (.asyncCauseTake h) := event_law _ rfl rfl

theorem watchdog (h : HartRef) : Statement (.watchdog h) := event_law _ rfl rfl

theorem yieldTimeout (h : HartRef) : Statement (.yieldTimeout h) := event_law _ rfl rfl

theorem governorTick (facet ratio : Nat) : Statement (.governorTick facet ratio) := event_law _ rfl rfl

theorem governorStep (facet : Nat) (draw : Draw) : Statement (.governorStep facet draw) := event_law _ rfl rfl

theorem governorWrite (facet dw : Nat) (value : Word) : Statement (.governorWrite facet dw value) := event_law _ rfl rfl

theorem laneClockGate (h : HartRef) : Statement (.laneClockGate h) := event_law _ rfl rfl

theorem matrixGate (h : HartRef) : Statement (.matrixGate h) := event_law _ rfl rfl

theorem thermalWarn (facet : Nat) (temp : BitVec 8) : Statement (.thermalWarn facet temp) := event_law _ rfl rfl

theorem throttleStep (facet : Nat) : Statement (.throttleStep facet) := event_law _ rfl rfl

theorem thermalEmergency (facet : Nat) (temp : BitVec 8) : Statement (.thermalEmergency facet temp) := event_law _ rfl rfl

theorem emergencyStageComplete : Statement (.emergencyStageComplete) := event_law _ rfl rfl

theorem thermalResume : Statement (.thermalResume) := event_law _ rfl rfl

theorem hardTrip (facet : Nat) (temp : BitVec 8) : Statement (.hardTrip facet temp) := event_law _ rfl rfl

theorem postmortemClear : Statement (.postmortemClear) := event_law _ rfl rfl

theorem energyUpdate (added : List (Nat × Nat)) : Statement (.energyUpdate added) := event_law _ rfl rfl

theorem energyLowRead (requester offset : Nat) : Statement (.energyLowRead requester offset) := event_law _ rfl rfl

theorem energyHighRead (requester offset : Nat) : Statement (.energyHighRead requester offset) := event_law _ rfl rfl

theorem teamIdleRetire (team : Nat) : Statement (.teamIdleRetire team) := event_law _ rfl rfl

theorem accountingUpdate : Statement (.accountingUpdate) := event_law _ rfl rfl

theorem accountingClear (space : Nat) : Statement (.accountingClear space) := event_law _ rfl rfl

theorem timeStep (delta : Word) : Statement (.timeStep delta) := event_law _ rfl rfl

theorem ppsEdge : Statement (.ppsEdge) := event_law _ rfl rfl

theorem ppsTimeout : Statement (.ppsTimeout) := event_law _ rfl rfl

theorem coldReset (image : Image) (trained : Bool) : Statement (.coldReset image trained) := event_law _ rfl rfl

theorem hcmdRestart : Statement (.hcmdRestart) := event_law _ rfl rfl

theorem hcmdInstall : Statement (.hcmdInstall) := event_law _ rfl rfl

theorem doeImageWrite (image : Image) : Statement (.doeImageWrite image) := event_law _ rfl rfl

theorem attestRequest (nonce : BitVec 256) : Statement (.attestRequest nonce) := event_law _ rfl rfl

theorem attestResponseReady : Statement (.attestResponseReady) := event_law _ rfl rfl

theorem cxlLinkTrain (features : Bool) : Statement (.cxlLinkTrain features) := event_law _ rfl rfl

theorem peerLinkUp (port : BitVec 3) (peer : BitVec 8) : Statement (.peerLinkUp port peer) := event_law _ rfl rfl

theorem peerLinkDown (port : BitVec 3) : Statement (.peerLinkDown port) := event_law _ rfl rfl

theorem configWrite (offset : BarOffset) (value : Word) : Statement (.configWrite offset value) := event_law _ rfl rfl

theorem illegalWord (w : BitVec 32) (second : Option (BitVec 32)) : Statement (.illegalWord w second) := event_law _ rfl rfl

theorem continuation (w : BitVec 32) : Statement (.continuation w) := event_law _ rfl rfl

theorem ptsyncDropComplete (h : HartRef) : Statement (.ptsyncDropComplete h) := event_law _ rfl rfl

theorem invalComplete (h : HartRef) : Statement (.invalComplete h) := event_law _ rfl rfl

theorem hostWindowCompletion (h : HartRef) (seq : Word) (data : BitVec 512) : Statement (.hostWindowCompletion h seq data) := event_law _ rfl rfl

theorem flitRetry (port : BitVec 3) : Statement (.flitRetry port) := event_law _ rfl rfl

theorem hostToDeviceSnoop (pa : Nat) : Statement (.hostToDeviceSnoop pa) := event_law _ rfl rfl

end Sys2Proof.Laws.RoundTrip
end

