-- ==== Sys2Proof/Laws/Shared.lean ====
section
/-! SUPPORT. What operations shared by several events can change, said once: stopping a team, giving up copies of a line, writing a saved
context, and what a store line's home answers. -/

namespace Sys2Proof.Machine

/-- Squashing reads changes the accesses in flight only. -/
theorem squashReads_eq (s : State) (p : WindowOp → Bool) : s.squashReads p = { s with windowOps := (s.squashReads p).windowOps } := rfl

/-- No write is squashed (Table 6.5). -/
theorem squashReads_keeps (s : State) (p : WindowOp → Bool) (o : WindowOp) (h : o ∈ s.windowOps) (hw : o.write = true) :
    o ∈ (s.squashReads p).windowOps := by
  simp [State.squashReads, h, hw]

/-- That a team's harts are out is noted in the barriers of the team and of its farm only. -/
theorem noteOut_eq (s : State) (uid : Nat) :
    noteOut s uid = { s with teams := (noteOut s uid).teams, farms := (noteOut s uid).farms } := by
  unfold noteOut; split <;> rfl

/-- Stopping a team changes harts, teams, the barriers of farms and the accesses in flight only. -/
theorem stopTeam_eq (s : State) (uid : Nat) (st : TeamStatus) (why : StopReason) :
    stopTeam s uid st why = { s with
      hart := (stopTeam s uid st why).hart, others := (stopTeam s uid st why).others, teams := (stopTeam s uid st why).teams
      farms := (stopTeam s uid st why).farms, windowOps := (stopTeam s uid st why).windowOps } := by
  have h := noteOut_eq s uid
  unfold stopTeam State.updHarts State.updTeam State.squashReads
  rw [h]

/-- Cleaning a line changes HBM's own bytes only. -/
theorem cleanLine_eq (s : State) (p : Nat) : cleanLine s p = { s with backing := (cleanLine s p).backing } := rfl

/-- A copy that leaves its cache changes the copies and HBM's own bytes only. -/
theorem removeCopy_eq (s : State) (c : CacheLine) :
    removeCopy s c = { s with lines := (removeCopy s c).lines, backing := (removeCopy s c).backing } := by
  unfold removeCopy; dsimp only; split <;> rfl

/-- A copy that leaves its cache adds none. -/
theorem removeCopy_lines (s : State) (c d : CacheLine) (h : d ∈ (removeCopy s c).lines) : d ∈ s.lines := by
  unfold removeCopy at h
  dsimp only at h
  split at h <;> exact (List.mem_filter.mp h).1

/-- Not keeping a line in an L2 changes the copies and HBM's own bytes only. -/
theorem forgetL2_eq (s : State) (cs v : Nat) :
    forgetL2 s cs v = { s with lines := (forgetL2 s cs v).lines, backing := (forgetL2 s cs v).backing } := by
  unfold forgetL2
  cases copyAt s (.l2 s.hart.id.facet) cs v with
  | none => rfl
  | some c => exact removeCopy_eq s c

/-- Keeping a line held changes the current hart only. -/
theorem keepHeld_eq (s : State) (i : Nat) (c : BitVec 8) : s.keepHeld i c = s.withHart (s.keepHeld i c).hart := rfl

/-- A physical write of HBM changes bytes and copies only. -/
theorem frameWrite_eq (s : State) (pa n d m : Nat) : frameWrite s pa n d m = { s with
    mem := (frameWrite s pa n d m).mem, backing := (frameWrite s pa n d m).backing, lines := (frameWrite s pa n d m).lines } := rfl

/-- Only bytes of HBM and copies of lines tell two states apart. -/
def OnlyBytes (s t : State) : Prop := t = { s with mem := t.mem, backing := t.backing, lines := t.lines }

/-- Operations that change bytes and copies only, one after the other, do so too. -/
theorem OnlyBytes.foldl {α : Type} (f : State → α → State) (hf : ∀ s a, OnlyBytes s (f s a)) (l : List α) (s : State) :
    OnlyBytes s (l.foldl f s) := by
  induction l generalizing s with
  | nil => rfl
  | cons a l ih =>
    have h := ih (f s a)
    unfold OnlyBytes at h ⊢
    rw [List.foldl_cons, h, hf s a]

/-- Writing a saved context changes bytes and copies only (R54, R388). -/
theorem writeContext_only (s : State) (base n : Nat) : OnlyBytes s (writeContext s base n) := by
  refine OnlyBytes.foldl _ (fun x i => ?_) _ s
  split
  · exact frameWrite_eq ..
  · rfl

/-- A line goes on from the leaf that its home finds (R243). -/
theorem atHome_ok (s s1 : State) (i pte : Nat) (l : StoreLine) (k : Nat → State → LineRes)
    (h : home s s.sp s.pt (l.line * 128) .store = (.ok pte, s1)) : atHome s i l k = k pte s1 := by
  unfold atHome; rw [h]

/-- A home that refuses a line leaves it to its record (R247, R360). -/
theorem atHome_fault (s s1 : State) (i c : Nat) (l : StoreLine) (k : Nat → State → LineRes)
    (h : home s s.sp s.pt (l.line * 128) .store = (.fault c, s1)) : atHome s i l k = .refused (BitVec.ofNat 8 c) s1 := by
  unfold atHome; rw [h]

/-- A line whose page migrates waits as such (R248). -/
theorem atHome_mig (s s1 : State) (i : Nat) (l : StoreLine) (k : Nat → State → LineRes)
    (h : home s s.sp s.pt (l.line * 128) .store = (.mig, s1)) :
    atHome s i l k = .moved (s1.setLine i (fun k => { k with stage := .migrating })) := by
  unfold atHome; rw [h]

/-- A line whose home waits for the host stays where it is (R408). -/
theorem atHome_busy (s s1 : State) (i : Nat) (l : StoreLine) (k : Nat → State → LineRes)
    (h : home s s.sp s.pt (l.line * 128) .store = (.busy, s1)) : atHome s i l k = .stays s1 := by
  unfold atHome; rw [h]

end Sys2Proof.Machine
end

