-- ==== Sys2Proof/Laws/Trap.lean ====
section
/-! SUPPORT. What taking a trap and ending a handler by one leave. -/

namespace Sys2Proof.Machine

/-- Setting a queue aside makes it the image (R357). -/
theorem imageOf_setAside (q : List VqEntry) :
    ImageOf q (Vector.ofFn (fun (i : Fin 64) =>
      ((q ++ List.replicate 64 VqEntry.zero).take 64).getD i.val VqEntry.zero)) := by
  have key : ∀ i, i < 64 → (Vector.ofFn (fun (i : Fin 64) =>
      ((q ++ List.replicate 64 VqEntry.zero).take 64).getD i.val VqEntry.zero))[i]? =
      some (((q ++ List.replicate 64 VqEntry.zero)[i]?).getD VqEntry.zero) := by
    intro i hi
    rw [Vector.getElem?_eq_getElem hi, Vector.getElem_ofFn, List.getD_eq_getElem?_getD, List.getElem?_take_of_lt hi]
  constructor
  · intro i e hi he
    have hl := (List.getElem?_eq_some_iff.1 he).1
    rw [key i hi, List.getElem?_append_left hl, he]
    rfl
  · intro i hi hl
    rw [key i hi, List.getElem?_append_right hl, List.getElem?_replicate]
    split <;> rfl

/-- A trap that may be taken sets the trap registers, sets the queue aside and goes to the vector (R351, R357). -/
theorem takeTrap_taken (s : State) (t : Trap) (h : MayTrap s) (hs : t.vq = true ∨ headStarted s s.hart = false) (hc : t.code ≠ 0x09)
    (ha : t.async = false) :
    TrapTaken s (takeTrap s t) t.code t.vq t.pc (if t.vq then t.npc else t.pc) t.val t.elem
      (if t.counted then s.hart.sc.iseq + 1 else s.hart.sc.iseq) := by
  obtain ⟨h1, h2⟩ := h
  have e1 : (s.hart.tr.hm || !(s.space s.sp).teEn) = false := by rw [h1, h2]; rfl
  have e2 : (decide (t.code = 0x09) && t.async) = false := by rw [ha, Bool.and_false]
  have e3 : (!t.async && !t.vq && headStarted s s.hart) = false := by
    rcases hs with h | h <;> simp [h]
  have key : takeTrap s t = s.withHart { s.hart with
      sc := { s.hart.sc with
        pc := (s.space s.sp).tvec.setWidth 64 * 4
        iseq := if t.counted then s.hart.sc.iseq + 1 else s.hart.sc.iseq }
      ln := { s.hart.ln with req := none, headDevc := false, hmStart := 0, headFound := none }
      tr := { s.hart.tr with
        code := t.code, async := false, vq := t.vq, pc := t.pc, npc := if t.vq then t.npc else t.pc, val := t.val
        elem := t.elem, hm := true, vqn := BitVec.ofNat 7 s.hart.vq.length, vqsel := 0
        image := Vector.ofFn (fun (i : Fin 64) =>
          ((s.hart.vq ++ List.replicate 64 VqEntry.zero).take 64).getD i.val VqEntry.zero) }
      vq := []
      wait := .none
      due := none } := by
    unfold takeTrap
    simp only [e3, e1, Bool.false_eq_true, if_false, if_neg hc, e2]
    unfold setTrapRegs setAside
    simp only [ha, Space.vector]
  rw [key]
  exact ⟨imageOf_setAside _, rfl, SameBytes.rfl_hart _ _ rfl⟩

/-- A trap in handler mode, or without a trap handler, ends the handler (R353). -/
theorem takeTrap_ends (s : State) (t : Trap) (h : s.hart.tr.hm = true ∨ (s.space s.sp).teEn = false)
    (hs : t.vq = true ∨ headStarted s s.hart = false) (ha : t.async = false) :
    takeTrap s t = endByTrap s (doubleRecord s t) t.counted := by
  have e1 : (s.hart.tr.hm || !(s.space s.sp).teEn) = true := by
    rcases h with h | h <;> simp [h]
  have e2 : (decide (t.code = 0x09) && t.async) = false := by rw [ha, Bool.and_false]
  have e3 : (!t.async && !t.vq && headStarted s s.hart) = false := by
    rcases hs with h | h <;> simp [h]
  unfold takeTrap
  simp only [e3, e1, e2, if_true, Bool.false_eq_true, if_false]

end Sys2Proof.Machine
end

