-- ==== Sys2Proof/Laws/Vector.lean ====
section
/-! SUPPORT. A vector instruction from issue to commit: the entry that it pushes decodes to it, and what the head's answer makes
of the device. -/

namespace Sys2Proof.Machine

/-- The entry pushed for an instruction of R144 decodes to it at the head. -/
theorem entryOf_instr (s : State) (i : Instr) (a b d0 d1 d2 : Word) (h : Laws.RoundTrip.Statement i)
    (hq : i.queued = true) (hw : i.wellFormed = true) : (entryOf s i a b d0 d1 d2).instr = some i := by
  obtain ⟨hlt, hd⟩ := (h hw).2 hq
  simp only [VqEntry.instr, entryOf, wordOf, BitVec.toNat_ofNat, Nat.mod_eq_of_lt hlt, hd, checked, Option.filter, hw, if_true]

/-- The state after an instruction of R144 has issued. -/
def pushed (s : State) (i : Instr) (a b d0 d1 d2 : Word) : State :=
  (s.withHart (s.hart.push (entryOf s i a b d0 d1 d2))).advance 4

/-- Where the queue has room, a vector instruction is pushed (R144). -/
theorem issueDims_pushed (s : State) (i : Instr) (a b d0 d1 d2 : Word) (h : VecReady s) :
    issueDims i a b d0 d1 d2 s = .next (pushed s i a b d0 d1 d2) := by
  obtain ⟨_, hq, ho, _⟩ := h
  unfold issueDims
  rw [if_neg (by rcases ho with h | h <;> simp [h]), if_neg (by simp [hq])]
  rfl

/-- What a commit of the entry just pushed answers (R145). -/
theorem commit_pushed (s : State) (i : Instr) (a b d0 d1 d2 : Word) (h : VecReady s) (hs : Laws.RoundTrip.Statement i)
    (hq : i.queued = true) (hw : i.wellFormed = true) :
    exec (.vqEntryCommit s.hart.id.ref) (pushed s i a b d0 d1 d2) =
      headOutcome (pushed s i a b d0 d1 d2) (entryOf s i a b d0 d1 d2) (mxInstr i)
        (runHead i (entryOf s i a b d0 d1 d2) (pushed s i a b d0 d1 d2)) := by
  obtain ⟨⟨hrun, _, hout⟩, hvq, _, hrel, _⟩ := h
  have hact : (pushed s i a b d0 d1 d2).activate s.hart.id.ref = some (pushed s i a b d0 d1 d2) := by
    unfold State.activate
    rw [if_pos (by simp [pushed, State.advance, Hart.advance, Hart.push, hrun])]
  have hruns : queueRuns (pushed s i a b d0 d1 d2) = true := by
    simp only [queueRuns, pushed, State.advance, Hart.advance, Hart.push, State.withHart_hart, hrun, isOut, State.team?,
      State.withHart_teams, beq_self_eq_true, Bool.true_and] at hout ⊢
    simp [hout]
  show execVqEntryCommit _ _ = _
  unfold execVqEntryCommit
  rw [hact]
  simp only [hruns, if_true]
  have hq1 : (pushed s i a b d0 d1 d2).hart.vq = [entryOf s i a b d0 d1 d2] := by
    simp [pushed, State.advance, Hart.advance, Hart.push, hvq]
  unfold stepHead
  rw [hq1]
  simp only [entryOf_instr s i a b d0 d1 d2 hs hq hw]
  rw [if_neg]
  simp [pushed, State.advance, Hart.advance, Hart.push, hrel]

/-! ## Registers from their elements -/

/-- Elements packed side by side take their own number of bits. -/
theorem packElems_lt (w : Nat) (xs : List Nat) : packElems w xs < 2 ^ (xs.length * w) := by
  induction xs with
  | nil => simp [packElems]
  | cons x xs ih =>
    have hx : x % 2 ^ w < 2 ^ w := Nat.mod_lt _ (by positivity)
    simp only [packElems, List.foldr_cons, List.length_cons, Nat.add_mul, Nat.one_mul, Nat.pow_add] at ih ⊢
    have h1 := Nat.mul_le_mul_right (2 ^ w) (Nat.succ_le_of_lt ih)
    simp only [Nat.succ_mul, Nat.succ_eq_add_one] at h1
    omega

/-- What stands at element j of packed elements. -/
theorem natBits_packElems (w : Nat) (xs : List Nat) (j : Nat) : natBits (packElems w xs) (j * w) w = (xs[j]?.getD 0) % 2 ^ w := by
  induction xs generalizing j with
  | nil => simp [packElems, natBits]
  | cons x xs ih =>
    have h : packElems w (x :: xs) = x % 2 ^ w + packElems w xs * 2 ^ w := rfl
    rw [h]
    cases j with
    | zero => simp [natBits]
    | succ j =>
      have := ih j
      simp only [natBits, List.getElem?_cons_succ] at this ⊢
      rw [← this, Nat.add_mul, Nat.one_mul, Nat.pow_add, Nat.mul_comm (2 ^ (j * w)), ← Nat.div_div_eq_div_mul,
        Nat.add_mul_div_right _ _ (by positivity), Nat.div_eq_of_lt (Nat.mod_lt _ (by positivity)), Nat.zero_add]

/-- A register made of elements is below 2^VL.LEN. -/
theorem vecOf_lt (h : Hart) (t : Fmt) (f : Nat → Nat) : (vecOf h t f).bits.toNat < 2 ^ h.ln.len := by
  have h1 := packElems_lt (width t) ((List.range (h.elems (width t))).map f)
  have h2 : h.elems (width t) * width t ≤ h.ln.len := Nat.div_mul_le_self _ _
  simp only [List.length_map, List.length_range] at h1
  simp only [vecOf, BitVec.toNat_ofNat]
  exact lt_of_le_of_lt (Nat.mod_le _ _) (lt_of_lt_of_le h1 (Nat.pow_le_pow_right (by omega) h2))

/-- An element of a register made of elements. -/
theorem vecOf_elem (h : Hart) (t : Fmt) (f : Nat → Nat) (hl : h.ln.len ≤ 65536) (j : Nat) (hj : j < h.elems (width t)) :
    (vecOf h t f).elem (width t) j = f j % 2 ^ width t := by
  have h1 := packElems_lt (width t) ((List.range (h.elems (width t))).map f)
  have h2 : h.elems (width t) * width t ≤ h.ln.len := Nat.div_mul_le_self _ _
  simp only [List.length_map, List.length_range] at h1
  have h3 : 2 ^ (h.elems (width t) * width t) ≤ 2 ^ 65536 := Nat.pow_le_pow_right (by omega) (by omega)
  simp only [vecOf, VecReg.elem, BitVec.toNat_ofNat]
  rw [Nat.mod_eq_of_lt (lt_of_lt_of_le h1 h3), natBits_packElems]
  simp [hj]

/-- A bit of a predicate made of bits. -/
theorem predOf_bit (h : Hart) (f : Nat → Bool) (hl : h.ln.len ≤ 65536) (k : Nat) :
    (predOf h f).getLsbD k = (decide (k < h.elems 4) && f k) := by
  have h1 := packElems_lt 1 ((List.range (h.elems 4)).map (fun i => if f i then 1 else 0))
  simp only [List.length_map, List.length_range, Nat.mul_one] at h1
  have h2 : h.elems 4 ≤ 16384 := by simp only [Hart.elems]; omega
  have h3 : 2 ^ h.elems 4 ≤ 2 ^ 16384 := Nat.pow_le_pow_right (by omega) h2
  have h4 := natBits_packElems 1 ((List.range (h.elems 4)).map (fun i => if f i then 1 else 0)) k
  simp only [natBits, Nat.mul_one, pow_one] at h4
  simp only [predOf, BitVec.getLsbD, BitVec.toNat_ofNat, Nat.mod_eq_of_lt (lt_of_lt_of_le h1 h3), Nat.testBit_eq_decide_div_mod_eq]
  rw [h4]
  by_cases hk : k < h.elems 4
  · by_cases hf : f k <;> simp [hk, hf]
  · simp [hk]

/-! ## Results at a commit -/

theorem Hart.reg_setReg_same (h : Hart) (d : VReg) (r : VecReg) : (h.setReg d r).reg d = r := by
  have := d.isLt
  simp only [Hart.setReg, Hart.reg, vget, vset]
  rw [Vector.getElem?_setIfInBounds]
  simp [this]

theorem Hart.reg_setReg_ne (h : Hart) (d q : VReg) (r : VecReg) (hq : q ≠ d) : (h.setReg d r).reg q = h.reg q := by
  have : d.toNat ≠ q.toNat := fun e => hq (BitVec.eq_of_toNat_eq e.symm)
  simp only [Hart.setReg, Hart.reg, vget, vset]
  rw [Vector.getElem?_setIfInBounds]
  simp [this]

/-- The commit of an entry that writes a vector register, raises flags, and may count a stochastic instruction (R176, R190). -/
theorem writesReg_of_head (s : State) (i : Instr) (a b d0 d1 d2 : Word) (h : VecReady s) (hs : Laws.RoundTrip.Statement i)
    (hq : i.queued = true) (hw : i.wellFormed = true) (he : exec i s = issueDims i a b d0 d1 d2 s) (d : VReg) (r : VecReg)
    (f : BitVec 5) (draws : Bool) (x : Nat → Nat)
    (hh : runHead i (entryOf s i a b d0 d1 d2) (pushed s i a b d0 d1 d2) =
      commitHart (pushed s i a b d0 d1 d2) ((((pushed s i a b d0 d1 d2).hart.setReg d r).raise f).drew draws))
    (hlt : r.bits.toNat < 2 ^ s.hart.ln.len)
    (hx : ∀ j, j < s.hart.elems (width r.tag) → r.elem (width r.tag) j = x j % 2 ^ width r.tag) :
    WritesReg s i d r.tag x f draws := by
  have h' := h
  obtain ⟨_, hvq, _⟩ := h'
  refine ⟨_, ⟨_, he.trans (issueDims_pushed s i a b d0 d1 d2 h), (commit_pushed s i a b d0 d1 d2 h hs hq hw).trans
    (by rw [hh]; rfl)⟩, ⟨?_, SameBytes.rfl_hart s _ ?_⟩, ?_, ?_, ?_, ?_, ?_, ?_⟩
  · cases draws <;> simp [pushed, State.advance, Hart.advance, Hart.push, Hart.commitHead, Hart.drew, Hart.raise, Hart.setReg,
      Hart.wentOn, Lanes.worked, hvq]
  · cases draws <;> rfl
  · cases draws <;> exact fun _ => rfl
  · cases draws <;> rfl
  · intro q hne
    cases draws <;> exact Hart.reg_setReg_ne s.hart d q r hne
  · have : ∀ k : Hart, k.vec = (s.hart.setReg d r).vec → k.tag d = r.tag := fun k e => by
      unfold Hart.tag Hart.reg
      rw [e]
      exact congrArg VecReg.tag (Hart.reg_setReg_same s.hart d r)
    cases draws <;> exact this _ rfl
  · have : ∀ k : Hart, k.vec = (s.hart.setReg d r).vec → k.reg d = r := fun k e => by
      unfold Hart.reg
      rw [e]
      exact Hart.reg_setReg_same s.hart d r
    cases draws <;> exact (congrArg (fun x : VecReg => x.bits.toNat) (this _ rfl)).trans_lt hlt
  · have : ∀ k : Hart, k.vec = (s.hart.setReg d r).vec → k.reg d = r := fun k e => by
      unfold Hart.reg
      rw [e]
      exact Hart.reg_setReg_same s.hart d r
    intro j hj
    cases draws <;> exact (congrArg (fun x : VecReg => x.elem (width r.tag) j) (this _ rfl)).trans (hx j hj)

/-- The commit of an entry of chapter 8 that passes its Format conditions (R190). -/
theorem writesReg_of_runVec (s : State) (i : Instr) (a b d0 d1 d2 : Word) (h : VecReady s) (hs : Laws.RoundTrip.Statement i)
    (hq : i.queued = true) (hw : i.wellFormed = true) (he : exec i s = issueDims i a b d0 d1 d2 s) (d : VReg) (ta tb : Fmt)
    (op : VecOp) (hh : runHead i (entryOf s i a b d0 d1 d2) (pushed s i a b d0 d1 d2) =
      runVec (pushed s i a b d0 d1 d2) (entryOf s i a b d0 d1 d2) d ta tb op)
    (hok : op.ok = true) (hm : s.hart.mergesInto d op.fmt op.zero) :
    WritesReg s i d op.fmt (s.hart.merged d op.fmt op.pred op.zero (fun j => (op.result j).1))
      (s.hart.flagsOf op.pred (width op.fmt) (fun j => (op.result j).2))
      (op.stochastic && !(s.hart.actives op.pred (width op.fmt)).isEmpty) := by
  have hl : s.hart.ln.len ≠ 0 := by have := h.2.2.2.2.1; omega
  refine writesReg_of_head s i a b d0 d1 d2 h hs hq hw he d
    (vecOf s.hart op.fmt (s.hart.merged d op.fmt op.pred op.zero (fun j => (op.result j).1))) _ _ _ ?_ (vecOf_lt _ _ _)
    (fun j hj => vecOf_elem _ _ _ h.2.2.2.2.2 j hj)
  rw [hh]
  unfold runVec granting
  rw [if_neg (show ¬(pushed s i a b d0 d1 d2).hart.ln.len = 0 from hl), if_pos]
  · rfl
  · simp only [hok, Bool.true_and, Bool.or_eq_true, beq_iff_eq]
    rcases hm with h | h | h
    · exact .inl (.inl h)
    · exact .inl (.inr h)
    · exact .inr h

/-- The commit of an entry that writes a predicate, with flags. -/
theorem writesPred_of_head (s : State) (i : Instr) (a b d0 d1 d2 : Word) (h : VecReady s) (hs : Laws.RoundTrip.Statement i)
    (hq : i.queued = true) (hw : i.wellFormed = true) (he : exec i s = issueDims i a b d0 d1 d2 s) (d : PReg) (hd : d ≠ 0)
    (f : BitVec 5) (x : Nat → Bool)
    (hh : runHead i (entryOf s i a b d0 d1 d2) (pushed s i a b d0 d1 d2) =
      commitHart (pushed s i a b d0 d1 d2) (((pushed s i a b d0 d1 d2).hart.setPred d (predOf s.hart x)).raise f)) :
    WritesPred s i d x f := by
  have h' := h
  obtain ⟨_, hvq, _⟩ := h'
  refine ⟨_, ⟨_, he.trans (issueDims_pushed s i a b d0 d1 d2 h), (commit_pushed s i a b d0 d1 d2 h hs hq hw).trans
    (by rw [hh]; rfl)⟩, ⟨?_, SameBytes.rfl_hart s _ ?_⟩, ?_, ?_, ?_, ?_⟩
  · unfold Hart.setPred
    rw [if_neg hd]
    simp [pushed, State.advance, Hart.advance, Hart.push, Hart.commitHead, Hart.raise, Hart.wentOn, Lanes.worked, hvq]
  · unfold Hart.setPred
    rw [if_neg hd]
    rfl
  · unfold Hart.setPred
    rw [if_neg hd]
    exact fun _ => rfl
  · unfold Hart.setPred
    rw [if_neg hd]
    rfl
  · intro q k hne
    have hqd : d.toNat ≠ q.toNat := fun e => hne (BitVec.eq_of_toNat_eq e.symm)
    unfold Hart.setPred
    rw [if_neg hd]
    have : ∀ v : Hart, v.vec.p = vset s.hart.vec.p d.toNat (predOf s.hart x) → v.pbit q k = s.hart.pbit q k := fun v e => by
      simp only [Hart.pbit, e, vget, vset]
      rw [Vector.getElem?_setIfInBounds]
      simp [hqd]
    exact this _ rfl
  · intro k
    unfold Hart.setPred
    rw [if_neg hd]
    have : ∀ v : Hart, v.vec.p = vset s.hart.vec.p d.toNat (predOf s.hart x) →
        v.pbit d k = (decide (k < s.hart.elems 4) && x k) := fun v e => by
      have := d.isLt
      simp only [Hart.pbit, e, vget, vset]
      rw [Vector.getElem?_setIfInBounds]
      have hd' : ¬d = 0#3 := hd
      simp [hd', this, predOf_bit s.hart x h.2.2.2.2.2 k]
    exact this _ rfl

/-- The commit of an entry that writes a general register and nothing else. -/
theorem commitsG_of_head (s : State) (i : Instr) (a b d0 d1 d2 : Word) (h : VecReady s) (hs : Laws.RoundTrip.Statement i)
    (hq : i.queued = true) (hw : i.wellFormed = true) (he : exec i s = issueDims i a b d0 d1 d2 s) (d : GReg) (x : Word)
    (hh : runHead i (entryOf s i a b d0 d1 d2) (pushed s i a b d0 d1 d2) =
      commitHart (pushed s i a b d0 d1 d2) ((pushed s i a b d0 d1 d2).hart.setG d x)) : CommitsG s i d x := by
  have h' := h
  obtain ⟨_, hvq, _⟩ := h'
  refine ⟨_, ⟨_, he.trans (issueDims_pushed s i a b d0 d1 d2 h), (commit_pushed s i a b d0 d1 d2 h hs hq hw).trans
    (by rw [hh]; rfl)⟩, ⟨?_, SameBytes.rfl_hart s _ ?_⟩, ⟨rfl, fun hd => ?_, fun r hr => ?_⟩, ?_⟩
  · unfold Hart.setG
    split <;> simp [pushed, State.advance, Hart.advance, Hart.push, Hart.commitHead, Hart.wentOn, Lanes.worked, hvq]
  · unfold Hart.setG
    split <;> rfl
  · exact Hart.getG_setG_same (pushed s i a b d0 d1 d2).hart d x hd
  · exact Hart.getG_setG_ne (pushed s i a b d0 d1 d2).hart d r x hr
  · unfold Hart.setG
    split <;> rfl

end Sys2Proof.Machine
end

