-- ==== Sys2Proof/Tests/Slice0.lean ====
section
/-! SUPPORT. Tests of the model: ill-formed terms, words of the spec's own examples, one-step tests whose results the spec states,
and states that meet the hypotheses of the statements. -/

namespace Sys2Proof.Tests

open Sys2Proof Sys2Proof.Machine

set_option Elab.async false

/-! ## Ill-formed terms (R74, R82, R98, R213, R335) -/

theorem test_ill_formed_system : ∀ i ∈ [Instr.sysrd 1 0x005, .sysrd 1 0x103, .syswr 1 0x118, .syswr 1 0x7FF, .fence 0 .team,
    .fence 5 .system, .fence 7 .facet, .barArv 1 0 .system, .barWt 1 2 0 .system, .barSy 1 0 .system],
    i.wellFormed = false := by decide

theorem test_ill_formed_predicates : ∀ i ∈ [Instr.vcmpeq 0 1 2 0 false, .vcmpne 0 1 2 0 false, .vcmplt 0 1 2 0 false,
    .vcmple 0 1 2 0 false, .vcmpgt 0 1 2 0 false, .vcmpge 0 1 2 0 false, .vcmpuo 0 1 2 0 false, .vcmpcls 0 1 2 0 true,
    .vcmpeqVx 0 1 2 0 false, .vcmpneVx 0 1 2 0 false, .vcmpltVx 0 1 2 0 false, .vcmpleVx 0 1 2 0 false, .vcmpgtVx 0 1 2 0 false,
    .vcmpgeVx 0 1 2 0 false, .vcmpuoVx 0 1 2 0 false, .vcmpclsVx 0 1 2 0 false, .pand 0 1 2, .por 0 1 2, .pxor 0 1 2, .pandn 0 1 2,
    .pbrk 0 1 2, .pnot 0 1, .pmov 0 1, .pset 5 0, .cpmask 0 3, .vldR 0 1 2 true, .vldR 8 1 2 true, .vstR 8 1 2 true],
    i.wellFormed = false := by decide

theorem test_ill_formed_formats : ∀ i ∈ [Instr.vcvt 1 2 .none 0 false 0 false 0, .vcvtBits 1 2 .none 0 false, .vld 1 2 3 0 .none,
    .vlds 1 2 3 0 .none, .vldx 1 2 3 0 .none, .vldff 1 2 3 0 .none, .vldAv 1 2 3 .none, .vldAm 1 2 3 .none, .mzero 0 .none,
    .mzero 0 .i32, .mzero 0 .n32, .mzero 0 .i64, .mzero 0 .n64, .mzero 0 .fp64], i.wellFormed = false := by decide

theorem test_well_formed_edges : ∀ i ∈ [Instr.sysrd 1 0x004, .sysrd 1 0x040, .syswr 1 0x117, .fence 1 .team, .fence 4 .system,
    .barSy 0 7 .package, .vcmpeq 7 1 2 0 false, .pset 5 1, .vldR 7 1 2 true, .vldR 0 1 2 false, .vstR 0 1 2 true, .mzero 3 .e2m1,
    .cpmask 1 15], i.wellFormed = true := by decide

/-! ## Decoding: words of the spec's own examples and of its tables -/

/-- Each word decodes to its instruction, and is the one encoding of it. -/
noncomputable def reads (l : List (BitVec 32 × Instr)) : Bool :=
  l.all (fun p => decide (decodeWord p.1 = .ok p.2) && encode p.2 == [p.1])

/-- Words of one shape: a base with each function code added. -/
def codes (base : BitVec 32) (l : List (BitVec 32 × Instr)) : List (BitVec 32 × Instr) := l.map (fun p => (base + p.1, p.2))

/-- Table 4.8 and the worked example of chapter 4. -/
theorem test_decode_integer : reads ([(0x0FFFFFFF, .lhi 63 0xFFFFF), (0x04820500, .add 8 8 5), (0x04714613, .div 7 5 6),
    (0x04714616, .remu 7 5 6), (0x0493D007, .srl 9 15 16), (0x0870E003, .slli 7 3 3), (0x08C2E011, .slli 12 11 17),
    (0x08C32831, .srli 12 12 49), (0x0C500024, .lhi 5 36), (0x08514345, .addi 5 5 837), (0x08518000, .addi 5 6 0)]) = true := by
  decide

/-- OP and OPI: every other function code of Table 4.3, as gd 1, gs1 2, gs2 3 (or imm11 −1). -/
theorem test_decode_op : reads (codes 0x04108300 [(1, .sub 1 2 3), (2, .and 1 2 3), (3, .or 1 2 3), (4, .xor 1 2 3), (5, .andn 1 2 3), (6, .sll 1 2 3),
    (8, .sra 1 2 3), (9, .rotr 1 2 3), (10, .slt 1 2 3), (11, .sltu 1 2 3), (12, .min 1 2 3), (13, .max 1 2 3), (14, .minu 1 2 3),
    (15, .maxu 1 2 3), (16, .mul 1 2 3), (17, .mulh 1 2 3), (18, .mulhu 1 2 3), (20, .divu 1 2 3), (21, .rem 1 2 3), (23, .addw 1 2 3),
    (24, .subw 1 2 3), (25, .mulw 1 2 3)] ++
    codes 0x04108000 [(26, .clz 1 2), (27, .ctz 1 2), (28, .popc 1 2), (29, .bswap 1 2), (30, .sxb 1 2), (31, .sxh 1 2), (32, .sxw 1 2),
      (33, .zxw 1 2)] ++
    [(0x08108FFF, .andi 1 2 (-1)), (0x081097FF, .ori 1 2 (-1)), (0x08109FFF, .xori 1 2 (-1)), (0x0810B03F, .srai 1 2 63),
      (0x0810BFFF, .slti 1 2 (-1))]) = true := by decide

/-- Branches and jumps: the program of chapter 5 and R72's neighbours. -/
theorem test_decode_control : reads ([(0x1BF00004, .jal 63 4), (0x1BF00009, .jal 63 9), (0x140A0003, .beqz 5 3), (0x148DFFFD, .bnez 6 (-3)),
    (0x1594000A, .bgez 10 10), (0x15160003, .bltz 11 3), (0x16020001, .bgtz 1 1), (0x16820001, .blez 1 1), (0x1C0FC000, .jalr 0 63 0),
    (0x10010BFF, .beq 1 2 (-1)), (0x10410800, .bne 1 2 0), (0x10810801, .blt 1 2 1), (0x10C10801, .bge 1 2 1), (0x11010801, .bltu 1 2 1),
    (0x11410A00, .bgeu 1 2 (-512))]) = true := by decide

theorem test_decode_long : decodeLong 0xF80948D1 0xFD6789AB = .ok (.liL 9 0x123456789AB) ∧
    decodeLong 0xF88517FF 0xFFFFFFFF = .ok (.addiL 5 5 (-1)) ∧ decodeLong 0xF87F0000 0xFC000002 = .ok (.jalL 63 2) ∧
    encode (.liL 9 0x123456789AB) = [0xF80948D1, 0xFD6789AB] := by decide

/-- Scalar loads, stores and atomics: words of chapters 4, 20 and 21. -/
theorem test_decode_memory : reads ([(0x20509820, .ldD 5 2 32), (0x24819800, .stD 8 6 0), (0x24E21800, .stD 14 8 0),
    (0x20108001, .ldB 1 2 1), (0x20108FFF, .ldH 1 2 (-1)), (0x20109004, .ldW 1 2 4), (0x2010A001, .ldBu 1 2 1), (0x2010A802, .ldHu 1 2 2),
    (0x2010B004, .ldWu 1 2 4), (0x24108001, .stB 1 2 1), (0x24108802, .stH 1 2 2), (0x24109004, .stW 1 2 4),
    (0x28B2A400, .ldAcqD 11 10 .package), (0x28D32400, .ldAcqD 13 12 .package), (0x28573C00, .stRelD 5 28 .system),
    (0x28108000, .ldAcqW 1 2 .team), (0x28109800, .stRelW 1 2 .facet), (0x2C81D80A, .amoIncb 8 7 24 .relaxed .team),
    (0x2C91C82A, .amoIncb 9 7 8 .relaxed .package), (0x2C024520, .amoAdd 0 9 5 .relaxed .package),
    (0x2C0209A0, .amoAdd 0 8 9 .release .package), (0x2C108371, .amoAnd 1 2 3 .acquire .system), (0x2C1083C2, .amoOr 1 2 3 .acqRel .team),
    (0x2C108303, .amoXor 1 2 3 .relaxed .team), (0x2C108304, .amoMin 1 2 3 .relaxed .team), (0x2C108305, .amoMax 1 2 3 .relaxed .team),
    (0x2C108306, .amoMinu 1 2 3 .relaxed .team), (0x2C108307, .amoMaxu 1 2 3 .relaxed .team), (0x2C108308, .amoSwap 1 2 3 .relaxed .team),
    (0x2C108309, .amoCas 1 2 3 .relaxed .team), (0x2C10830B, .amoFmin 1 2 3 .relaxed .team),
    (0x2C10830C, .amoFadd 1 2 3 .relaxed .team)]) = true := by decide

/-- Scalar floating point: R113's examples and the codes of Table 4.3. -/
theorem test_decode_fp : reads (codes 0x30108300 [(0, .faddS 1 2 3), (1, .faddD 1 2 3), (2, .fsubS 1 2 3), (3, .fsubD 1 2 3), (4, .fmulS 1 2 3),
    (5, .fmulD 1 2 3), (6, .fdivS 1 2 3), (7, .fdivD 1 2 3), (10, .fminS 1 2 3), (11, .fminD 1 2 3), (12, .fmaxS 1 2 3),
    (13, .fmaxD 1 2 3), (14, .fmacS 1 2 3), (15, .fmacD 1 2 3), (20, .feqS 1 2 3), (21, .feqD 1 2 3), (22, .fltS 1 2 3),
    (23, .fltD 1 2 3), (24, .fleS 1 2 3), (25, .fleD 1 2 3)] ++
    codes 0x30108000 [(8, .fsqrtS 1 2), (9, .fsqrtD 1 2), (16, .fnegS 1 2), (17, .fnegD 1 2), (18, .fabsS 1 2), (19, .fabsD 1 2), (26, .fclassS 1 2),
      (27, .fclassD 1 2), (28, .fcvtSD 1 2), (29, .fcvtDS 1 2), (30, .fcvtLS 1 2), (31, .fcvtLD 1 2), (32, .fcvtSL 1 2),
      (33, .fcvtDL 1 2)] ++
    [(0x30A2CC00, .faddS 10 11 12), (0x30A2CC0F, .fmacD 10 11 12)]) = true := by decide

/-- System instructions, ordering, barriers, strips: words of chapters 2, 4, 13, 14, 15 and 17. -/
theorem test_decode_system : reads ([(0x34B00010, .sysrd 11 0x010), (0x35C00001, .sysrd 28 0x001), (0x34500019, .sysrd 5 0x019),
    (0x34600030, .sysrd 6 0x030), (0x34058820, .syswr 22 0x020), (0x3401C900, .syswr 7 0x100), (0x34001005, .trap 5),
    (0x34001800, .done), (0x34002000, .yield), (0x34002800, .eret), (0x3492B040, .launch 9 10 64), (0x3451B800, .replay 5 6),
    (0x34503800, .replay 5 0), (0x3800000A, .fence 2 .package), (0x38001800, .barSy 0 0 .team), (0x38701806, .barSy 7 1 .package),
    (0x38001802, .barSy 0 0 .package), (0x38100805, .barArv 1 1 .facet), (0x38109004, .barWt 1 2 1 .team), (0x38802003, .stripTake 8 3),
    (0x3802600B, .stripDeclare 0 9 3), (0x38002800, .vsync false), (0x38002801, .vsync true), (0x38053000, .inval 0 20 0),
    (0x3895300F, .inval 9 20 15), (0x38003800, .ptsync 0 false), (0x38003801, .ptsync 0 true),
    (0x38027800, .ptsync 9 false)]) = true := by decide

/-- Vector arithmetic: VOP, VOPX and VOPI; words of chapters 4, 20 and 21 among them. -/
theorem test_decode_vector : reads (codes 0x40221980 [(0, .vadd 1 2 3 1 true), (1, .vsub 1 2 3 1 true), (2, .vmul 1 2 3 1 true), (3, .vdiv 1 2 3 1 true),
    (4, .vmin 1 2 3 1 true), (5, .vmax 1 2 3 1 true), (6, .vfma 1 2 3 1 true), (7, .vfms 1 2 3 1 true), (8, .vnfma 1 2 3 1 true),
    (12, .vand 1 2 3 1 true), (13, .vor 1 2 3 1 true), (14, .vxor 1 2 3 1 true), (15, .vsll 1 2 3 1 true), (16, .vsrl 1 2 3 1 true),
    (17, .vsra 1 2 3 1 true), (18, .vmulh 1 2 3 1 true), (19, .vsadd 1 2 3 1 true), (20, .vssub 1 2 3 1 true)] ++
    codes 0x40220180 [(9, .vabs 1 2 1 true), (10, .vneg 1 2 1 true), (11, .vsqrt 1 2 1 true), (21, .vmov 1 2 1 true), (23, .vexp2 1 2 1 true),
      (24, .vlog2 1 2 1 true), (25, .vrcp 1 2 1 true), (26, .vrsqrt 1 2 1 true), (27, .vclz 1 2 1 true), (28, .vpopc 1 2 1 true)] ++
    [(0x40400980, .vadd 2 0 1 1 true), (0x40620015, .vmov 3 2 0 false), (0x40221916, .vsel 1 2 3 1)]) = true := by decide

theorem test_decode_vector_scalar : reads (codes 0x44220CC0 [(0, .vaddVx 1 2 3 1 true), (1, .vsubVx 1 2 3 1 true), (2, .vmulVx 1 2 3 1 true),
    (3, .vdivVx 1 2 3 1 true), (4, .vminVx 1 2 3 1 true), (5, .vmaxVx 1 2 3 1 true), (6, .vfmaVx 1 2 3 1 true), (7, .vfmsVx 1 2 3 1 true),
    (8, .vnfmaVx 1 2 3 1 true), (12, .vandVx 1 2 3 1 true), (13, .vorVx 1 2 3 1 true), (14, .vxorVx 1 2 3 1 true),
    (15, .vsllVx 1 2 3 1 true), (16, .vsrlVx 1 2 3 1 true), (17, .vsraVx 1 2 3 1 true), (18, .vmulhVx 1 2 3 1 true),
    (19, .vsaddVx 1 2 3 1 true), (20, .vssubVx 1 2 3 1 true)] ++
    codes 0x4822FF30 [(0, .vaddi 1 2 0xFF 1 true), (1, .vslli 1 2 0xFF 1 true), (2, .vsrli 1 2 0xFF 1 true), (3, .vsrai 1 2 0xFF 1 true),
      (4, .vandi 1 2 0xFF 1 true), (5, .vori 1 2 0xFF 1 true), (6, .vxori 1 2 0xFF 1 true)] ++
    [(0x44413CC0, .vaddVx 2 1 15 1 true), (0x44412C02, .vmulVx 2 1 11 0 false), (0x44220C96, .vselVx 1 2 3 1),
      (0x44200C9D, .vbcast 1 3 1 false)]) = true := by decide

/-- Compares, reductions, permutes and conversions: words of chapter 19 among them. -/
theorem test_decode_compare : reads (codes 0x4C221980 [(0, .vcmpeq 1 2 3 1 true), (1, .vcmpne 1 2 3 1 true), (2, .vcmplt 1 2 3 1 true),
    (3, .vcmple 1 2 3 1 true), (4, .vcmpgt 1 2 3 1 true), (5, .vcmpge 1 2 3 1 true), (6, .vcmpuo 1 2 3 1 true),
    (7, .vcmpcls 1 2 3 1 true)] ++
    codes 0x4C220CC0 [(8, .vcmpeqVx 1 2 3 1 true), (9, .vcmpneVx 1 2 3 1 true), (10, .vcmpltVx 1 2 3 1 true), (11, .vcmpleVx 1 2 3 1 true),
      (12, .vcmpgtVx 1 2 3 1 true), (13, .vcmpgeVx 1 2 3 1 true), (14, .vcmpuoVx 1 2 3 1 true), (15, .vcmpclsVx 1 2 3 1 true)] ++
    [(0x4C412448, .vcmpeqVx 2 1 9 0 true)]) = true := by decide

theorem test_decode_reduce_permute : reads (codes 0x50220300 [(0, .vredsum 1 2 3), (1, .vredosum 1 2 3), (2, .vredmin 1 2 3), (3, .vredmax 1 2 3),
    (4, .vredand 1 2 3), (5, .vredor 1 2 3), (6, .vredxor 1 2 3), (7, .vredsumW 1 2 3)] ++
    [(0x54220CC0, .vslideup 1 2 3 1 true), (0x54220CC1, .vslidedn 1 2 3 1 true), (0x54221982, .vrgather 1 2 3 1 true),
      (0x54220103, .vcompress 1 2 1), (0x54220184, .vexpand 1 2 1 true), (0x54200185, .viota 1 1 true), (0x54221986, .vzip 1 2 3 1 true),
      (0x54221987, .vunzip 1 2 3 1 true), (0x54220188, .vrev 1 2 1 true)]) = true := by decide

theorem test_decode_convert : reads ([(0x58205000, .vcvt 1 0 .e4m3 0 false 0 false 0), (0x58405004, .vcvt 2 0 .e4m3 0 false 0 true 0),
    (0x58605800, .vcvt 3 0 .e5m2 0 false 0 false 0), (0x58805804, .vcvt 4 0 .e5m2 0 false 0 true 0),
    (0x58A05102, .vcvt 5 0 .e4m3 1 false 0 false 2), (0x5822799B, .vcvt 1 2 .fp64 1 true 3 false 3),
    (0x582279A0, .vcvtBits 1 2 .fp64 1 true)]) = true := by decide

/-- Grants, vector memory, images and vector atomics: words of chapters 6, 11, 19, 20 and 21. -/
theorem test_decode_vector_memory : reads ([(0x5C518000, .setvl 5 6 0), (0x5CA24001, .setvl 10 9 1), (0x5C30080E, .vcfg 3 .fp32),
    (0x5CC2D002, .vmvg 12 11 2), (0x5CD2D003, .vmvg 13 11 3), (0x5C002000, .vfree), (0x5C309802, .vins 3 2 2),
    (0x600A000E, .vld 0 20 0 0 .fp32), (0x602A2B82, .vldff 1 20 21 0 .n8), (0x60CD0C16, .vld 6 26 6 1 .n32),
    (0x600B1218, .vld 0 22 9 1 .n64), (0x602104FE, .vlds 1 2 2 7 .fp32), (0x60210705, .vldx 1 2 3 0 .i32), (0x642A8000, .vst 1 21 0 0 false),
    (0x644A8C00, .vst 2 21 6 0 false), (0x644A8C18, .vst 2 21 6 1 true), (0x644A8C98, .vsts 2 21 6 1 true),
    (0x644A8D18, .vstx 2 21 6 1 true), (0x68228000, .vldT 1 5 0), (0x68228040, .vstT 1 5 0), (0x689F0080, .vldR 4 62 0 false),
    (0x689F00C0, .vstR 4 62 0 false), (0x687F0AC4, .vstR 3 62 5 true), (0x68210738, .vldAv 1 2 3 .fp32), (0x68210778, .vldAm 1 2 3 .fp32),
    (0x6C6A004C, .vamoMin 3 20 0 1 .package), (0x6C210C08, .vamoAdd 1 2 3 1 .team), (0x6C210C8A, .vamoMax 1 2 3 1 .facet),
    (0x6C210CCE, .vamoAnd 1 2 3 1 .system), (0x6C210D08, .vamoOr 1 2 3 1 .team), (0x6C210D48, .vamoXor 1 2 3 1 .team),
    (0x6C210D88, .vamoSwap 1 2 3 1 .team), (0x6C210DC8, .vamoFmin 1 2 3 1 .team), (0x6C210E08, .vamoFadd 1 2 3 1 .team)]) = true := by
  decide

/-- Predicates, gangs and copies: words of chapters 8, 9, 12 and 20. -/
theorem test_decode_predicates_gangs_copies : reads ([(0x70708030, .pcnt 7 2 0), (0x70504038, .pffs 5 1 0), (0x70065000, .pand 3 1 2),
    (0x70520028, .pset 5 1), (0x70A20028, .pset 10 1), (0x70A08038, .pffs 10 2 0), (0x70065008, .por 3 1 2), (0x70065010, .pxor 3 1 2),
    (0x70065018, .pandn 3 1 2), (0x70064020, .pnot 3 1), (0x70065040, .pbrk 3 1 2), (0x70064048, .pmov 3 1),
    (0x80700080, .mzero 0 .fp32), (0x80180140, .mwr 0 3 0), (0x8020014E, .mwr 0 4 14), (0x80298000, .oacc 0 5 6 0),
    (0x803800C0, .mrd 0 7 0), (0x804000CE, .mrd 0 8 14), (0x804000CE + 0x40, .mrdc 0 8 14), (0x82214040, .osub 2 4 5 0),
    (0x83425180, .oaccN 3 8 9 2), (0x85950C04, .cpg 25 20 6 0 1), (0x84850C04, .cpg 8 20 6 0 1), (0x85454061, .cpt 20 21 3),
    (0x85650062, .cpl 22 20 3), (0x85B24022, .cpl 27 9 1), (0x88500002, .cpavail 5 2), (0x88200803, .cpmask 2 3),
    (0x88501002, .cpwait 5 0 2), (0x88055800, .bxInit 21 false 0), (0x88055813, .bxInit 21 true 3), (0x88A56000, .bxExp 10 21),
    (0x88B56800, .bxWait 11 21), (0x88003003, .cpsel 3)]) = true := by decide

/-- Table 4.8, R83 and R98: words that are none, and a continuation met first. -/
theorem test_decode_illegal : [0x00000000#32, 0x04820580, 0x04820522, 0x13800000, 0x3C000000, 0x34000005, 0x38001803, 0x38000000,
    0x70005000, 0x4C021980, 0x88000803, 0x80300080, 0x600A0000].all (fun w => decide (decodeWord w = .error (.illegal w))) = true ∧
    decodeWord 0xFC000000 = .error (.continuation 0xFC000000) := by decide

/-! ## Small states -/

/-- A hart of space 0 and team 1 whose handler runs at 0x10000, with values for g1 and up. -/
def hartWith (g : List Word) : Hart :=
  { Hart.blank with
    id := { Hart.blank.id with ref := { team := 1, idx := 0 }, teamSize := 1 }
    run := .running
    sc := { Hart.blank.sc with g := Vector.ofFn (fun (i : Fin 64) => (0 :: g).getD i.val 0), pc := 0x10000 } }

/-- A resident team of one hart with a segment of 64 KiB. -/
def team : Team :=
  { uid := 1, farm := 1, queue := 0, teamId := 0, size := 1, space := 0, part := 0, modNo := 0, facet := 0, cluster := 0
    slots := [0], barFacet := 0, order := 0, status := .resident, segUnits := 16, seg := [], segSaved := false
    bars := Vector.replicate 8 Barrier.none, stackAt := 0, idleNs := 0, spaceSaved := false }

/-- The device with one hart, its team and its space's trap handler at 0x40000. -/
def machine (h : Hart) : State :=
  { State.reset with
    hart := h, teams := [team]
    spaces := [{ Space.blank 0 with teEn := true, tvec := 0x10000 }] }

/-- The device with values for g1 and up. -/
def regs (g : List Word) : State := machine (hartWith g)

/-- A view of the next state. -/
def after {α : Type} (o : Out) (f : State → α) : Option α :=
  match o with
  | .next t => some (f t)
  | _ => none

/-- A general register of the next state. -/
def got (o : Out) (r : GReg) : Option Word := after o (fun t => t.g r)

/-! ## Integer, control and scalar floating point: Tables 5.3 and 5.9 -/

/-- Table 5.3: the instruction on g1 = a, g2 = b. -/
theorem test_table_5_3 : got (exec (.div 3 1 2) (regs [7, 0])) 3 = some 0xFFFFFFFFFFFFFFFF ∧ got (exec (.rem 3 1 2) (regs [7, 0])) 3 = some 7 ∧
    got (exec (.div 3 1 2) (regs [0x8000000000000000, -1])) 3 = some 0x8000000000000000 ∧
    got (exec (.rem 3 1 2) (regs [0x8000000000000000, -1])) 3 = some 0 ∧ got (exec (.div 3 1 2) (regs [-7, 2])) 3 = some (-3) ∧
    got (exec (.rem 3 1 2) (regs [-7, 2])) 3 = some (-1) ∧ got (exec (.sll 3 1 2) (regs [1, 64])) 3 = some 0 ∧
    got (exec (.sra 3 1 2) (regs [0x8000000000000000, 200])) 3 = some (-1) ∧
    got (exec (.rotr 3 1 2) (regs [1, 65])) 3 = some 0x8000000000000000 ∧
    got (exec (.addw 3 1 2) (regs [0x7FFFFFFF, 1])) 3 = some 0xFFFFFFFF80000000 ∧ got (exec (.mulh 3 1 2) (regs [-1, -1])) 3 = some 0 ∧
    got (exec (.mulhu 3 1 2) (regs [-1, -1])) 3 = some 0xFFFFFFFFFFFFFFFE ∧ got (exec (.clz 3 1) (regs [0])) 3 = some 64 := by decide

/-- R74: g0 discards a write; R102: unsigned and signed orders differ. -/
theorem test_integer_edges : got (exec (.add 0 1 2) (regs [7, 1])) 0 = some 0 ∧ got (exec (.slt 3 1 2) (regs [-1, 1])) 3 = some 1 ∧
    got (exec (.sltu 3 1 2) (regs [-1, 1])) 3 = some 0 ∧ got (exec (.srl 3 1 2) (regs [-1, 64])) 3 = some 0 ∧
    got (exec (.lhi 63 0xFFFFF) (regs [])) 63 = some 0xFFFFFFFFFFFFF800 ∧ got (exec (.andn 3 1 2) (regs [12, 10])) 3 = some 4 ∧
    got (exec (.bswap 3 1) (regs [0x0102030405060708])) 3 = some 0x0807060504030201 ∧ got (exec (.ctz 3 1) (regs [8])) 3 = some 3 ∧
    got (exec (.srai 3 1 63) (regs [0x8000000000000000])) 3 = some (-1) ∧ got (exec (.addiL 5 5 (-1)) (regs [0, 0, 0, 0, 0])) 5 = some (-1) ∧
    got (exec (.mulw 3 1 2) (regs [0x80000000, 1])) 3 = some 0xFFFFFFFF80000000 ∧ got (exec (.sxb 3 1) (regs [0x180])) 3 = some (-128) := by
  decide

/-- R108 to R110: the target of a branch, the link of a jump, a target that is not a multiple of 4. -/
theorem test_control : after (exec (.beq 1 2 (-1)) (regs [5, 5])) (fun t => t.hart.sc.pc) = some 0xFFFC ∧
    after (exec (.beq 1 2 (-1)) (regs [5, 6])) (fun t => t.hart.sc.pc) = some 0x10004 ∧
    after (exec (.bltu 1 2 2) (regs [-1, 1])) (fun t => t.hart.sc.pc) = some 0x10004 ∧
    after (exec (.jal 63 4) (regs [])) (fun t => (t.hart.sc.pc, t.g 63)) = some (0x10010, 0x10004) ∧
    after (exec (.jalL 63 2) (regs [])) (fun t => (t.hart.sc.pc, t.g 63)) = some (0x10008, 0x10008) ∧
    after (exec (.jalr 1 1 8) (regs [0x200])) (fun t => (t.hart.sc.pc, t.g 1)) = some (0x208, 0x10004) ∧
    after (exec (.jalr 1 1 2) (regs [0x200])) (fun t => (t.hart.tr.code, t.hart.tr.val, t.hart.tr.pc, t.g 1, t.hart.sc.pc)) =
      some (0x06, 0x202, 0x10000, 0x200, 0x40000) := by decide

/-- A destination and FFLAGS after a scalar floating-point instruction in a rounding mode. -/
def fp (i : Instr) (frm : BitVec 3) (g : List Word) : Option (Word × BitVec 5) :=
  let h := hartWith g
  after (exec i (machine { h with sc := { h.sc with frm := frm } })) (fun t => (t.g 3, t.hart.sc.fflags))

/-- Table 5.9. -/
theorem test_table_5_9 : fp (.faddS 3 1 2) 0 [0x3F800001, 0x33800000] = some (0x3F800002, 1) ∧
    fp (.faddS 3 1 2) 1 [0x3F800001, 0x33800000] = some (0x3F800001, 1) ∧ fp (.fcvtSL 3 1) 0 [16777217] = some (0x4B800000, 1) ∧
    fp (.fcvtLD 3 1) 0 [0x43E0000000000000] = some (0x7FFFFFFFFFFFFFFF, 16) ∧
    fp (.fcvtLD 3 1) 3 [0xC3E0000000000000] = some (0x8000000000000000, 0) ∧ fp (.fdivS 3 1 2) 0 [0x3F800000, 0] = some (0x7F800000, 8) ∧
    fp (.fdivS 3 1 2) 4 [0, 0] = some (0x7FC00000, 16) ∧ fp (.fsqrtD 3 1) 0 [0x8000000000000000] = some (0x8000000000000000, 0) ∧
    fp (.fminS 3 1 2) 0 [0x7F800001, 0x40000000] = some (0x40000000, 16) ∧ fp (.fnegS 3 1) 0 [0xDEADBEEF7FC00001] = some (0xFFC00001, 0) := by
  decide

/-- Table 7.3: an infinity, a quiet and a signalling NaN, E4M3's NaN, and E2M1's largest pattern, which is a number; R120: zeros. -/
theorem test_special_patterns : unpack .fp32 0xFF800000 = .inf true ∧ unpack .fp64 0x7FF8000000000000 = .nan false ∧
    unpack .bf16 0x7F81 = .nan true ∧ unpack .e5m2 0x7D = .nan true ∧ unpack .e4m3 0xFF = .nan false ∧ (unpack .e2m1 0x7).finite ∧
    (unpack .e4m3 0x7E).finite ∧ fp (.fcvtSD 3 1) 0 [0x8000000000000000] = some (0x80000000, 0) ∧
    fp (.fcvtDS 3 1) 3 [0] = some (0, 0) ∧ fp (.fcvtDL 3 1) 3 [0] = some (0, 0) := by
  refine ⟨by decide, by decide, by decide, by decide, by decide, ⟨_, _, _, rfl⟩, ⟨_, _, _, rfl⟩, by decide, by decide, by decide⟩

/-- R116, R118, R119, R120: a fused product, an ordering with a quiet NaN, the class of −∞, an exact widening. -/
theorem test_fp_rules : fp (.fmacD 3 1 2) 0 [0x4000000000000000, 0x4008000000000000, 0x3FF0000000000000] = some (0x401C000000000000, 0) ∧
    fp (.fltD 3 1 2) 0 [0x7FF8000000000000, 0] = some (0, 16) ∧ fp (.feqD 3 1 2) 0 [0x7FF8000000000000, 0] = some (0, 0) ∧
    fp (.feqD 3 1 2) 0 [0, 0x8000000000000000] = some (1, 0) ∧ fp (.fclassD 3 1) 0 [0xFFF0000000000000] = some (4, 0) ∧
    fp (.fcvtDS 3 1) 0 [0x3FC00000] = some (0x3FF8000000000000, 0) ∧ fp (.fsubD 3 1 2) 3 [0x3FF0000000000000, 0x3FF0000000000000] =
      some (0x8000000000000000, 0) ∧ fp (.fmaxD 3 1 2) 0 [0, 0x8000000000000000] = some (0, 0) := by decide

/-! ## Near memory (R258, R259, R261 to R264, R282, R283) -/

/-- The device with a segment that holds some bytes, and values for g1 and up. -/
def near (seg : List Host.Cell) (g : List Word) : State := { regs g with teams := [{ team with seg := seg }] }

/-- The near window's first address. -/
def nw : Word := 0x10000000000

theorem test_near_loads : got (exec (.ldB 3 1 0) (near [(0, 0x80)] [nw])) 3 = some 0xFFFFFFFFFFFFFF80 ∧
    got (exec (.ldBu 3 1 0) (near [(0, 0x80)] [nw])) 3 = some 0x80 ∧
    got (exec (.ldW 3 1 (-4)) (near [(4, 1), (7, 0x80)] [nw + 8])) 3 = some 0xFFFFFFFF80000001 ∧
    got (exec (.ldHu 3 1 0) (near [(0, 1), (1, 2)] [nw])) 3 = some 0x201 ∧
    got (exec (.ldAcqD 3 1 .team) (near [(0, 1), (7, 0x80)] [nw])) 3 = some 0x8000000000000001 ∧
    after (exec (.ldD 3 1 0) (near [] [nw + 0x10000])) (fun t => (t.hart.tr.code, t.hart.tr.val)) = some (0x08, nw + 0x10000) := by decide

theorem test_near_stores : after (exec (.stH 2 1 2) (near [(0, 9)] [nw, 0x11223344])) (fun t => t.seg) = some [(0, 9), (2, 0x44), (3, 0x33)] ∧
    after (exec (.stB 0 1 0) (near [(0, 9)] [nw])) (fun t => t.seg) = some [] ∧
    after (exec (.stRelW 2 1 .system) (near [] [nw, 0x100000001])) (fun t => t.seg) = some [(0, 1)] := by decide

/-- An atomic on the near doubleword that holds 5, with gs = 3: its result and the new value. -/
def atomic (i : Instr) : Option (Word × Nat) := after (exec i (near [(0, 5)] [nw, 3, 5])) (fun t => (t.g 3, readLE t.seg 0 8))

theorem test_near_atomics : atomic (.amoAdd 3 1 2 .relaxed .team) = some (5, 8) ∧ atomic (.amoMinu 3 1 2 .acqRel .system) = some (5, 3) ∧
    atomic (.amoSwap 3 1 2 .relaxed .team) = some (5, 3) ∧ atomic (.amoCas 3 1 2 .relaxed .team) = some (5, 3) ∧
    atomic (.amoIncb 3 1 2 .relaxed .team) = some (5, 5) ∧ atomic (.amoXor 3 1 2 .relaxed .team) = some (5, 6) := by decide

/-- The hypotheses of NearAccesses and NearAtomics, at both ends of the segment and for every scope. -/
theorem test_witness_near : NoDeviceRead (near [(0, 5)] [nw]) ∧ Memory.wf (near [(0, 5)] [nw]).seg = true ∧
    (∀ n ∈ [1, 2, 4, 8], NearAt (near [(0, 5)] [nw]) nw n ∧ NearAt (near [] []) (nw + 0x10000 - BitVec.ofNat 64 n) n) ∧
    (∀ sc ∈ [Scope.team, .facet, .package, .system], ReleaseReady (near [] []) sc) := by
  simp only [NoDeviceRead, NearAt, ReleaseReady]
  decide

/-- The hypotheses of MisalignedAccesses, one for each size. -/
theorem test_witness_misaligned : let s := regs [0x1001, 0x1002, 0x1004]
    NoDeviceRead s ∧ (s.ea 1 (0 : BitVec 11)).toNat % 2 ≠ 0 ∧ (s.ea 2 (0 : BitVec 11)).toNat % 4 ≠ 0 ∧ (s.g 2).toNat % 4 ≠ 0 ∧
    (s.ea 3 (0 : BitVec 11)).toNat % 8 ≠ 0 ∧ (s.g 3).toNat % 8 ≠ 0 := by
  simp only [NoDeviceRead]
  decide

/-! ## Traps and system registers -/

/-- The hart in handler mode. -/
def inHandler (h : Hart) : Hart := { h with tr := { h.tr with hm := true } }

/-- The worked words of chapter 15: `trap 5` resumes after itself; an `eret` outside handler mode is Illegal. -/
theorem test_trap : after (exec (.trap 5) (regs [])) (fun t => (t.hart.tr.code, t.hart.tr.pc, t.hart.tr.val, t.hart.tr.hm, t.hart.sc.pc,
      t.hart.sc.iseq)) = some (0x0D, 0x10004, 5, true, 0x40000, 1) ∧
    after (exec .eret (regs [])) (fun t => (t.hart.tr.code, t.hart.tr.val, t.hart.sc.iseq)) = some (0x01, 0x34002800, 0) ∧
    after (exec .eret (machine (inHandler { hartWith [] with tr := { Hart.blank.tr with pc := 0x2003 } })))
      (fun t => (t.hart.tr.hm, t.hart.sc.pc)) = some (false, 0x2000) ∧
    after (exec (.trap 5) (machine (inHandler (hartWith [])))) (fun t => t.hart.run) = some .ending := by decide

theorem test_system_registers : got (exec (.sysrd 5 0x002) (regs [])) 5 = some 1 ∧
    got (exec (.sysrd 5 0x018) (machine { hartWith [] with sc := { Hart.blank.sc with frm := 4 } })) 5 = some 4 ∧
    after (exec (.syswr 1 0x018) (regs [5])) (fun t => t.hart.sc.frm) = some 0 ∧
    after (exec (.syswr 1 0x018) (regs [3])) (fun t => t.hart.sc.frm) = some 3 ∧
    after (exec (.syswr 1 0x020) (regs [-1])) (fun t => t.hart.sc.dim0) = some 0x1FFFFFFFFFFFFFFF ∧
    after (exec (.syswr 1 0x108) (machine (inHandler (hartWith [65])))) (fun t => t.hart.tr.vqn) = some 0 ∧
    after (exec (.syswr 1 0x031) (regs [8])) (fun t => t.hart.tr.pc) = some 0 ∧
    after (exec (.syswr 1 0x031) (machine (inHandler (hartWith [8])))) (fun t => t.hart.tr.pc) = some 8 ∧
    after (exec (.sysrd 5 0x100) (regs [])) (fun t => (t.hart.tr.code, t.hart.tr.val)) = some (0x01, 0x34500100) := by decide

/-- A queue entry of `vadd v2, v0, v1, p1.z`. -/
def entry (w : BitVec 32) : VqEntry := { VqEntry.zero with word := w, addr := 0x10000 }

/-- The hypotheses of TrapEntry, ReturnFromTrap, SystemRegisters and PrivilegedRegisters, clause by clause. -/
theorem test_witness_traps : MayTrap (regs []) ∧ (machine (inHandler (hartWith []))).hart.tr.hm = true ∧
    (({ regs [] with spaces := [] } : State).space 0).teEn = false ∧ (regs []).hart.tr.hm = false ∧
    (let s := machine { hartWith [] with vq := List.replicate 64 (entry 0x40400980) }
     MayTrap s ∧ s.hart.vq.length ≤ 64 ∧ s.hart.sc.pc.toNat % 4 = 0 ∧ ∀ e ∈ s.hart.vq, e.cls = s.hart.sc.prio) ∧
    (machine (inHandler (hartWith []))).hart.vq = [] ∧
    (headStarted (regs []) (regs []).hart = false ∧ headStarted (machine (inHandler (hartWith []))) (inHandler (hartWith [])) = false ∧
      (let s := machine { hartWith [] with vq := [entry 0x64008000], ln := { Hart.blank.ln with headDevc := true } }
       MayTrap s ∧ headStarted s s.hart = true)) ∧
    (∀ n ∈ [0x100#11, 0x1FF], 0x100 ≤ n.toNat ∧ n.toNat ≤ 0x1FF ∧ (regs []).hart.tr.hm = false) ∧ sysRegAssigned 0x005 = false := by
  simp only [MayTrap]
  decide

/-! ## Ending, waiting, ordering, maintenance -/

/-- A farm of one team, serving or GANG. -/
def farm (gang : Bool) (members : List HartRef) : Farm :=
  { uid := 1, queue := 0, perTeam := false, gang := gang, slot := 0, nteams := 1, ended := 0
    disp := Vector.replicate 8 { next := 0, limit := 3 }, pkg := Vector.replicate 8 (Barrier.fresh members)
    fac := Vector.replicate 8 (Vector.replicate 8 (Barrier.fresh members)) }

/-- The message that a serving hart runs. -/
def served : MsgRef :=
  { queue := 0, slot := 2, msgVa := 0, argPtr := 0, entry := 0, request := 0, cls := 0, stream := none }

/-- The device with a serving team whose hart runs message 2 of queue 0. -/
def serving : State :=
  { machine { hartWith [7] with msg := some served } with
    farms := [farm false []], queues := [{ Queue.blank 0 with en := true, held := [2, 3] }] }

theorem test_done : after (exec .done serving) (fun t => (t.hart.run, (t.queue 0).held, (t.space 0).acDone, t.g 1)) =
    some (.free, [3], 1, 0) := by decide

theorem test_witness_done : ∃ tm f m, serving.hart.vq = [] ∧ ReleaseReady serving .package ∧
    (∀ st ∈ serving.hart.streams.toList, st.queue = []) ∧ serving.team? serving.hart.id.ref.team = some tm ∧
    serving.farm? tm.farm = some f ∧ f.perTeam = false ∧ serving.hart.msg = some m := by
  refine ⟨team, farm false [], served, ?_⟩
  simp only [ReleaseReady]
  decide

/-- The device whose hart runs the last team of a per-team launch. -/
def perTeam (nteams : Nat) : State :=
  { serving with
    farms := [{ farm false [] with perTeam := true, nteams := nteams, slot := 2 }]
    others := [{ hartWith [] with id := { (hartWith []).id with ref := { team := 1, idx := 1 } }, run := .retired }] }

/-- R33, R36, R398: the last hart of a farm's last team frees the ring entry; a team before it does not; R322: a held line. -/
theorem test_done_per_team : after (exec .done (perTeam 1)) (fun t => (t.teams, (t.queue 0).held, (t.space 0).acDone)) = some ([], [3], 1) ∧
    after (exec .done (perTeam 2)) (fun t => (t.teams, (t.queue 0).held)) = some ([], [2, 3]) ∧
    after (exec .done { perTeam 1 with others := [{ hartWith [] with id := { (hartWith []).id with ref := { team := 1, idx := 1 } } }] })
      (fun t => (t.hart.run, t.teams.length, (t.queue 0).held)) = some (.retired, 1, [2, 3]) := by decide

/-- The device with one hart that waits. -/
def waits (w : Wait) : State := machine { hartWith [] with wait := w }

theorem test_yield : after (exec .yield (regs [])) (fun t => t.hart.wait) = some (.yield 256) ∧
    after (exec .yield (waits (.yield 0))) (fun t => t.hart.sc.pc) = some 0x10004 ∧ after (exec .yield (waits (.yield 1))) (fun t => t.hart.wait) = some (.yield 1) ∧
    after (exec (.yieldTimeout { team := 1, idx := 0 }) (waits (.yield 0))) (fun t => t.hart.sc.pc) = some 0x10004 := by decide

theorem test_witness_yield : (regs []).hart.wait = .none ∧
    Runs (waits (.yield 0)) { team := 1, idx := 0 } ∧ (waits (.yield 0)).hart.wait = .yield 0 ∧
    ((waits (.yield 0)).cycle - 0).toNat < 2 ^ 63 ∧ 2 ^ 63 ≤ ((waits (.yield 1)).cycle - 1).toNat ∧
    ¬((waits (.yield 1)).hart.tr.hm = true ∧ (waits (.yield 1)).hart.pendingCause ≠ none) ∧
    (let h := { inHandler (hartWith []) with notice := { thermal := some 3, preempt := none, watchdog := none } }
     h.tr.hm = true ∧ h.pendingCause ≠ none) := by
  simp only [Runs]
  decide

/-- A store line that holds one byte of the page at 0x20000. -/
def line (stage : StoreStage) : StoreLine :=
  { line := 0x400, data := 0xAB, mask := 0xFF, elems := [], vector := false, seq := 7, addr := 0x10000, source := 0, nt := false
    handler := false, stage := stage, code := if stage = .held then 0x08 else 0, delivered := false, behind := false, again := false
    found := none, pa := 0, groups := [] }

/-- The device with one unperformed store line. -/
def storing (stage : StoreStage) (g : List Word) : State := machine { hartWith g with stores := [line stage] }

theorem test_ordering : after (exec (.fence 2 .package) (storing .held [])) (fun t => t.hart.tr.code) = some 0x09 ∧
    after (exec (.fence 2 .package) (storing .retired [])) (fun t => t.hart.sc.pc) = some 0x10000 ∧
    after (exec (.fence 1 .system) (storing .retired [])) (fun t => t.hart.sc.pc) = some 0x10004 ∧
    after (exec (.vsync false) (storing .retired [])) (fun t => t.hart.sc.pc) = some 0x10004 := by decide

theorem test_witness_ordering : ReleaseReady (regs []) .system ∧ (regs []).hart.vq = [] ∧ (regs []).hart.stores = [] ∧
    (storing .held []).hart.vq = [] ∧ (∀ l ∈ (storing .held []).hart.stores, l.stage = .held) ∧ (storing .held []).hart.stores ≠ [] ∧
    (∃ l ∈ (storing .retired []).hart.stores, l.stage = .retired) ∧ (2#3) ≠ 4 ∧
    (machine { hartWith [] with vq := [entry 0x40400980] }).hart.vq = entry 0x40400980 :: [] := by
  simp only [ReleaseReady]
  decide

/-- HandlerDone: a held line, an unfinished one, an uncommitted entry, an outstanding copy, `done` in handler mode, a per-team launch. -/
theorem test_witness_done_waits : after (exec .done (storing .held [])) (fun t => t.hart.tr.code) = some 0x09 ∧
    ((storing .held []).hart.vq = [] ∧ (∀ l ∈ (storing .held []).hart.stores, l.reached .package = true) ∧
      ∃ l ∈ (storing .held []).hart.stores, l.stage = .held) ∧
    (∃ l ∈ (storing .retired []).hart.stores, l.reached .package = false) ∧ (machine { hartWith [] with vq := [entry 0x40400980] }).hart.vq ≠ [] ∧
    after (exec .done { serving with hart := inHandler serving.hart }) (fun t => (t.hart.run, t.hart.tr.hm)) = some (.free, false) ∧
    (∃ tm f, (perTeam 1).team? (perTeam 1).hart.id.ref.team = some tm ∧ (perTeam 1).farm? tm.farm = some f ∧ f.perTeam = true ∧
      f.ended + 1 = f.nteams ∧ ∀ h ∈ (perTeam 1).others, h.id.ref.team = tm.uid → h.run = .retired) := by
  refine ⟨by decide, by decide, by decide, by decide, by decide, ⟨_, _, rfl, rfl, by decide⟩⟩

/-- A kept walk entry of space 0, and a cached copy of the first line of page 2. -/
def caching (g : List Word) : State :=
  { regs g with
    walks := [{ space := 0, global := false, ctrl := 0, leafOf := none, at_ := 0, val := 0 }]
    lines := [{ cspace := 0, vline := 0x400, pline := 0x400, place := .l2 0, r := true, w := false, x := false
                own := false }] }

/-- The device whose host holds the line of space 0's entry, which says whether the global half is legal. -/
def entryHeld : State :=
  { caching [0x80000000000000] with
    trans := { State.reset.trans with en := true, stpa := 1 }
    hostLines := [{ pline := 0x20000 / 128, any := true, snooped := none, inval := true, late := false }]
    boot := { State.reset.boot with state := .ready, memok := true } }

/-- R370: a page that is not legal; R408: the check of a page waits for the host's copy of the entry that it reads. -/
theorem test_inval_checks : after (exec (.inval 0 1 1) (caching [0xFFFFFFFFFF0000])) (fun t => (t.hart.tr.code, t.hart.tr.val)) =
      some (0x08, 0xFFFFFFFFFF0000) ∧
    after (exec (.inval 0 1 0) entryHeld) (fun t => (t.hart.wait, t.hostLines.map (fun h => h.snooped))) = some (.stall, [some 0]) := by decide

theorem test_maintenance : after (exec (.ptsync 0 false) (caching [])) (fun t =>
      after (exec (.ptsyncDropComplete { team := 1, idx := 0 }) t) (fun u => (u.walks, u.hart.sc.pc))) = some (some ([], 0x10004)) ∧
    after (exec (.inval 0 1 0) (caching [0x20000])) (fun t =>
      after (exec (.invalComplete { team := 1, idx := 0 }) t) (fun u => (u.lines, u.hart.sc.pc))) = some (some ([], 0x10004)) ∧
    after (exec (.ptsync 1 true) (caching [3])) (fun t => (t.hart.tr.code, t.hart.tr.val)) = some (0x07, 3) ∧
    after (exec (.inval 0 1 0) (caching [0x20008])) (fun t => t.hart.tr.code) = some 0x06 := by decide

theorem test_witness_maintenance : Runs (caching [0x20000]) { team := 1, idx := 0 } ∧ (caching []).hart.vq = [] ∧
    2 ^ 14 ≤ ((caching [0x4000]).g 1).toNat ∧ ((caching [0x20000]).g 1).toNat % 65536 = 0 ∧ ((caching [0x20008]).g 1).toNat % 65536 ≠ 0 ∧
    (∀ l ∈ (storing .held []).hart.stores, l.stage = .held) ∧ ((caching [0x20000, 0x4000]).g 2).toNat ≥ 2 ^ 14 ∧
    (∀ j, j ≤ 3 → addressOk (caching []) 0 (spacePart (caching []) 0) (0x20000#64 + BitVec.ofNat 64 (65536 * j)).toNat = true) ∧
    (rangeSnoop (caching [0x20000]) 0 0x20000 4 = none ∧
      addressOk (caching []) 0 (spacePart (caching []) 0) (0x100000000000000#64).toNat = false ∧
      (rangeSnoop entryHeld 0 0x80000000000000 1).isSome = true) := by
  simp only [Runs]
  decide

/-- An operation of stream 0 with one row. -/
def copyOp (r : CopyRow) : CopyOp :=
  { kind := .toNear, len := 16, swz := 0, nt := false, leave := false, rows := [r], bar := none, cls := 0
    arrived := 0, seq := 0, since := 0, addr := 0x10000, source := 0, handler := false }

/-- A row of one 16-byte granule. -/
def copyRow : CopyRow :=
  { idx := 0, near := 0, mem := 0x20000, num := 0, fill := false, complete := false, held := false, code := 0, delivered := false
    replayed := false, sent := false, found := none }

/-- The device with one operation of one row on stream 0. -/
def copying (r : CopyRow) (g : List Word) : State :=
  machine { hartWith g with streams := Hart.blank.streams.set 0 { Stream.empty with ops := 1, queue := [copyOp r], newest := some (copyOp r) } }

theorem test_replay : after (exec (.replay 3 0) (regs [])) (fun t => t.g 3) = some (-1) ∧
    after (exec (.replay 3 0) (copying { copyRow with held := true, code := 0x08 } [])) (fun t =>
      (t.g 3, (t.hart.stream 0).queue.flatMap (fun o => o.rows.map (fun r => (r.held, r.replayed))))) = some (0, [(false, true)]) ∧
    after (exec (.replay 3 1) (regs [0x20])) (fun t => t.hart.tr.code) = some 0x06 := by decide +kernel

theorem test_witness_replay : (regs []).hart.wait = .none ∧ (regs [0x20]).g 1 ≠ 0 ∧ ((regs [0x20]).g 1).toNat % 64 ≠ 0 ∧ (regs []).g 0 = 0 ∧
    (∀ l ∈ (storing .combining []).hart.stores, l.stage ≠ .held ∧ l.again = false) ∧ (storing .combining []).hart.vq = [] ∧
    (∀ st ∈ (regs []).hart.streams.toList, ∀ o ∈ st.queue, ∀ r ∈ o.rows, r.held = false) ∧
    (∃ st ∈ (copying { copyRow with held := true } []).hart.streams.toList, ∃ o ∈ st.queue, ∃ r ∈ o.rows, r.held = true) := by decide

/-! ## Barriers and strips (R332 to R347) -/

/-- The hart of these tests. -/
def me : HartRef := { team := 1, idx := 0 }

/-- Another hart of the team. -/
def peer : HartRef := { team := 1, idx := 1 }

/-- A barrier of some harts at generation 5. -/
def bar (members : List HartRef) : Barrier := { Barrier.fresh members with cur := 5 }

/-- The device whose hart belongs to a team and a farm with these barriers. -/
def meeting (gang : Bool) (x : Barrier) (h : Hart) : State :=
  { machine h with
    teams := [{ team with bars := Vector.replicate 8 x }]
    farms := [{ farm gang [] with pkg := Vector.replicate 8 x, fac := Vector.replicate 8 (Vector.replicate 8 x) }] }

/-- The hart having arrived at a generation of barrier 0 of its team. -/
def arrivedAt (g : BitVec 32) (owed : Bool) (regs : List Word) : Hart := (hartWith regs).setBar 0 { arv := some g, owed := owed }

/-- The last arrival completes the generation; an arrival before it does not; a second one is misuse 2. -/
theorem test_barrier : after (exec (.barArv 3 0 .team) (meeting false (bar [me]) (hartWith []))) (fun t =>
      (t.g 3, (barrierOf t .team 1 0 0).map (fun y => (y.cur, y.arrived)))) = some (5, some (6, [])) ∧
    after (exec (.barArv 3 0 .team) (meeting false (bar [me, peer]) (hartWith []))) (fun t =>
      (t.g 3, (barrierOf t .team 1 0 0).map (fun y => (y.cur, y.arrived)))) = some (5, some (5, [me])) ∧
    after (exec (.barArv 3 0 .team) (meeting false (bar [me, peer]) (arrivedAt 5 true []))) (fun t => (t.hart.tr.code, t.hart.tr.val)) =
      some (0x12, 0x238300800) ∧
    after (exec (.barArv 0 0 .package) (meeting false (bar [me]) (hartWith []))) (fun t => (t.hart.tr.code, t.hart.tr.val)) =
      some (0x12, 0x138000802) ∧
    after (exec (.barWt 3 1 0 .team) (meeting false (bar [me]) (arrivedAt 4 true [4]))) (fun t => (t.g 3, (t.hart.bar 0).owed)) =
      some (5, false) ∧
    after (exec (.barSy 3 0 .team) (meeting false (bar [me, peer]) (hartWith []))) (fun t => t.hart.wait) = some (.barrier 0 5) := by decide

theorem test_witness_arrivals : ∀ p ∈ [(Scope.team, 0), (.facet, 0), (.package, 0)], let s := meeting true (bar [me]) (hartWith [])
    let two := meeting true (bar [me, peer]) (hartWith [])
    let k := BarKind.ofScope p.1
    p.1 ≠ .system ∧ myBarrier s k = some (1, p.2) ∧ barrierOf s k 1 p.2 7 = some (bar [me]) ∧ barrierOf two k 1 p.2 7 = some (bar [me, peer]) ∧
    (s.hart.bar (barSlot k 7)).arv ≠ some 5 ∧ ReleaseReady s (arrivalScope s k p.2) ∧ LastArrival (bar [me]) me ∧ (bar [me]).members ≠ [] ∧
    windowsClosed s k 7 (bar [me]) = true ∧ ¬LastArrival (bar [me, peer]) me ∧ (s.hart.bar (barSlot k 7)).owed = false := by
  simp only [ReleaseReady, LastArrival]
  decide

/-- The barrier one generation on, whose window gives the hart a release time in lane cycles of facet 0. -/
def opened (at_ : Nat) : Barrier :=
  { bar [me, peer] with cur := 6, windows := [
    { gen := 5, lanes := Vector.replicate 8 0, plans := State.reset.power.plan, release := [(me, some { facet := 0, lane := at_, phase := 0 })]
      out := [] }] }

theorem test_witness_waits : (let s := meeting false (bar [me]) (arrivedAt 4 true [4])
    myBarrier s .team = some (1, 0) ∧ barrierOf s .team 1 0 0 = some (bar [me]) ∧ (s.g 1).toNat = (4#32).toNat ∧
    0 < ((bar [me]).cur - 4#32).toNat ∧ ((bar [me]).cur - 4#32).toNat < 2 ^ 31 ∧ released s (bar [me]) 4 = true ∧
    s.hart.bar 0 = { arv := some 4, owed := true }) ∧
    (let s := meeting false (bar [me, peer]) (arrivedAt 5 true [5])
     (s.g 1).toNat = (5#32).toNat ∧ (s.hart.bar 0).arv = some 5 ∧ (bar [me, peer]).cur = 5) ∧
    (∀ n ∈ [0, 1], let s := meeting true (opened n) { arrivedAt 5 true [5] with wait := .barrier (barSlot .package 0) 5 }
     s.hart.wait = .barrier (barSlot .package 0) 5 ∧ myBarrier s .package = some (1, 0) ∧ barrierOf s .package 1 0 0 = some (opened n) ∧
       0 < ((opened n).cur - 5#32).toNat ∧ ((opened n).cur - 5#32).toNat < 2 ^ 31 ∧ released s (opened n) 5 = decide (n = 0) ∧
       phaseSpaced s .package (myRelease s (opened n) 5) = true ∧ (∃ m ∈ (opened n).members, m ∉ (opened n).arrived)) := by decide

theorem test_witness_misuse : myBarrier (meeting false (bar [me]) (hartWith [])) .facet = none ∧
    ((meeting false (bar [me]) (arrivedAt 5 false [])).hart.bar 0).arv = some (bar [me]).cur ∧
    ((meeting false (bar [me]) (arrivedAt 5 false [])).hart.bar 0).owed = false ∧
    (((meeting false (bar [me]) (hartWith [5])).g 1).toNat = (bar [me]).cur.toNat ∧
      ((meeting false (bar [me]) (hartWith [5])).hart.bar 0).arv ≠ some (bar [me]).cur) ∧
    2 ^ 32 ≤ ((meeting false (bar [me]) (hartWith [0x100000000])).g 1).toNat ∧
    (((meeting false (bar [me]) (hartWith [6])).g 1).toNat = (6#32).toNat ∧ 2 ^ 31 ≤ ((bar [me]).cur - 6#32).toNat) := by decide

/-- The device whose farm's dispensers stand at `next`, with limit 3. -/
def strip (next : Word) (g : List Word) : State :=
  { regs g with farms := [{ farm false [] with disp := Vector.replicate 8 { next := next, limit := 3 } }] }

theorem test_strips : after (exec (.stripTake 3 7) (strip 2 [])) (fun t => (t.g 3, t.myDispenser 7)) = some (2, { next := 3, limit := 3 }) ∧
    got (exec (.stripTake 3 7) (strip 3 [])) 3 = some (-1) ∧
    after (exec (.stripDeclare 3 1 7) (strip 1 [9])) (fun t => (t.g 3, t.myDispenser 7, t.myDispenser 6)) =
      some (2, { next := 0, limit := 9 }, { next := 1, limit := 3 }) := by decide

theorem test_witness_strips : ∃ f g, (strip 2 []).myFarm? = some f ∧ (f.dispenser 7).next.toNat < (f.dispenser 7).limit.toNat ∧
    (strip 3 []).myFarm? = some g ∧ (g.dispenser 0).limit.toNat ≤ (g.dispenser 0).next.toNat :=
  ⟨_, _, rfl, by decide, rfl, by decide⟩

/-! ## Watching copies (Table 12.5, R299 to R308) -/

theorem test_copy_watching : got (exec (.cpavail 5 0) (copying copyRow [])) 5 = some 0x100000000 ∧
    got (exec (.cpwait 5 1 0) (copying copyRow [1])) 5 = some 1 ∧
    after (exec (.cpwait 5 0 0) (copying copyRow [])) (fun t => t.hart.wait) = some .copy ∧
    after (exec (.bxExp 2 1) (near [] [nw, 0x1800])) (fun t => readLE t.seg 0 8) = some 0x0001000000001800 ∧
    after (exec (.bxExp 2 1) (near [(1, 0xE8), (2, 0xFF), (3, 0xFF), (4, 0xFF), (5, 0xFF)] [nw, 0x1800])) (fun t => readLE t.seg 0 8) =
      some 0x0003000000000000 ∧
    got (exec (.bxWait 3 1) (near [(6, 3)] [nw])) 3 = some 0x0003000000000000 ∧
    after (exec (.bxInit 1 true 3) (near [(6, 3)] [nw])) (fun t => (t.seg, (t.hart.stream 3).bar)) = some ([], some 0) := by decide

theorem test_witness_copy_watching : (copying copyRow []).hart.vq = [] ∧ Memory.wf (near [(6, 3)] [nw]).seg = true ∧
    (let st := vget (copying copyRow []).hart.streams 0 Stream.empty
     (st.ops - st.done).toNat ≤ ((copying copyRow [1]).g 1).toNat ∧ ((copying copyRow []).g 0).toNat < (st.ops - st.done).toNat) ∧
    (∀ n ∈ [0, 0xFFF8], let a := nw + BitVec.ofNat 64 n
      nearVa ≤ a.toNat ∧ nearOff a + 8 ≤ (regs []).segBytes ∧ a.toNat % 8 = 0) ∧
    (let s := near [] [nw]
     s.hart.queueTouches = false ∧ s.hart.queueMeets nw 8 = false ∧ readLE s.seg 0 8 / 2 ^ 49 % 2 = 0 ∧
      (s.withHart { s.hart with vq := [entry 0x88200803] }).hart.queueMeets nw 8 = true ∧
      (s.withHart { s.hart with vq := [entry 0x60000001] }).hart.queueTouches = true) ∧
    readLE (near [(6, 3)] [nw]).seg 0 8 = 3 * 2 ^ 48 ∧ 3 * 2 ^ 48 / 2 ^ 49 % 2 = 1 ∧ (nw + 4).toNat % 8 ≠ 0 ∧ (0x20000#64).toNat < nearVa ∧
    (regs []).segBytes < nearOff (nw + 0x10000) + 8 := by decide

/-! ## Vector issue and traps -/

/-- Lanes of a grant of 2^12 bits or another length. -/
def lanes (len : Nat) : Lanes :=
  { Hart.blank.ln with len := len, vlmax := 65536, vlmin := 512, groups := List.range (len / 512) }

/-- A hart with a grant, general registers and vector registers. -/
def vecHart (len : Nat) (g : List Word) (v : List VecReg) : Hart :=
  { hartWith g with
    ln := lanes len
    vec := { VecState.zero with v := Vector.ofFn (fun (i : Fin 32) => v.getD i.val VecReg.zero)
                                p := VecState.zero.p.set 1 0x5 } }

/-- The device with that hart. -/
def vecs (g : List Word) (v : List VecReg) : State := machine (vecHart 512 g v)

/-- A register of 512 bits in a format. -/
def reg (f : Fmt) (x : Nat) : VecReg := { bits := BitVec.ofNat 65536 x, tag := f }

/-- A view of the state after an instruction has issued and committed. -/
noncomputable def committed {α : Type} (i : Instr) (s : State) (f : State → α) : Option α :=
  match exec i s with
  | .next t => after (exec (.vqEntryCommit me) t) f
  | _ => none

/-- The low four elements of v3 and its tag, and FFLAGS, after an instruction. -/
noncomputable def low (i : Instr) (s : State) : Option (List Nat × Fmt × BitVec 5) :=
  committed i s (fun t => ((List.range 4).map ((t.hart.reg 3).elem (width (t.hart.tag 3))), t.hart.tag 3, t.hart.sc.fflags))

theorem test_issue : after (exec (.vadd 2 0 1 1 true) (vecs [] [])) (fun t => (t.hart.vq.map (fun e => (e.word, e.addr, e.seq)), t.hart.sc.pc,
      t.hart.sc.iseq)) = some ([(0x40400980, 0x10000, 0)], 0x10004, 1) ∧
    after (exec (.vadd 2 0 1 1 true) (machine { vecHart 512 [] [] with tr := { Hart.blank.tr with voff := true } }))
      (fun t => (t.hart.tr.code, t.hart.tr.val)) = some (0x0E, 0x40400980) ∧
    after (exec (.vadd 2 0 1 1 true) (machine { vecHart 512 [] [] with vq := List.replicate 64 (entry 0x40400980) }))
      (fun t => (t.hart.wait, t.hart.sc.pc)) = some (.queue, 0x10000) := by decide

/-- Table 15.5, R302: what an entry captures. -/
theorem test_captured : (let h := vecHart 512 [5, 6, 7] []
     let s := machine { h with sc := { h.sc with dim0 := 11, dim1 := 12, dim2 := 13, cpSel := 9 } }
     [after (exec (.vld 3 2 1 1 .n32) s) (fun t => t.hart.vq.map (fun e => (e.opa, e.opb, e.dim0))),
       after (exec (.vldAv 3 2 1 .n32) s) (fun t => t.hart.vq.map (fun e => (e.opa, e.opb, e.dim0))),
       after (exec (.cpt 2 1 3) s) (fun t => t.hart.vq.map (fun e => (e.opa, e.opb, e.dim0)))] =
     [some [(6, 5, 0)], some [(6, 5, 9)], some [(6, 5, 11)]]) := by decide

theorem test_witness_issue : Instr.queued (.vadd 2 0 1 1 true) = true ∧ Instr.queued .vfree = true ∧
    (let h := (machine { vecHart 512 [] [] with tr := { Hart.blank.tr with voff := true } }).hart
     h.tr.voff = true ∧ h.tr.hm = false) ∧
    64 ≤ (machine { vecHart 512 [] [] with vq := List.replicate 64 (entry 0x40400980) }).hart.vq.length ∧
    (machine { vecHart 512 [] [] with vq := List.replicate 63 (entry 0x40400980) }).hart.vq.length < 64 := by decide

/-- No grant, and two I32 and N32 operands. -/
theorem test_head_traps : committed (.vadd 2 0 1 1 true) (machine (vecHart 0 [] [])) (fun t => (t.hart.tr.code, t.hart.tr.vq, t.hart.tr.val,
      t.hart.tr.pc, t.hart.tr.npc)) = some (0x04, true, 0x40400980, 0x10000, 0x10004) ∧
    committed (.vadd 2 0 1 1 true) (vecs [] [reg .i32 1, reg .n32 2]) (fun t => (t.hart.tr.code, t.hart.tr.val)) =
      some (0x03, 0x65040400980) := by decide

theorem test_witness_head_traps : (let s := machine { vecHart 0 [] [] with vq := [entry 0x40400980, entry 0] }
    Runs s s.hart.id.ref ∧ s.hart.vq = entry 0x40400980 :: [entry 0] ∧ holdsTrap s = false ∧ s.hart.waitsInside = false ∧ (entry 0).instr = none ∧
      (entry 0x40400980).instr = some (.vadd 2 0 1 1 true) ∧ Instr.queued (.vadd 2 0 1 1 true) = true ∧ s.hart.ln.len = 0 ∧
      s.hart.ln.released = false ∧ (entry 0x85950C04).instr = some (.cpg 25 20 6 0 1)) ∧
    (let h := (machine { vecHart 512 [] [reg .i32 1, reg .n32 2] with vq := [entry 0x40400980] }).hart
     0 < h.ln.len ∧ h.ln.released = false ∧ h.tag 1 ≠ h.tag 0 ∧ isInt (h.tag 4) = false ∧ h.tag 2 ≠ h.tag 0) := by
  simp only [Runs]
  decide

/-- The cause of a trap at the head and the tags in its TRAPVAL; the tags of v1 to v3 are N32, FP32 and I8. -/
noncomputable def tagsOf (i : Instr) : Option (BitVec 8 × Nat) :=
  committed i (vecs [nw] [VecReg.zero, reg .n32 1, reg .fp32 2, reg .i8 3]) (fun t => (t.hart.tr.code, t.hart.tr.val.toNat / 2 ^ 32))

/-- A form of each operand shape that raises Format (R196, R199 to R206, R266, R274). -/
theorem test_formats : [(Instr.vaddVx 3 1 1 1 false, 0x61), (.vaddi 2 2 0 1 true, 0xEE), (.vsqrt 3 1 1 true, 0x61), (.vexp2 3 1 1 true, 0x61),
    (.vselVx 3 1 1 1, 0x61), (.vrgather 3 1 2 1 true, 0xE61), (.viota 2 1 true, 0xE), (.vbcast 4 1 1 true, 0), (.vcmpuo 2 1 1 1 true, 0x660),
    (.vredand 3 2 1, 0xE1), (.vcvt 3 1 .n32 1 true 1 false 0, 0x61), (.vcvtBits 3 1 .n16 1 true, 0x61), (.vldx 3 1 2 1 .n32, 0xE06),
    (.vst 4 1 0 1 false, 0), (.vamoAdd 2 1 1 1 .team, 0x60E)].all (fun x => tagsOf x.1 == some (0x03, x.2)) = true := by decide +kernel

/-! ## Vector results (chapters 7 and 8) -/

/-- A register of 32-bit elements. -/
def words (f : Fmt) (l : List Nat) : VecReg := reg f (l.foldr (fun x acc => x + acc * 2 ^ 32) 0)

/-- The device with v1 = a and v2 = b, and g1, g2. -/
def two (a b : VecReg) (g : List Word) : State := vecs g [VecReg.zero, a, b]

/-- R200: modulo 2^w, saturation, the high half, division by zero, a lowest value. -/
theorem test_vector_integers : low (.vadd 3 1 2 0 false) (two (words .i32 [0xFFFFFFFF, 7]) (words .i32 [2, 1]) []) =
      some ([1, 8, 0, 0], .i32, 0) ∧
    low (.vsadd 3 1 2 0 false) (two (words .i32 [0x7FFFFFFF, 0x80000000]) (words .i32 [1, 0xFFFFFFFF]) []) =
      some ([0x7FFFFFFF, 0x80000000, 0, 0], .i32, 0) := by decide +kernel

theorem test_vector_integers_more : low (.vssub 3 1 2 1 true) (two (words .n32 [1, 1, 5]) (words .n32 [2, 2, 2]) []) = some ([0, 0, 3, 0], .n32, 0) ∧
    low (.vdiv 3 1 2 0 false) (two (words .i32 [7, 0xFFFFFFF9, 0x80000000]) (words .i32 [0, 2, 0xFFFFFFFF]) []) =
      some ([0xFFFFFFFF, 0xFFFFFFFD, 0x80000000, 0xFFFFFFFF], .i32, 0) ∧
    low (.vmulh 3 1 2 0 false) (two (words .i32 [0xFFFFFFFF]) (words .i32 [0xFFFFFFFF]) []) = some ([0, 0, 0, 0], .i32, 0) ∧
    low (.vfmaVx 3 1 2 0 false) (vecs [0, 3] [VecReg.zero, words .i32 [5], VecReg.zero, words .i32 [2]]) = some ([17, 0, 0, 0], .i32, 0) ∧
    low (.vaddi 3 1 0xFF 0 false) (two (words .i32 [5]) VecReg.zero []) = some ([4, 0xFFFFFFFF, 0xFFFFFFFF, 0xFFFFFFFF], .i32, 0) := by
  decide +kernel

/-- R199: shifts by the width and more; bit counts; a selection; a broadcast keeps the tag of vd. -/
theorem test_vector_bits : low (.vsll 3 1 2 0 false) (two (words .n32 [3, 3]) (words .n32 [31, 32]) []) = some ([0x80000000, 0, 0, 0], .n32, 0) ∧
    low (.vsraVx 3 1 1 0 false) (two (words .n32 [0x80000000]) VecReg.zero [200]) = some ([0xFFFFFFFF, 0, 0, 0], .n32, 0) ∧
    low (.vclz 3 1 0 false) (two (words .n32 [1, 0x80000000]) VecReg.zero []) = some ([31, 0, 32, 32], .n32, 0) ∧
    low (.vsel 3 1 2 1) (two (words .fp32 [1, 2, 3, 4]) (words .fp32 [5, 6, 7, 8]) []) = some ([1, 6, 3, 8], .fp32, 0) ∧
    low (.vbcast 3 1 0 false) (vecs [0x123456789] [VecReg.zero, VecReg.zero, VecReg.zero, words .n32 []]) =
      some ([0x23456789, 0x23456789, 0x23456789, 0x23456789], .n32, 0) ∧
    low (.vandi 3 1 0xF0 0 false) (two (words .n32 [0xFFFFFF1F]) VecReg.zero []) = some ([0xFFFFFF10, 0, 0, 0], .n32, 0) := by decide +kernel

/-- Table 5.9's sum on elements; a division by zero; R117's minimum. -/
theorem test_vector_floats : low (.vadd 3 1 2 0 false) (two (words .fp32 [0x3F800001]) (words .fp32 [0x33800000]) []) =
      some ([0x3F800002, 0, 0, 0], .fp32, 1) ∧
    low (.vdiv 3 1 2 1 true) (two (words .fp32 [0x3F800000]) (words .fp32 [0, 0, 0x3F800000]) []) = some ([0x7F800000, 0, 0, 0], .fp32, 8) ∧
    low (.vmin 3 1 2 1 true) (two (words .fp32 [0x80000000, 0, 0x7FC00000]) (words .fp32 [0, 0, 0x40000000]) []) =
      some ([0x80000000, 0, 0x40000000, 0], .fp32, 0) := by decide +kernel

/-- Table 7.10. -/
theorem test_vector_functions : low (.vrcp 3 1 1 true) (two (words .fp32 [0xFF800000, 0, 0x40000000]) VecReg.zero []) = some ([0x80000000, 0, 0x3F000000, 0], .fp32, 0) ∧
    low (.vrsqrt 3 1 1 true) (two (words .fp32 [0x40800000, 0, 0x80000000]) VecReg.zero []) = some ([0x3F000000, 0, 0xFF800000, 0], .fp32, 8) ∧
    low (.vexp2 3 1 1 true) (two (words .fp32 [0x3F800000, 0, 0x80000000]) VecReg.zero []) = some ([0x40000000, 0, 0x3F800000, 0], .fp32, 0) ∧
    low (.vlog2 3 1 1 true) (two (words .fp32 [0x41000000, 0, 0x3F800000]) VecReg.zero []) = some ([0x40400000, 0, 0, 0], .fp32, 0) := by
  decide +kernel

/-- The low bits of a predicate and FFLAGS after an instruction. -/
noncomputable def pred (i : Instr) (s : State) : Option (Nat × BitVec 5) :=
  committed i s (fun t => ((vget t.hart.vec.p 2 0).toNat, t.hart.sc.fflags))

/-- R201, R202: signed and unsigned orders, a NaN, the tail above VL.LEN / w, classes. -/
theorem test_vector_compares : pred (.vcmplt 2 1 2 0 true) (two (words .i32 [0xFFFFFFFF, 1]) (words .i32 [1, 1]) []) = some (1, 0) ∧
    pred (.vcmplt 2 1 2 0 true) (two (words .n32 [0xFFFFFFFF, 1]) (words .n32 [1, 2]) []) = some (2, 0) ∧
    pred (.vcmpne 2 1 2 1 true) (two (words .fp32 [0x7FC00000]) (words .fp32 []) []) = some (1, 0) ∧
    pred (.vcmplt 2 1 2 1 true) (two (words .fp32 [0x7FC00000]) (words .fp32 []) []) = some (0, 16) ∧
    pred (.vcmpeqVx 2 1 1 0 true) (two (words .n32 [9]) VecReg.zero [0x100000000]) = some (0xFFFE, 0) ∧
    pred (.vcmpclsVx 2 1 1 1 true) (two (words .fp32 [0x80000000, 0, 0]) VecReg.zero [0x20]) = some (1, 0) := by decide +kernel

/-- The worked sum of R187: sixteen FP32 elements, 2^24 at element 0 and 1 at every other. -/
theorem test_reductions : low (.vredsum 3 1 0) (two (words .fp32 (0x4B800000 :: List.replicate 15 0x3F800000)) VecReg.zero []) =
      some ([0x4B800007, 0, 0, 0], .fp32, 1) ∧
    low (.vredosum 3 1 0) (two (words .fp32 (0x4B800000 :: List.replicate 15 0x3F800000)) VecReg.zero []) =
      some ([0x4B800000, 0, 0, 0], .fp32, 1) ∧
    low (.vredsum 3 1 0) (two (words .i32 [0xFFFFFFFF, 3]) VecReg.zero []) = some ([2, 0, 0, 0], .i32, 0) ∧
    low (.vredsumW 3 1 0) (two (words .n32 [0xFFFFFFFF, 3]) VecReg.zero []) = some ([0x100000002, 0, 0, 0], .n64, 0) ∧
    low (.vredmax 3 1 1) (two (words .i32 [0xFFFFFFFF, 9, 0xFFFFFFFE]) VecReg.zero []) = some ([0xFFFFFFFF, 0, 0, 0], .i32, 0) ∧
    low (.vredand 3 1 1) (two (words .n32 [12, 0, 10]) VecReg.zero []) = some ([8, 0, 0, 0], .n32, 0) := by decide +kernel

/-- R205. -/
theorem test_permutes : low (.vslideup 3 1 1 0 false) (two (words .n32 [1, 2, 3, 4]) VecReg.zero [1]) = some ([0, 1, 2, 3], .n32, 0) ∧
    low (.vslidedn 3 1 1 0 false) (two (words .n32 [1, 2, 3, 4]) VecReg.zero [3]) = some ([4, 0, 0, 0], .n32, 0) ∧
    low (.vrgather 3 1 2 0 false) (two (words .fp32 [1, 2, 3, 4]) (words .n32 [3, 16, 1, 0]) []) = some ([4, 0, 2, 1], .fp32, 0) := by decide +kernel

theorem test_permutes_more :
    low (.vcompress 3 1 1) (two (words .n32 [1, 2, 3, 4]) VecReg.zero []) = some ([1, 3, 0, 0], .n32, 0) ∧
    low (.vexpand 3 1 1 true) (two (words .n32 [1, 2, 3, 4]) VecReg.zero []) = some ([1, 0, 2, 0], .n32, 0) ∧
    low (.vzip 3 1 2 0 false) (two (words .n32 [1, 2]) (words .n32 [5, 6]) []) = some ([1, 5, 2, 6], .n32, 0) ∧
    low (.vunzip 3 1 2 0 false) (two (words .n32 [1, 2, 3, 4]) (words .n32 []) []) = some ([1, 3, 0, 0], .n32, 0) := by decide +kernel

/-- Element 0 of v3 after a conversion of element 0 of v1 from a format, with its flags, under predicate bits 0 and 2. -/
noncomputable def converts (src dst : Fmt) (sat : Bool) (rm : BitVec 2) (x : Nat) : Option (Nat × BitVec 5) :=
  committed (.vcvt 3 1 dst 1 true 0 sat rm) (vecs [] [VecReg.zero, reg src x]) (fun t => ((t.hart.reg 3).elem (width dst) 0, t.hart.sc.fflags))

/-- Table 7.9. -/
theorem test_table_7_9 : [(Fmt.fp32, Fmt.e4m3, false, 0#2, 0x3F800000, 0x38, 0#5), (.fp32, .e2m1, false, 0, 0xC0200000, 0xC, 1),
    (.fp32, .fp16, false, 0, 0x40490FDB, 0x4248, 1), (.fp32, .e5m2, false, 0, 0x40490FDB, 0x42, 1),
    (.fp32, .e2m1, false, 0, 0x43960000, 0x7, 5), (.fp32, .e4m3, false, 0, 0x43FA0000, 0x7F, 5),
    (.fp32, .e4m3, true, 0, 0x43FA0000, 0x7E, 5), (.fp32, .e4m3, false, 1, 0x43FA0000, 0x7E, 5),
    (.fp32, .e5m2, true, 0, 0x47800000, 0x7B, 5), (.fp32, .e4m3, false, 0, 0x3A83126F, 0x01, 3),
    (.fp32, .e4m3, true, 0, 0x7F800000, 0x7E, 16), (.fp32, .e2m1, false, 0, 0x7F800000, 0x7, 16),
    (.fp32, .e2m1, false, 0, 0xFFC00000, 0, 16), (.fp32, .e5m2, false, 0, 0x7F800001, 0x7E, 16),
    (.e4m3, .fp32, false, 0, 0x79, 0x43900000, 0), (.e2m1, .fp32, false, 0, 0xF, 0xC0C00000, 0),
    (.fp32, .i8, false, 0, 0x43960000, 0x7F, 16), (.fp32, .n8, false, 0, 0xC0200000, 0, 16),
    (.i32, .i8, false, 0, 0x12C, 0x2C, 0), (.i32, .i8, true, 0, 0x12C, 0x7F, 0),
    (.i32, .e4m3, true, 0, 0x3E8, 0x7E, 5)].all (fun r =>
      converts r.1 r.2.1 r.2.2.1 r.2.2.2.1 r.2.2.2.2.1 == some (r.2.2.2.2.2.1, r.2.2.2.2.2.2)) = true := by decide +kernel

/-- The hypotheses of the vector statements: a grant, formats of each kind, merges and their absence. -/
theorem test_witness_vector : let s := vecs [] [VecReg.zero, reg .i32 1, reg .i32 2, reg .i32 3, reg .fp32 4, reg .fp32 5, reg .n32 6]
    VecReady s ∧ isInt (s.hart.tag 1) = true ∧ s.hart.mergesInto 3 (s.hart.tag 1) false ∧ s.hart.mergesInto 0 (s.hart.tag 1) false ∧
    s.hart.mergesInto 4 (s.hart.tag 1) true ∧ s.hart.tag 2 = s.hart.tag 1 ∧ s.hart.tag 3 = s.hart.tag 1 ∧ isSigned (s.hart.tag 1) = true ∧
    isFloat (s.hart.tag 4) = true ∧ s.hart.tag 5 = s.hart.tag 4 ∧ s.hart.tag 4 = .fp32 ∧ s.hart.tag 1 ≠ .none ∧ (1 : PReg) ≠ 0 ∧
    isUnsigned (s.hart.tag 6) = true ∧ width (s.hart.tag 6) = width (s.hart.tag 1) ∧ s.hart.ln.len = 2 ^ 9 ∧ width (s.hart.tag 4) < 64 ∧
    (s.hart.tag 1 ≠ .none ∧ Fmt.e4m3 ≠ .none ∧ s.hart.tag 0 = .none ∧ 1 < width (s.hart.tag 1) / width Fmt.e4m3) ∧
    1 < width Fmt.fp64 / width (s.hart.tag 1) := by
  simp only [VecReady, Runs, Hart.mergesInto]
  decide

/-! ## Grants (chapter 6) -/

/-- R136, R137: the largest power of two at or below the request; 512 at least; a square request below 4,096. -/
theorem test_setvl : committed (.setvl 3 1 0) (vecs [3000] [VecReg.zero, words .n32 [1, 2]]) (fun t =>
      (t.g 3, t.hart.ln.len, t.hart.ln.groups.length, (t.hart.reg 1).bits.toNat, t.hart.sc.pc)) = some (2048, 2048, 4, 0x200000001, 0x10004) ∧
    committed (.setvl 3 0 0) (vecs [] []) (fun t => (t.g 3, t.hart.ln.len)) = some (512, 512) ∧
    committed (.setvl 3 1 1) (vecs [2048] []) (fun t => (t.hart.tr.code, t.hart.tr.val)) = some (0x05, 0x2005C304001) := by decide +kernel

/-- Facet 0's governor changed. -/
def governed (f : Governor → Governor) (s : State) : State :=
  { s with power := { s.power with gov := s.power.gov.set 0 (f Governor.initial) } }

/-- The device whose hart may draw 150 mW, for a request of 2,048 bits of a module with some VLMIN. -/
def limited (low : Nat) : State :=
  governed (fun g => { g with allow := Vector.replicate 32 150 }) (machine { vecHart 512 [2048] [] with ln := { lanes 512 with vlmin := low } })

/-- R131, R379: the budget cuts a grant to two groups of 60 mW; below VLMIN it waits, or gives 0 where k[1] = 1. -/
theorem test_limited_grants : committed (.setvl 3 1 0) (limited 512) (fun t => (t.g 3, t.hart.ln.pwr, t.hart.ln.cont, (t.gov 0).gcut)) =
      some (1024, true, false, true) ∧
    committed (.setvl 3 1 0) (limited 2048) (fun t => (t.hart.ln.req.isSome, t.hart.vq.length)) = some (true, 1) ∧
    committed (.setvl 3 1 2) (limited 2048) (fun t => (t.g 3, t.hart.ln.len, t.hart.ln.pwr)) = some (0, 0, true) := by decide +kernel

theorem test_grant_instructions : committed (.vcfg 3 .fp32) (vecs [] [VecReg.zero, VecReg.zero, VecReg.zero, words .i8 [9]]) (fun t =>
      ((t.hart.reg 3).bits.toNat, t.hart.tag 3)) = some (0, .fp32) ∧
    committed (.vmvg 5 1 1) (vecs [1] [VecReg.zero, words .i32 [1, 0x80000000]]) (fun t => t.g 5) = some 0xFFFFFFFF80000000 ∧
    committed (.vmvg 5 1 1) (vecs [16] [VecReg.zero, words .i32 [1]]) (fun t => t.g 5) = some 0 ∧
    low (.vins 3 1 2) (vecs [0xAABBCCDDEE, 2] [VecReg.zero, VecReg.zero, VecReg.zero, words .n32 [1]]) =
      some ([1, 0, 0xBBCCDDEE, 0], .n32, 0) := by decide +kernel

theorem test_vfree : committed .vfree (vecs [] [VecReg.zero, words .i32 [7]]) (fun t =>
      (t.hart.ln.len, t.hart.ln.groups, t.hart.ln.released, (t.hart.reg 1).bits.toNat, t.hart.tag 1, t.hart.pbit 1 0)) =
    some (512, [], true, 0, .i32, false) := by decide +kernel

theorem test_witness_grants : let s := vecs [4096, 2048] [VecReg.zero, reg .i32 1]
    Runs s s.hart.id.ref ∧ s.hart.vq = [] ∧ s.hart.tr.voff = false ∧ s.hart.ln.vlmax = 2 ^ 16 ∧ s.others = [] ∧
    (s.power.gov[s.hart.id.facet]?.all (fun g => decide (4096 / 512 * 94 * g.ratio ≤ vget g.allow s.hart.id.cluster 0 * 1000))) = true ∧
    (sideOf 4096).isSome = true ∧ (2048 < 4096) ∧ (1#2).getLsbD 0 = true ∧ s.hart.tag 1 ≠ .none ∧ s.hart.tag 0 = .none ∧
    (s.hart.reg 1).bits.toNat < 2 ^ s.hart.ln.len ∧ VecReady s := by
  simp only [VecReady, Runs]
  decide +kernel

/-! ## Vector accesses of the near window (chapter 11) -/

/-- The device with a grant of 512 bits, a segment, general and vector registers. -/
def vnear (seg : List Host.Cell) (g : List Word) (v : List VecReg) : State := { vecs g v with teams := [{ team with seg := seg }] }

/-- Bytes from an offset on. -/
def bytesAt (o : Nat) (l : List Nat) : List Host.Cell := l.zipIdx.map (fun x => (o + x.2, BitVec.ofNat 8 x.1))

/-- R266, R267: unit stride, a stride, an index vector, a nibble format; an inactive element is zero. -/
theorem test_vector_loads : low (.vld 3 1 0 1 .n32) (vnear (bytesAt 0 [1, 2, 3, 4, 5, 6, 7, 8, 9]) [nw] []) =
      some ([0x04030201, 0, 9, 0], .n32, 0) ∧
    low (.vlds 3 1 2 1 .n8) (vnear (bytesAt 0 [1, 2, 3, 4, 5, 6, 7, 8, 9]) [nw, 3] []) = some ([1, 0, 7, 0], .n8, 0) ∧
    low (.vldx 3 1 2 1 .n8) (vnear (bytesAt 0 [1, 2, 3, 4, 5, 6, 7, 8, 9]) [nw + 4] [VecReg.zero, VecReg.zero, words .i32 [0xFFFFFFFC, 0, 4]]) =
      some ([1, 0, 9, 0], .n8, 0) ∧
    low (.vld 3 1 0 1 .e2m1) (vnear (bytesAt 0 [0x21, 0x43]) [nw] []) = some ([1, 0, 3, 0], .e2m1, 0) := by decide +kernel

/-- R270: the second sixteen bytes of a first-fault load lie past the segment's end. -/
theorem test_first_fault : committed (.vldff 3 1 0 0 .n32) (vnear [(0xFFF0, 7)] [nw + 0xFFF0] []) (fun t =>
      ((t.hart.reg 3).elem 32 0, t.hart.ln.tv, t.hart.ln.trim, t.hart.tr.hm)) = some (7, true, 4, false) ∧
    committed (.vld 3 1 0 0 .n32) (vnear [(0xFFF0, 7)] [nw + 0xFFF0] []) (fun t => (t.hart.tr.code, t.hart.tr.val, t.hart.tr.elem)) =
      some (0x08, nw + 0x10000, 4) := by decide +kernel

theorem test_vector_stores : committed (.vst 3 1 0 1 false) (vnear [] [nw] [VecReg.zero, VecReg.zero, VecReg.zero, words .n8 [0x04030201]])
      (fun t => t.seg) = some [(0, 1), (2, 3)] ∧
    committed (.vsts 3 1 2 1 false) (vnear [] [nw, 16] [VecReg.zero, VecReg.zero, VecReg.zero, words .n8 [0x04030201]]) (fun t => t.seg) =
      some [(0, 1), (32, 3)] ∧
    committed (.vst 3 1 0 1 false) (vnear [(0, 0xF0), (1, 0xF0)] [nw] [VecReg.zero, VecReg.zero, VecReg.zero, reg .e2m1 0x321]) (fun t => t.seg) =
      some [(0, 0xF1), (1, 0xF3)] := by decide +kernel

/-- R274, R275: two active elements; a floating-point sum. -/
theorem test_vector_atomics : committed (.vamoAdd 3 1 2 1 .team) (vnear [(0, 5), (8, 6)] [nw]
      [VecReg.zero, VecReg.zero, words .n32 [0, 4, 8], words .n32 [10, 20, 30]]) (fun t =>
        (t.seg, (List.range 3).map ((t.hart.reg 3).elem 32))) = some ([(0, 15), (8, 36)], [5, 20, 6]) ∧
    committed (.vamoFadd 3 1 2 1 .team) (vnear (bytesAt 0 [0, 0, 0x80, 0x3F]) [nw]
      [VecReg.zero, VecReg.zero, words .n32 [0, 4, 8], words .fp32 [0x3F800000, 0, 0]]) (fun t => readLE t.seg 0 4) = some 0x40000000 := by
  decide +kernel

/-- R276 to R280: the image of a predicate, out and in; an address that is no multiple of 128. -/
theorem test_images :
    committed (.vstR 1 1 0 true) (vnear [] [nw] []) (fun t => (readLE t.seg 2 6, readLE t.seg 8 8, readLE t.seg 128 2)) =
      some (0x000000090002, 16, 5) ∧
    committed (.vldR 2 1 0 true) (vnear (bytesAt 0 [0x20, 0x07, 2, 0, 9, 0, 0, 0, 16] ++ [(128, 9)]) [nw] []) (fun t =>
      (vget t.hart.vec.p 2 0).toNat) = some 9 ∧
    committed (.vstR 1 1 0 false) (vnear [] [nw + 64] []) (fun t => (t.hart.tr.code, t.hart.tr.val)) = some (0x06, nw + 64) := by
  decide +kernel

/-- The hypotheses of the statements on vector accesses; the first and the last element of a segment. -/
theorem test_witness_vector_access : let s := vnear [] [nw, nw + 0xFFFC, 32] [VecReg.zero, reg .n32 1, words .i32 [0, 4, 8], reg .e2m1 1]
    VecReady s ∧ NoElementRead s ∧ FromStart s ∧ Memory.wf s.seg = true ∧ InSegment s (s.g 1) 4 ∧ InSegment s (s.g 2) 4 ∧
    InSegment s nw 1 ∧ isInt (s.hart.tag 2) = true ∧ s.hart.tag 1 = .n32 ∧ s.hart.tag 3 = .e2m1 ∧
    (vget s.hart.streams s.hart.sc.cpSel.toNat Stream.empty).queue = [] ∧ s.hart.active 1 32 0 = true ∧ s.hart.active 1 32 2 = true ∧
    (s.hart.active 1 32 1 = false ∧ InSegment s (s.g 2 + 0) 4 ∧ nearVa + s.segBytes ≤ (s.g 2 + 8#64).toNat ∧
      (s.g 2 + 8#64).toNat < nearVa + 0x400000) ∧
    ((List.range 16).filter (fun j => s.hart.active 1 32 j)).Pairwise (fun i j => nw + BitVec.ofNat 64 (4 * i) ≠ nw + BitVec.ofNat 64 (4 * j)) ∧
    s.hart.ln.len = 2 ^ 9 ∧ (nw.toNat % 128 = 0 ∧ s.segBytes ≤ 0x400000 ∧ nearOff nw + roundUp (128 + 512 / 8) 128 ≤ s.segBytes) ∧
    (nw + 64).toNat % 128 ≠ 0 := by
  simp only [VecReady, Runs, NoElementRead, FromStart, InSegment]
  decide +kernel

/-- A header of each kind of image in the segment, and a gang's side. -/
theorem test_witness_images : let s := vnear (bytesAt 0 [0x20, 0x07, 1, 14, 9, 0, 0, 0, 64]) [nw] []
    readLE s.seg 0 2 = 0x0720 ∧ readLE s.seg 2 1 = 1 ∧ readLE s.seg 3 1 = Fmt.fp32.code.toNat ∧ readLE s.seg 4 1 = 9 ∧ readLE s.seg 5 1 = 0 ∧
    readLE s.seg 6 2 = 0 ∧ readLE s.seg 8 4 = 512 / 8 ∧ readLE s.seg 12 116 = 0 ∧ sideOf 4096 = some 8 ∧ matrixFmt .e2m1 = true := by
  decide +kernel

/-! ## Predicates and matrix gangs (chapters 8 and 9) -/

/-- Table 8.6 and R209 with p1 = 0b101: `pset` of 3, the counts, the break. -/
theorem test_predicates : pred (.pset 1 2) (vecs [3] []) = some (7, 0) ∧ pred (.pnot 2 1) (vecs [] []) = some (2 ^ 128 - 6, 0) ∧
    pred (.pandn 2 0 1) (vecs [] []) = some (2 ^ 128 - 6, 0) ∧ pred (.pbrk 2 1 0) (vecs [] []) = some (1, 0) ∧
    committed (.pcnt 5 1 0) (vecs [] []) (fun t => t.g 5) = some 2 ∧ committed (.pffs 5 1 0) (vecs [] []) (fun t => t.g 5) = some 0 ∧
    committed (.pffs 5 2 0) (vecs [] []) (fun t => t.g 5) = some (-1) := by decide +kernel

/-- A gang of side 8 with two registers and tile 0. -/
def gang (t : TileReg) (a b : VecReg) (g : List Word) : State :=
  let h := vecHart 4096 g [VecReg.zero, a, b]
  machine { h with vec := { h.vec with t := h.vec.t.set 0 t } }

/-- A tile of FP32 or of FP64-wide side 16 with one accumulator set. -/
def tile (f : Fmt) (n : Nat) (x : BitVec 32) : TileReg := { fmt := f, acc := x :: List.replicate (n * n - 1) 0 }

/-- R215 to R220: 2 × 3 + 1 in FP32 at n = 16; a tile of another format; a read of row 15; a gang of no side. -/
theorem test_gang : committed (.oacc 0 1 2 0) (gang (tile .fp32 16 0x3F800000) (words .fp32 [0x40000000]) (words .fp32 [0x40400000]) [])
      (fun t => ((t.hart.tile 0).acc.getD 0 0, (t.hart.tile 0).acc.getD 1 0)) = some (0x40E00000, 0) ∧
    committed (.oacc 0 1 2 0) (gang (tile .fp16 32 0) (words .fp32 []) (words .fp32 []) []) (fun t => (t.hart.tr.code, t.hart.tr.val)) =
      some (0x03, 0xEEC80088000) ∧
    committed (.mzero 1 .fp32) (gang TileReg.zero VecReg.zero VecReg.zero []) (fun t => ((t.hart.tile 1).fmt, (t.hart.tile 1).acc.length)) =
      some (.fp32, 256) ∧
    committed (.mzero 1 .fp32) (vecs [] []) (fun t => (t.hart.tr.code, t.hart.tr.val)) = some (0x05, 0x20081700080) := by decide +kernel

theorem test_gang_rows : committed (.mrd 0 3 1) (gang (tile .fp32 16 0x3F800000) VecReg.zero VecReg.zero [0]) (fun t =>
      ((t.hart.reg 3).elem 32 0, t.hart.tag 3)) = some (0x3F800000, .fp32) ∧
    committed (.mrd 0 3 1) (gang (tile .fp32 16 0x3F800000) VecReg.zero VecReg.zero [1]) (fun t => (t.hart.reg 3).elem 32 0) = some 0 ∧
    committed (.mwr 0 1 1) (gang (tile .fp32 16 0x3F800000) (words .fp32 [5]) VecReg.zero [15]) (fun t =>
      ((t.hart.tile 0).acc.getD 0 0, (t.hart.tile 0).acc.getD 240 0)) = some (0x3F800000, 5) := by decide +kernel

theorem test_witness_gang : let s := gang (tile .fp32 16 0) (words .fp32 [1]) (words .fp32 [2]) []
    VecReady s ∧ matrixFmt .fp32 = true ∧ sideOf s.hart.ln.len = some 8 ∧ sideOf (vecs [] []).hart.ln.len = none ∧
    (s.hart.tile 0).fmt = .fp32 ∧ (s.hart.tile 1).fmt = .none ∧ s.hart.tag 1 = .fp32 ∧ s.hart.tag 2 = .fp32 ∧
    (∀ vl ∈ [(4096, 8), (16384, 16), (65536, 32)], sideOf vl.1 = some vl.2) := by
  simp only [VecReady, Runs]
  decide +kernel

/-! ## Handing copies over (chapter 12) -/

/-- A hart with a grant whose DIM registers describe rows of 256 bytes: near pitch 256, memory pitch 512, a count. -/
def copier (count : Word) (g : List Word) (v : List VecReg) : State :=
  let h := vecHart 512 g v
  machine { h with sc := { h.sc with dim0 := 0x20000100, dim1 := 0x10000000, dim2 := count } }

theorem test_copies : committed (.cpt 1 2 3) (copier 2 [nw, 0x20000] []) (fun t => (t.hart.stream 3).queue.flatMap (fun o =>
      o.rows.map (fun r => (r.near, r.mem)))) = some [(0, 0x20000), (256, 0x20200)] ∧
    committed (.cpg 1 2 4 3 1) (copier 2 [nw, 0x20000] [VecReg.zero, VecReg.zero, VecReg.zero, VecReg.zero, words .i32 [1, 0, 9]]) (fun t =>
      ((t.hart.stream 3).queue.flatMap (fun o => o.rows.map (fun r => (r.near, r.mem, r.fill))), t.hart.sc.cpBnd)) =
      some ([(0, 0x20200, false), (512, 0x21200, true)], 8) ∧
    committed (.cpt 1 2 3) (machine (vecHart 512 [nw, 0x20000] [])) (fun t => t.hart.tr.code) = some 0x06 := by decide +kernel

theorem test_witness_copies : let s := copier 2 [nw, 0x20000] [VecReg.zero, VecReg.zero, VecReg.zero, VecReg.zero, words .i32 [1, 0, 9]]
    let d0 := s.hart.sc.dim0
    let step : Int := (s.hart.sc.dim1.extractLsb' 20 40).toInt
    let pitch : Int := (d0.extractLsb' 20 40).toInt
    VecReady s ∧ (vget s.hart.streams 3 Stream.empty).queue = [] ∧ d0.toNat % 2 ^ 20 = 256 ∧ step = 256 ∧ pitch = 512 ∧
    s.hart.sc.dim1.toNat / 2 ^ 60 % 4 = 0 ∧ s.hart.sc.dim2.toNat % 2 ^ 20 = 2 ∧ (s.g 2).toNat % 16 = 0 ∧ inNear (s.g 1).toNat = true ∧
    inNear (s.g 2).toNat = false ∧ nearOff (s.g 1) + 1 * 256 + 256 ≤ s.segBytes ∧ isInt (s.hart.tag 4) = true ∧ s.hart.ln.vstart = 0 ∧
    (vecs [] []).hart.sc.dim0.toNat % 2 ^ 20 < 16 ∧ (vget (copying copyRow []).hart.streams 0 Stream.empty).queue = [copyOp copyRow] := by
  simp only [VecReady, Runs]
  decide +kernel

/-- Rows that R226 and R227 allow, and one that they do not. -/
theorem test_witness_rows_legal : RowsLegal (copier 2 [nw, 0x20000] []) 256 [copyRow, { copyRow with mem := 0x20200 }] ∧
    ¬RowsLegal (copier 2 [nw, 0x20000] []) 16 [{ copyRow with mem := 0x0100000000020000 }] := by
  simp only [RowsLegal, EntryReady]
  decide +kernel

/-- A stream whose copy still has to write the granule at byte 32 of the near window. -/
def arriving (g : List Word) : State :=
  let s := vnear (bytesAt 0 [1, 2, 3, 4]) g []
  s.withHart { s.hart with
    streams := s.hart.streams.set 0 { Stream.empty with ops := 1, queue := [copyOp { copyRow with near := 32 }], newest := none } }

/-- R281, R276: `vld.av` reads the elements below the first that is missing and trims VL; `vld.am` waits; an address that is no multiple of
128 is Misaligned. -/
theorem test_arrival_loads : committed (.vldAv 3 1 0 .n32) (arriving [nw]) (fun t => ((t.hart.reg 3).elem 32 0, t.hart.ln.tv, t.hart.ln.trim)) =
      some (0x04030201, true, 8) ∧
    committed (.vldAm 3 1 0 .n32) (arriving [nw]) (fun t => t.hart.vq.length) = some 1 ∧
    committed (.vldAv 3 1 0 .n32) (arriving [nw + 64]) (fun t => (t.hart.tr.code, t.hart.tr.val)) = some (0x06, nw + 64) := by decide +kernel

/-- The hypotheses of VectorLoads and CopyHandOff on missing rows, and each check of Table 12.3 that fails. -/
theorem test_witness_arrivals_and_checks : (let s := arriving [nw]
     let o := copyOp { copyRow with near := 32 }
     VecReady s ∧ NoElementRead s ∧ NoCause s ∧ MayTrap s ∧ (s.space s.sp).logBase = 0 ∧
      (vget s.hart.streams s.hart.sc.cpSel.toNat Stream.empty).queue = [o] ∧ (s.g 1 + s.g 0).toNat % 128 = 0 ∧
      (∃ i, i < 4 ∧ (nw + 32 + BitVec.ofNat 64 i - rowDest o { copyRow with near := 32 }).toNat < o.len) ∧
      ∀ j, j < 8 → InSegment s (nw + BitVec.ofNat 64 (4 * j)) 4 ∧ ∀ i, i < 4 →
        ¬(nw + BitVec.ofNat 64 (4 * j) + BitVec.ofNat 64 i - rowDest o { copyRow with near := 32 }).toNat < o.len) ∧
    (let i := Instr.cpt 1 2 3
     let run (s : State) (d0 d1 d2 : Word) := committed i (s.withHart { s.hart with sc := { s.hart.sc with dim0 := d0, dim1 := d1, dim2 := d2 } })
       (fun t => (t.hart.tr.code.toNat, t.hart.tr.val, t.hart.tr.elem))
     let s := copier 2 [nw, 0x20000] []
     let d0 := 0x20000100#64
     let d1 := 0x10000000#64
     [run s 24 d1 2, run s d0 0x8000000 2, run s d0 d1 0, run (copier 2 [nw, 0x20008] []) d0 d1 2, run s 0x800100 d1 2,
       run (copier 2 [0x20000, 0x20000] []) d0 d1 2, run (copier 2 [nw, nw] []) d0 d1 2, run (copier 2 [nw + 0xFE00 + 0x80, 0x20000] []) d0 d1 2,
       run (copier 2 [nw, 0x0100000000020000] []) d0 d1 2] =
      [some (6, 24, 0), some (6, 0x8000000, 0), some (6, 0, 0), some (6, 0x20008, 0), some (6, 0x800100, 0), some (8, 0x20000, 0),
        some (8, nw, 0), some (8, nw + 0x10000, 1), some (8, 0x0100000000020000, 0)]) := by
  simp only [VecReady, Runs, NoElementRead, NoCause, MayTrap, InSegment]
  decide +kernel

/-! ## Power, heat and time (chapters 16 and 17) -/

/-- R4, R375, R401: in 1,000 ns without a throttle the lane clock counts 1,050 cycles and CYCLE 2,100. -/
theorem test_clocks : (let c := passClock (regs []) 1000
    (vget c.lane 0 0, vget c.cycle 0 0, c.now)) = (1050 * 1000, 2100, 1000) := by decide +kernel

/-- The device at a global time, so many nanoseconds after its reset. -/
def at_ (t : Word) (s : State) : State := { s with clock := { s.clock with now := t, ran := t.toNat } }

/-- The device in a bring-up state, with no vector masked. -/
def booted (st : HostState) : State :=
  { regs [] with boot := { State.reset.boot with state := st, memok := st == .ready, msixMask := 0 } }

/-- R377: LBUD at most its ceiling and FBUD; DIDT of 127 is ignored; a CRIT above the ceiling is the ceiling; a wrong order is
ignored whole. R379: the first step, the second after it, and a rail's surge, which goes to the folds at once. -/
theorem test_governor : after (exec (.governorWrite 0 0 0x7F07D00FFF) (booted .ready)) (fun t => (t.gov 0).lbud) = some 1550 ∧
    after (exec (.governorWrite 0 0 0x7F03E80FFF) (booted .emergency)) (fun t => ((t.gov 0).lbud, (t.gov 0).fbud, (t.gov 0).didt)) =
      some (1000, 1000, 128) ∧
    after (exec (.governorWrite 0 1 0x466E5A) (booted .ready)) (fun t => ((t.gov 0).warn, (t.gov 0).crit, (t.gov 0).resume)) = some (90, 105, 70) ∧
    after (exec (.governorWrite 0 1 0x575F5B) (booted .ready)) (fun t => ((t.gov 0).warn, (t.gov 0).crit, (t.gov 0).resume)) = some (95, 105, 85) ∧
    after (exec (.governorStep 0 { mw := 600001, rail := 100 }) (regs [])) (fun t => (t.gov 0).step) = some 1 ∧
    after (exec (.governorStep 0 { mw := 600001, rail := 110 }) (governed (fun g => { g with step := 1 }) (regs [])))
      (fun t => ((t.gov 0).step, (t.gov 0).idle)) = some (2, true) ∧
    after (exec (.governorStep 0 { mw := 0, rail := 111 }) (regs [])) (fun t => ((t.gov 0).step, (t.gov 0).idle)) = some (3, true) ∧
    after (exec (.governorTick 0 5000) (regs [])) (fun t => ((t.gov 0).ratio, (t.gov 0).minsp, vget (t.gov 0).allow 31 0)) =
      some (2000, 8, 12109) := by decide +kernel

theorem test_heat_and_gates : after (exec (.thermalWarn 0 95) (regs [])) (fun t => ((t.gov 0).hot, (t.gov 0).shed)) = some (95, true) ∧
    after (exec (.throttleStep 0) (at_ 1000000 (governed (fun g => { g with hot := 95 }) (regs [])))) (fun t => ((t.gov 0).thr, (t.gov 0).thrdn)) =
      some (1, true) ∧
    after (exec (.laneClockGate me) (machine { vecHart 512 [] [] with ln := { lanes 512 with laneIdle := 4096000, clockGated := false } }))
      (fun t => t.hart.ln.clockGated) = some true ∧
    after (exec (.energyUpdate [(0x4000, 7), (0, 5)]) (regs [])) (fun t => (energyAt t 0x4000, energyAt t 0, energyAt t 0x4008)) =
      some (7, 5, 12) ∧
    after (exec (.timeStep (-5)) (at_ 9 (booted .ready))) (fun t => (t.clock.now, t.clock.steps)) = some (4, 1) ∧
    after (exec .ppsTimeout { regs [] with clock := { State.reset.clock with ppsv := true, ran := 1100000000 } })
      (fun t => t.clock.ppsv) = some false := by decide +kernel

/-- The hypotheses of PowerAndTime: every step of the governor, idle lanes, heat above, below and between, the 1.1 s. -/
theorem test_witness_power : ((regs []).gov 0).fbud.toNat * 250 < 600001 ∧
    (∀ n ∈ [0, 1, 2, 3, 5], let g := governed (fun g => { g with step := n, under := some 0 }) (at_ 100000 (regs []))
      (g.gov 0).step = n ∧ (g.gov 0).since + 100000 ≤ g.clock.ran ∧ (g.gov 0).under = some 0 ∧ 0 + 100000 ≤ g.clock.ran ∧
        (g.gov 0).thr ≠ 3 ∧ (∀ h ∈ g.harts, h.id.facet = 0 → foldable h = false)) ∧
    ¬((regs []).gov 0).since + 100000 ≤ (regs []).clock.ran ∧ 110 < 111 ∧ ((regs []).gov 0).under = none ∧
    (let s := machine { vecHart 512 [] [] with ln := { lanes 512 with clockGated := false } }
     vget ((governed (fun g => { g with allow := Vector.replicate 32 0 }) s).gov 0).allow 0 0 < clusterCost s 0 0 1000) ∧
    (booted .ready).boot.state = .ready ∧ (booted .emergency).boot.state = .emergency ∧ (booted .rom).boot.state = .rom ∧
    energyAssigned 0x4000 = true ∧ energyAssigned 1 = false ∧ energyOffset 0x4000 = true ∧ 4096000 ≤ 4096000 ∧
    (regs []).hart.run ≠ .idle ∧ (regs []).hart.id.ref = me ∧ (regs []).others = [] ∧ (lanes 512).groups ≠ [] ∧
    ((regs []).gov 0).thrSince + 1000000 ≤ (at_ 1000000 (regs [])).clock.ran ∧ ((regs []).gov 0).step ≤ 3 ∧ ((regs []).gov 0).hot.toNat + 3 < ((regs []).gov 0).warn.toNat ∧
    ((governed (fun g => { g with hot := 92 }) (regs [])).gov 0).hot.toNat < 95 ∧
    95 ≤ ((governed (fun g => { g with hot := 92 }) (regs [])).gov 0).hot.toNat + 3 ∧
    (∀ h ∈ (regs []).harts, h.ln.req = none ∧ h.ln.groups = [] ∧ h.buffered = []) ∧
    (let s := at_ 1100000000 { regs [] with clock := { State.reset.clock with ppsv := true } }
     s.clock.ppsv = true ∧ s.clock.ppsAt + 1100000000 ≤ s.clock.ran) := by decide +kernel

/-! ## Causes that arise by themselves (R334, R342, R354, R363, R374) -/

/-- A barrier at which every member has arrived. -/
def full : Barrier := { bar [me] with arrived := [me] }

/-- The hart with a notice of each kind. -/
def noticed (n : Notices) : State := machine { hartWith [] with notice := n }

theorem test_async : after (exec (.asyncCauseTake me) (noticed { thermal := some 3, preempt := some 4, watchdog := some 5 })) (fun t =>
      (t.hart.tr.code, t.hart.tr.async, t.hart.tr.val, t.hart.notice.thermal, t.hart.notice.preempt)) = some (0x14, true, 3, none, some 4) := by decide +kernel

theorem test_async_order :
    after (exec (.asyncCauseTake me) (noticed { thermal := none, preempt := none, watchdog := some 5 })) (fun t =>
      (t.hart.tr.code, t.hart.tr.val)) = some (0x15, 5) ∧
    after (exec (.asyncCauseTake me) (machine { hartWith [] with stores := [line .held], recs := [0x5000] })) (fun t =>
      (t.hart.tr.code, t.hart.tr.val, t.hart.tr.nrec, t.hart.stores.map (fun l => l.delivered))) = some (0x09, 0x5000, 1, [true]) ∧
    after (exec (.barrierComplete .team 1 0 0) (meeting false full (hartWith []))) (fun t =>
      (barrierOf t .team 1 0 0).map (fun y => (y.cur, y.arrived, y.windows.map (fun w => w.gen)))) = some (some (6, [], [5])) := by decide +kernel

theorem test_phase_plan : after (exec (.phasePlanWrite 0 0 0x703) (booted .ready)) (fun t => (vget t.power.plan 0 PhasePlan.initial).nph) = some 15 ∧
    after (exec (.phasePlanWrite 0 0 0x10003) (booted .ready)) (fun t => ((vget t.power.plan 0 PhasePlan.initial).nph,
      (vget t.power.plan 0 PhasePlan.initial).spacing, (vget t.power.plan 0 PhasePlan.initial).liveNph)) = some (3, 256, 15) := by
  decide +kernel

theorem test_words_that_are_none : after (exec (.illegalWord 0x04820580 none) (regs [])) (fun t => (t.hart.tr.code, t.hart.tr.val,
      t.hart.sc.iseq)) = some (0x01, 0x04820580, 0) ∧
    after (exec (.illegalWord 0xF8090000 (some 1)) (regs [])) (fun t => (t.hart.tr.code, t.hart.tr.val)) = some (0x01, 0x1F8090000) ∧
    after (exec (.continuation 0xFC000000) (regs [])) (fun t => (t.hart.tr.code, t.hart.tr.val)) = some (0x02, 0xFC000000) ∧
    after (exec (.watchdog me) { machine { hartWith [] with runNs := 2000000 } with spaces := [{ Space.blank 0 with wdog := 2 }] })
      (fun t => (t.hart.dogAt, t.hart.notice.watchdog)) = some (2000000, some 2) := by decide +kernel

/-- The hart that waits for generation 5 of barrier 0, which has completed. -/
def resuming (gang : Bool) (x : Barrier) (k : BarKind) : State := meeting gang x { hartWith [] with wait := .barrier (barSlot k 0) 5 }

theorem test_witness_async : (let s := meeting false full (hartWith [])
      barrierOf s .team 1 0 0 = some full ∧ full.members ≠ [] ∧ (∀ m ∈ full.members, m ∈ full.arrived) ∧ windowsClosed s .team 0 full = true) ∧
    (∃ m ∈ (bar [me]).members, m ∉ (bar [me]).arrived) ∧
    (let s := resuming false { bar [me] with cur := 6 } .team
     Runs s me ∧ s.hart.wait = .barrier (barSlot .team 0) 5 ∧ myBarrier s .team = some (1, 0) ∧
       barrierOf s .team 1 0 0 = some { bar [me] with cur := 6 } ∧ released s { bar [me] with cur := 6 } 5 = true ∧
       phaseSpaced s .team (myRelease s { bar [me] with cur := 6 } 5) = true) ∧
    (∀ n ∈ [0, 1], let s := resuming true (opened n) .package
     myBarrier s .package = some (1, 0) ∧ barrierOf s .package 1 0 0 = some (opened n) ∧ (opened n).cur ≠ 5 ∧
       released s (opened n) 5 = decide (n = 0) ∧ phaseSpaced s .package (myRelease s (opened n) 5) = true) ∧
    (let s := noticed { thermal := some 3, preempt := some 4, watchdog := some 5 }
     Runs s me ∧ s.hart.tr.hm = false ∧ (s.space s.sp).teEn = true ∧ headStarted s s.hart = false ∧
       s.hart.wait.mustFinish = false ∧ s.hart.wait ≠ .commitQueue ∧ s.hart.notice.thermal = some 3) ∧
    (machine { hartWith [] with stores := [line .held], recs := [0x5000] }).hart.undelivered = true ∧
    (machine { hartWith [] with streams := (copying { copyRow with held := true } []).hart.streams, wait := .release }).hart.undeliveredRow = true ∧
    (let s := machine { hartWith [] with stores := [line .held], wait := .release, vq := [entry 0x64008000] }
     s.hart.undelivered = true ∧ s.hart.vq ≠ [] ∧ headStarted s s.hart = false) ∧
    windowsClosed (meeting true { opened 1 with arrived := [me, peer] } (hartWith [])) .package 0 (opened 1) = false ∧
    ({ Barrier.none with left := [0] } : Barrier).left ≠ [] ∧ Barrier.none.members = [] ∧
    0 < (2#8).toNat * 1000000 ∧ (0 + 1) * ((2#8).toNat * 1000000) ≤ 2000000 ∧ MayTrap (regs []) := by
  simp only [Runs, MayTrap]
  decide +kernel

/-! ## Bring-up, firmware and links (chapter 18) -/

/-- A firmware image. -/
def image (rollback : Nat) (ok : Bool) : Image := { bytes := [1, 2, 3], rollback := rollback, formatOk := ok, signature := [9] }

theorem test_bring_up : after (exec (.cxlLinkTrain false) (booted .ready)) (fun t => (t.boot.state, t.boot.fail, t.boot.memok, t.boot.msix)) =
      some (.recovery, 5, false, 2) ∧
    after (exec (.attestRequest 7) (booted .ready)) (fun t => (t.boot.nonce, t.boot.response.isNone)) = some (some 7, true) ∧
    after (exec (.attestRequest 7) (booted .rom)) (fun t => t.boot.nonce) = some none ∧
    after (exec .hcmdInstall (booted .ready)) (fun t => (t.boot.state, t.boot.memok)) = some (.ready, true) ∧
    after (exec (.peerLinkUp 2 9) (booted .ready)) (fun t => (t.ports[2]?.map (fun p => (p.up, p.peer)), t.boot.msix)) = some (some (true, 9), 4) ∧
    after (exec (.configWrite (.hub 0) 0x20) { booted .ready with boot := { (booted .ready).boot with hostto := true } }) (fun t => t.boot.hostto) =
      some false := by decide +kernel

/-- A port that is up and holds messages. -/
def portWith (flight : List PortMsg) : Port := { en := true, up := true, peer := 9, retry := 0, lost := 0, flight := flight }

/-- The device whose port 0 holds a message. -/
def linked : State :=
  { booted .ready with
    ports := State.reset.ports.set 0 (portWith [{ device := 9, queue := 3, msg := 0x0021, origin := .launch, part := 0, source := some me, cls := 3 }]) }

theorem test_link_down : after (exec (.peerLinkDown 0) linked) (fun t => (t.ports[0]?.map (fun p => (p.up, p.lost, p.flight.length)),
      t.events.map (fun e => (e.queue, e.code, e.origin)))) = some (some (false, 1, 0), [(3, 6, .launch)]) := by decide +kernel

/-- The hypotheses of BringUpAndLinks. The signature check is the implementation's (log 12), so it stands as a premise. -/
theorem test_witness_bring_up (h : Config.verifies [1, 2, 3] [9] = true) :
    (let fails (fused : Nat) (x : Image) : BitVec 8 := if Config.verifies x.bytes x.signature = false then 1
      else if x.rollback < fused then 2 else if x.formatOk = false then 3 else 0
     fails 0 (image 0 true) = 0 ∧ fails 1 (image 0 true) = 2 ∧ fails 0 (image 0 false) = 3) ∧
    (booted .ready).boot.staged = none ∧ ({ (booted .ready).boot with staged := some (image 0 true) }).staged = some (image 0 true) ∧
    (∀ st ∈ [HostState.ready, .recovery, .tripped], hcmdAccepted (booted st) = true) ∧ hcmdAccepted (booted .emergency) = false ∧
    (let b := { (booted .ready).boot with nonce := some 7 }
     b.nonce = some 7 ∧ b.response = none ∧ ({ b with response := some (attestation (booted .ready) 7) }).response ≠ none) ∧
    (booted .ready).boot.nonce = none ∧ (linked.ports[0]?.map (fun p => p.up)) = some true ∧ linked.boot.msixMask.getLsbD 2 = false := by
  simp only [image, h]
  decide +kernel

/-! ## Heat (chapter 16) -/

/-- An emergency of facet 0 after a stage. -/
def burning (stage : Nat) (cool : Option Nat) (t : Team) : State :=
  { booted .emergency with
    teams := [t]
    power := { State.reset.power with
      emergency := some { facet := 0, temp := 105, start := 0, stage := stage, cool := cool }
      pm := some { magic := true, cause := 1, stage := 0, facet := 0, temp := 105, tcrit := 0, ttrip := 0, linesLost := 0, entries := [] } } }

theorem test_emergency : after (exec (.thermalEmergency 0 105) (booted .ready)) (fun t => (t.boot.state, t.power.emergency.map (fun e => e.stage),
      t.power.pm.map (fun p => (p.cause, p.entries.length)))) = some (.emergency, some 0, some (1, 1)) ∧
    after (exec (.thermalEmergency 0 104) (booted .ready)) (fun t => t.boot.state) = some .ready ∧
    after (exec .emergencyStageComplete (burning 0 none team)) (fun t => (t.power.emergency.map (fun e => e.stage),
      t.teams.map (fun x => x.status))) = some (some 1, [.stopped .thermal]) ∧
    after (exec .emergencyStageComplete (burning 4 none { team with spaceSaved := true })) (fun t => t.power.emergency.map (fun e => e.stage)) =
      some (some 5) ∧
    after (exec (.hardTrip 0 115) { booted .ready with mem := [(5, 1)], backing := [(5, 0)] }) (fun t => (t.boot.state, t.mem, t.boot.memok)) =
      some (.tripped, [], false) ∧
    after (exec (.hardTrip 0 114) (booted .ready)) (fun t => t.boot.state) = some .ready := by decide +kernel

/-- R391: 100 ms at or below RESUME, and a team that the emergency stopped is resident again. -/
theorem test_thermal_resume :
    after (exec .thermalResume (at_ 100000000 (burning 5 (some 0) { team with status := .stopped .thermal, spaceSaved := true }))) (fun t =>
      (t.boot.state, t.teams.map (fun x => (x.status, x.spaceSaved)))) = some (.ready, [(.resident, false)]) := by decide +kernel

theorem test_witness_emergency : (booted .ready).boot.state = .ready ∧ ((booted .ready).gov 0).crit.toNat ≤ (105#8).toNat ∧
    (104#8).toNat < ((booted .ready).gov 0).crit.toNat ∧ (burning 0 none team).power.emergency.map (fun e => e.stage) = some 0 ∧
    stage1Over (burning 0 none team) = true ∧ (∃ x ∈ (burning 1 none team).teams, x.spaceSaved = false) ∧
    (∀ x ∈ (burning 1 none { team with spaceSaved := true }).teams, x.spaceSaved = true) ∧
    0 + 100000000 ≤ (at_ 100000000 (burning 5 (some 0) team)).clock.ran ∧ linkLacks (burning 5 (some 0) team) = false ∧
    linkLacks { burning 5 (some 0) team with boot := { (booted .emergency).boot with linkUp := true } } = true ∧
    (booted .emergency).boot.state = .emergency ∧ (booted .rom).boot.state = .rom ∧
    (∀ x ∈ (burning 5 (some 0) team).teams, x.status ≠ .stopped .thermal) ∧ Memory.wf (burning 1 none team).mem = true ∧
    (let k := { team with status := .stopped .thermal }
     let s := burning 5 (some 0) k
     s.teams = [k] ∧ s.others = [] ∧ (s.harts.map (fun h => h.id.ref)).Nodup ∧ (∀ h ∈ s.harts, h.ln.len = 0 ∧ h.settled = true) ∧
      (resumeTeam 0 { booted .ready with teams := [k] } 1 0 0 [0] .thermal).isSome = true) ∧ 115 ≤ (115#8).toNat ∧
    Memory.wf [(5, (1 : Byte))] = true ∧ (([(5, 0)] : List Host.Cell).map Prod.fst).Nodup ∧ (regs []).power.emergency = none := by
  decide +kernel

/-! ## Mapped memory (chapter 10) -/

/-- The non-zero bytes of a doubleword at an address. -/
def cellsOf (a v : Nat) : List Host.Cell :=
  ((List.range 8).map (fun i => (a + i, BitVec.ofNat 8 (v / 256 ^ i)))).filter (fun c => c.2 != 0)

/-- Space 1 of R230, its root, one table of each level, and leaves for VA 0x20000 (R, W), 0x40000 (DIS), 0x50000 (MIG) and
0x60000 (WC), each on a frame whose channel is its page's home facet. -/
def tables : List Host.Cell :=
  cellsOf 0x20008 0x40001 ++ cellsOf 0x40000 0x60001 ++ cellsOf 0x60000 0x61001 ++ cellsOf 0x61000 0x62001 ++
    cellsOf 0x62010 0x2000050007 ++ cellsOf 0x62020 0x4000050043 ++ cellsOf 0x62028 0x5000050087 ++ cellsOf 0x62030 0x6000050017

/-- A hart of space 1 with values for g1 and up. -/
def hart1 (g : List Word) : Hart := { hartWith g with id := { (hartWith g).id with space := 1 } }

/-- The device with the tables and more bytes above them, and a hart of space 1. -/
def mapped (g : List Word) (data : List Host.Cell) (stores : List StoreLine) : State :=
  { machine { hart1 g with stores := stores } with
    spaces := [{ Space.blank 1 with teEn := true, tvec := 0x10000 }]
    trans := { State.reset.trans with en := true, stpa := 1 }
    mem := tables ++ data }

/-- R247: a load of a mapped page, of one that is not, and of a discarded one; A is set and the frame is claimed (R236, R240). -/
theorem test_mapped_loads : after (exec (.ldW 3 1 8) (mapped [0x20000] [(0x2000050008, 0x21), (0x200005000B, 0x80)] [])) (fun t =>
      (t.g 3, readLE t.mem 0x62010 8, t.frames.map (fun o => (o.frame, o.vpage)))) =
      some (0xFFFFFFFF80000021, 0x2000050107, [(0x200005, 2)]) ∧
    after (exec (.ldD 3 1 0) (mapped [0x30000] [] [])) (fun t => (t.hart.tr.code, t.hart.tr.val)) = some (0x08, 0x30000) ∧
    got (exec (.ldD 3 1 0) (mapped [0x40000, 0, 7] [(0x4000050000, 1)] [])) 3 = some 0 := by decide +kernel

theorem test_mapped_stores : after (exec (.stH 2 1 2) (mapped [0x20000, 0x11223344] [] [])) (fun t =>
      t.hart.stores.map (fun l => (l.line, l.mask, l.data))) = some [(0x400, 0xFFFF0000, 0x33440000)] ∧
    after (exec (.storeLineTranslate me 0) (mapped [] [] [line .retired])) (fun t =>
      (memRead t.mem 0x2000050000, readLE t.mem 0x62010 8, t.hart.stores)) = some (0xAB, 0x2000050307, []) ∧
    after (exec (.storeLineTranslate me 0) (mapped [] [] [{ line .retired with line := 0xA00 }])) (fun t =>
      t.hart.stores.map (fun l => l.stage)) = some [.migrating] ∧
    after (exec (.storeLineTranslate me 0) (mapped [] [] [{ line .retired with line := 0xC00 }])) (fun t =>
      t.hart.stores.map (fun l => (l.stage, l.pa))) = some [(.combining, 0xC0000A00)] ∧
    after (exec (.storeLineTranslate me 0) (mapped [] [] [{ line .retired with line := 0x800 }])) (fun t =>
      t.hart.stores.map (fun l => (l.stage, l.code))) = some [(.held, 0x0B)] := by decide +kernel

theorem test_mapped_atomic : after (exec (.amoAdd 3 1 2 .relaxed .team) (mapped [0x20008, 3] [(0x2000050008, 5)] [])) (fun t =>
      (t.g 3, readLE t.mem 0x2000050008 8, readLE t.mem 0x62010 8)) = some (5, 8, 0x2000050307) := by decide +kernel

/-- A hart in handler mode whose space keeps its fault log at a page. -/
def logging (page : Word) : State :=
  { mapped [] [] [] with
    hart := inHandler (hart1 [])
    spaces := [{ Space.blank 1 with teEn := true, tvec := 0x10000, logBase := (page.setWidth 44) <<< 4 }] }

/-- R353, Table 15.6: the trap of an ending handler is recorded before the handler ends: ISEQ, CODE with D, IADDR, VA; a log page that
migrates holds the hart. -/
theorem test_ending_record : after (exec (.trap 5) (logging 2)) (fun t => (t.hart.run, (t.space 1).logHead,
      readLE t.mem 0x2000050008 6, readLE t.mem 0x200005000E 1, readLE t.mem 0x2000050018 7, readLE t.mem 0x2000050020 7)) =
      some (.ending, 1, 0, 0x8D, 0x10000, 5) ∧
    after (exec (.trap 5) (logging 5)) (fun t => (t.hart.run, t.hart.wait)) = some (.recording, .none) := by decide +kernel

/-- The turn of a hart whose record waits: it is written once the page does not migrate. -/
def recording (page : Word) : State :=
  let s := logging page
  { s with hart := { s.hart with run := .recording, fatal := some (endingRecord s 0x0D 5) }, agenda := [.hart me] }

theorem test_recording : after (step (recording 2)) (fun t => (t.hart.run, (t.space 1).logHead)) = some (.ending, 1) ∧
    after (step (recording 5)) (fun t => (t.hart.run, (t.space 1).logHead)) = some (.recording, 0) ∧
    diesStill (recording 2) = false ∧ isOut (recording 2) (recording 2).hart.id.ref = false := by decide +kernel

/-- The hypotheses of TrapEntry about records: one that is written, one that waits, one that is dropped. -/
theorem test_witness_records : (let s := logging 2
      let r := endingRecord s 0x0D 5
      s.hart.tr.hm = true ∧ Memory.wf s.mem = true ∧ r.pages.length ≤ 6 ∧ (writeRecord s r).2.isSome = true ∧ (s.space 1).logBase ≠ 0 ∧
      ((s.space 1).logHead - (s.space 1).logTail).toNat < 64 ∧ addressOk s s.sp s.pt 0x20000 = true ∧ inNear 0x20000 = false ∧
      (home (s.setSpace { s.space 1 with acRecs := 1 }) s.sp s.pt 0x20000 .store).1 = .ok 0x2000050307) ∧
    (writeRecord (logging 5) (endingRecord (logging 5) 0x0D 5)).2.isNone = true ∧ ((logging 0).space 1).logBase = 0 := by decide +kernel

/-- A hart's own L1 copy of the line of VA 0x20000. -/
def copied (g : List Word) (w : Bool) : State :=
  { mapped g [(0x2000050000, 9)] [] with
    lines := [{ cspace := 1, vline := 0x400, pline := 0x40000A00, place := .l1d 0, r := true, w := w, x := false
                own := w }] }

/-- The hypotheses of MappedAccesses: a home's answer, a discarded page, a fault, a cached copy. -/
theorem test_witness_mapped : let s := mapped [0x20000] [(0x2000050008, 5)] []
    NoDeviceRead s ∧ Memory.wf s.mem = true ∧ MappedAt s 0x20000 8 ∧ MappedAt s 0x20007 1 ∧
    (home s s.sp s.pt 0x20000 .load).1 = .ok 0x2000050107 ∧ isHbm (pteFrame 0x2000050107) = true ∧
    (home s s.sp s.pt 0x20000 .atomic).1 = .ok 0x2000050307 ∧ (home s s.sp s.pt 0x40000 .load).1 = .zeros ∧
    (home s s.sp s.pt 0x30000 .load).1 = .fault 0x08 ∧ ReleaseReady s .system ∧
    (copyAt (copied [0x20000] true) (.l1d (copied [] true).hart.id.core) 1 0x400).map (fun c => c.w) = some true ∧
    (copied [] true).hart.queueTouches = false ∧ s.hart.stores.length < 63 ∧ copyAt s (.l1d s.hart.id.core) 1 0x400 = none ∧
    copyAt s (.l2 s.hart.id.facet) 1 0x400 = none := by
  simp only [NoDeviceRead, MappedAt, EntryReady, ReleaseReady]
  decide +kernel

/-- The device READY, with a line the host may hold. -/
def hosted (snooped : Option Nat) : State :=
  { mapped [] [(0x2000050000, 9)] [] with
    hostLines := [{ pline := 0x40000A00, any := true, snooped := snooped, inval := true, late := false }]
    boot := { State.reset.boot with state := .ready, memok := true } }

/-- The same after the answers of the host have come too late. -/
def late (s : State) : State := { s with hostLines := s.hostLines.map (fun k => { k with late := true }) }

theorem test_host_memory : after (exec (.hostMemAccess 0x2000050040 (some 0x0102) .noOp) (hosted none)) (fun t =>
      (readLE t.mem 0x2000050040 8, memRead t.mem 0x2000050000)) = some (0x0102, 9) ∧
    after (exec (.hostMemAccess 0x2000050080 none .any) (hosted none)) (fun t => (t.hostLines.map (fun h => (h.pline, h.any)))) =
      some [(0x40000A01, true), (0x40000A00, true)] ∧
    after (exec (.hostMemAccess 0x2000050000 (some 1) .noOp) (late (hosted none))) (fun t => (t.boot.answer, memRead t.mem 0x2000050000)) =
      some (.poison, 9) ∧
    after (exec (.hostBirsp 0x40000A00 (some 7)) (hosted (some 0))) (fun t => (readLE t.mem 0x2000050000 8, t.hostLines)) = some (7, []) ∧
    after (exec (.hostSnoopTimeout 0x40000A00) (at_ 10000000 (hosted (some 0)))) (fun t => (t.hostLines.map (fun h => h.late), t.boot.hostto)) =
      some ([true], true) ∧
    after (exec (.homeRequest me 0x20008 .load) (hosted none)) (fun t => t.hostLines.map (fun h => h.snooped)) = some [some 0] := by
  decide +kernel

theorem test_home_request : after (exec (.homeRequest me 0x20008 .load) (mapped [] [] [])) (fun t =>
      t.lines.map (fun c => (c.vline, c.pline, c.place, c.r, c.w))) = some [(0x400, 0x40000A00, .l2 0, true, false)] ∧
    after (exec (.frameReleaseComplete 0x200005) { mapped [] [] [] with
        frames := [{ frame := 0x200005, cspace := 1, vpage := 2, releasing := true }]
        lines := [{ cspace := 1, vline := 0x400, pline := 0x40000A00, place := .l2 0, r := true, w := false, x := false, own := false }] })
      (fun t => (t.frames, t.lines)) = some ([], []) := by decide +kernel

/-- A host-window access of the hart that has no answer. -/
def pendingOp (write : Bool) : WindowOp :=
  { hart := me, seq := 0, idx := 0, pa := 2 ^ 51, size := 8, write := write, devc := true, data := 0, mask := 2 ^ 64 - 1, answer := none }

theorem test_window_and_rows : after (exec (.hostWindowCompletion me 0 77) { regs [] with windowOps := [pendingOp false] }) (fun t =>
      t.windowOps.map (fun w => w.answer)) = some [some 77] ∧
    after (exec (.hostWindowCompletion me 0 77) { regs [] with windowOps := [pendingOp true] }) (fun t => t.windowOps) = some [] ∧
    after (exec (.copyRowComplete me 0 0 0) { copying copyRow [] with
        hart := { hart1 [] with streams := (copying copyRow []).hart.streams }
        trans := (mapped [] [] []).trans, mem := tables ++ [(0x2000050003, 5)] }) (fun t =>
      (t.seg, (t.hart.stream 0).queue.length, (t.hart.stream 0).done)) = some ([(3, 5)], 0, 1) ∧
    after (exec (.copyRowComplete me 0 0 0) (copying { copyRow with fill := true } [])) (fun t => (t.hart.stream 0).done) = some 1 := by
  decide +kernel

/-- The device with a host-window page at VA 0x70000, and some store lines. -/
def windowed (ls : List StoreLine) : State := { mapped [] [] ls with mem := tables ++ cellsOf 0x62038 0x8000000000017 }

/-- A device-class line of one access of 8 bytes. -/
def deviceLine : StoreLine := { line .device with line := 0xF00, elems := [{ idx := 0, off := 0, size := 16, data := 0xAB, mask := 2 ^ 64 - 1 }] }

/-- The same with DEVC pages of the host window at VA 0x80000 and of the hub window at VA 0x90000, and general registers. -/
def devices (g : List Word) : State :=
  { mapped g [] [] with mem := tables ++ cellsOf 0x62038 0x8000000000017 ++ cellsOf 0x62040 0x8000000000027 ++ cellsOf 0x62048 0x4000000000027 }

/-- R407, R246: a DEVC read of the host window, one of a whole host line of a WC page, a hub register; the answer's own bytes. -/
theorem test_window_loads : after (exec (.ldW 3 1 4) (devices [0x80000])) (fun t =>
      (t.windowOps.map (fun w => (w.pa, w.size, w.devc)), t.hart.wait)) = some ([(2 ^ 51 + 4, 4, true)], .window) ∧
    after (exec (.ldW 3 1 4) (devices [0x70040])) (fun t => t.windowOps.map (fun w => (w.pa, w.size, w.devc))) = some [(2 ^ 51 + 64, 64, false)] ∧
    got (exec (.ldD 3 1 0) (devices [0x90000])) 3 = some 0 ∧
    got (exec (.ldB 3 1 0) { devices [0x70001] with windowOps := [{ pendingOp false with size := 64, devc := false, answer := some 0x8000 }] }) 3 =
      some 0xFFFFFFFFFFFFFF80 := by decide +kernel

/-- The hypotheses of MappedAccesses for devices, for a copy without R, for a migrating page and for a snoop of the space-table entry. -/
theorem test_witness_devices : (let s := devices []
     NoDeviceRead s ∧ MappedAt s 0x80004 4 ∧ MappedAt s 0x70044 4 ∧ s.hart.stores = [] ∧ s.hart.queueTouches = false ∧ s.lines = [] ∧
      (home s s.sp s.pt 0x80004 .load).1 = .ok 0x8000000000127 ∧ isHbm 0x8000000000004 = false ∧ isHub 0x8000000000004 = false ∧
      (home s s.sp s.pt 0x70044 .load).1 = .ok 0x8000000000117 ∧ (home s s.sp s.pt 0x90000 .load).1 = .ok 0x4000000000127 ∧
      isHub 0x4000000000000 = true ∧ (hubRead s (s.hartid s.hart.id).toNat 0 8).isSome = true ∧
      (home s s.sp s.pt 0x50000 .load).1 = .mig ∧ (home s s.sp s.pt 0x50000 .atomic).1 = .mig) ∧
    (let s := { copied [0x20000] true with lines := (copied [] true).lines.map (fun c => { c with r := false }) }
     (copyAt s (.l1d s.hart.id.core) 1 0x400).map (fun c => c.r) = some false ∧ got (exec (.ldB 3 1 0) s) 3 = some 9) ∧
    (entrySnoop entryHeld entryHeld.sp 0x80000000000000).isSome = true ∧ NoDeviceRead entryHeld ∧
    ({ devices [0x70001] with windowOps := [pendingOp false] } : State).windowOp? 0 0 = some (pendingOp false) := by
  simp only [NoDeviceRead, MappedAt, EntryReady]
  decide +kernel

/-- The hypotheses of MemoryEvents: each answer of a home to a store line, a releasing frame, a late snoop, a window write, a row. -/
theorem test_witness_memory_events : (let s := mapped [] [] [line .retired]
      Runs s me ∧ Memory.wf s.mem = true ∧ Memory.wf s.seg = true ∧ s.hart.stores[0]? = some (line .retired) ∧
      s.hart.queueTouches = false ∧ granted s 0x20000 (some (.l1d s.hart.id.core)) (fun c => c.w) = none ∧
      (home s s.sp s.pt 0x20000 .store).1 = .ok 0x2000050307 ∧ (home s s.sp s.pt 0x50000 .store).1 = .mig ∧
      (home s s.sp s.pt 0x60000 .store).1 = .ok 0x6000050317 ∧ (home s s.sp s.pt 0x40000 .store).1 = .fault 0x0B ∧
      (writeRecord s (lineRecord 0 (line .retired) 0x0B false false)).2.isSome = true ∧ diesStill s = false ∧ contextSaved s me = false ∧
      (line .retired).again = false ∧ ({ line .retired with again := true }).again = true) ∧
    diesStill (booted .tripped) = true ∧ contextSaved { regs [] with teams := [{ team with spaceSaved := true }] } me = true ∧
    (let s := { hosted none with hart := { hart1 [] with stores := [line .combining] } }
     (home s s.sp s.pt 0x20000 .store).1 = .busy ∧ (snoopLine s 0x40000A00 true).isSome = true ∧
      snoopLine { s with hostLines := [] } 0x40000A00 true = none) ∧
    (let s := windowed [{ line .combining with line := 0xE00 }]
     (home s s.sp s.pt 0x70000 .store).1 = .ok 0x8000000000317 ∧ natBits 0x8000000000317 4 2 = 1 ∧
      isHost ((pteFrame 0x8000000000317 + 0xE00 * 128 % 65536) / 128 * 128) = true) ∧
    (let s := windowed [deviceLine]
     (home s s.sp s.pt 0x78000 .store).1 = .ok 0x8000000000317 ∧ deviceLine.elems.length = 1 ∧ s.windowOps = []) ∧
    (granted (copied [] true) 0x20000 (some (.l1d (copied [] true).hart.id.core)) (fun c => c.w)).isSome = true ∧
    (hosted none).boot.state = .ready ∧ isHbm 0x2000050040 = true ∧ 0x2000050040 % 64 = 0 ∧
    (∃ k ∈ (hosted (some 0)).hostLines, k.pline = 0x40000A00 ∧ k.snooped = some 0) ∧
    (∃ k ∈ (late (hosted none)).hostLines, k.pline = 0x40000A00 ∧ k.late = true) ∧
    (at_ 10000000 (hosted (some 0))).clock.ran = 10000000 ∧ (hosted none).boot.memok = true ∧
    (burning 2 none team).power.emergency.map (fun e => e.stage) = some 2 ∧
    (pendingOp false).answer.isNone = true ∧ (pendingOp false).write = false ∧ (pendingOp true).write = true := by
  simp only [Runs]
  decide +kernel

/-- A held line whose only element has index 3. -/
def heldLine (at_ : Nat) : StoreLine :=
  { line .held with line := at_, elems := [{ idx := 3, off := 0, size := 2, data := 0xAB, mask := 0xFF }] }

/-- A held line, and a record of the instruction of number n in the segment. -/
def replaying (n : Byte) (at_ : Nat) (g : List Word) : State :=
  { mapped g [] [heldLine at_] with teams := [{ team with seg := [(8, n)] }] }

/-- R366: replay of a held line that its record covers performs it, and of one that it does not cover answers −1. -/
theorem test_replay_lines : after (exec (.replay 3 1) (replaying 7 0x400 [nw])) (fun t =>
      (t.g 3, t.hart.stores.length, memRead t.mem 0x2000050000)) = some (0, 0, 0xAB) ∧
    after (exec (.replay 3 1) (replaying 6 0x400 [nw])) (fun t => (t.g 3, t.hart.stores.length, memRead t.mem 0x2000050000)) =
      some (-1, 1, 0) ∧
    after (exec (.replay 3 0) (replaying 7 0x800 [])) (fun t => (t.g 3, t.hart.stores.map (fun l => (l.stage, l.code)))) =
      some (1, [(.held, 0x0B)]) := by decide +kernel

/-- The hypotheses of Replays for a held line: a record that covers it, one that does not, each answer of its home. -/
theorem test_witness_replay_lines : (let s := replaying 7 0x400 [nw]
      (∀ n, s.hart.wait ≠ .replay n) ∧ s.hart.stores = [heldLine 0x400] ∧ (heldLine 0x400).stage = .held ∧ s.hart.vq = [] ∧
      Memory.wf s.mem = true ∧ (∀ st ∈ s.hart.streams.toList, ∀ o ∈ st.queue, ∀ r ∈ o.rows, r.held = false) ∧ s.g 1 ≠ 0 ∧ s.g 0 = 0 ∧
      InSegment s (s.g 1) 64 ∧ NoElementRead s ∧ readLE s.seg (nearOff (s.g 1)) 64 / 2 ^ 64 % 2 ^ 48 = 7 ∧
      (∃ e ∈ owners (heldLine 0x400).elems, e.idx = 3) ∧
      granted s 0x20000 (some (.l1d s.hart.id.core)) (fun c => c.w) = none ∧
      (home s s.sp s.pt 0x20000 .store).1 = .ok 0x2000050307 ∧ (home s s.sp s.pt 0x50000 .store).1 = .mig ∧
      (home s s.sp s.pt 0x40000 .store).1 = .fault 0x0B ∧ (writeRecord s (lineRecord 0 (heldLine 0x800) 0x0B true false)).2.isSome = true) ∧
    readLE (replaying 6 0x400 [nw]).seg (nearOff nw) 64 / 2 ^ 64 % 2 ^ 48 = 6 := by
  refine ⟨?_, by decide +kernel⟩
  intro s
  refine ⟨fun n h => ?_, ?_⟩
  · exact absurd h (by change Wait.none ≠ _; exact fun k => nomatch k)
  · simp only [InSegment, NoElementRead, s]
    decide +kernel

/-- A row of a copy out of mapped memory, and out of a page without a translation. -/
def rowState (va : Word) : State :=
  { mapped [] [(0x2000050003, 5)] [] with
    hart := { hart1 [] with streams := (copying { copyRow with mem := va } []).hart.streams } }

theorem test_witness_rows : (let s := rowState 0x20000
      ∃ t, attemptRow s (copyOp copyRow) copyRow = .over (5 * 2 ^ 24) [] t ∧ Memory.wf t.seg = true) ∧
    (let s := rowState 0x30000
     let q := { copyRow with mem := 0x30000 }
      ∃ e rest t, attemptRow s (copyOp q) q = .over 0 (e :: rest) t ∧ e.2 = 0x08 ∧
        (writeRecord (forgetRow s (copyOp q) q) (rowRecord 0 (copyOp q) q (e :: rest) false)).2.isSome = true) ∧
    (rowState 0x20000).hart.stores = [] ∧ diesStill (rowState 0x20000) = false ∧ rowsAhead (rowState 0x20000) (copyOp copyRow) < 4 ∧
    (rowState 0x20000).power.emergency = none ∧ partParked (rowState 0x20000) 0 = false ∧
    (let o := { copyOp copyRow with bar := some 64 }
     o.bar = some 64 ∧ copyRow.near + o.len ≤ 64 ∧ o.len % (16 * 2 ^ o.swz) = 0) :=
  ⟨⟨_, rfl, by decide +kernel⟩, ⟨_, _, _, rfl, rfl, by decide +kernel⟩, rfl, by decide +kernel, by decide +kernel, rfl, by decide +kernel,
    by decide⟩

/-- A row of 32 bytes out of the near window, whose granules are exchanged (SWZ 1, row 1), to a mapped page. -/
def storedRow (va : Word) : State :=
  let r := { copyRow with idx := 1, mem := va }
  let o := { copyOp r with kind := .toMemory, len := 32, swz := 1 }
  { mapped [] [] [] with
    teams := [{ team with seg := [(0, 1), (16, 2)] }]
    hart := { hart1 [] with streams := Hart.blank.streams.set 0 { Stream.empty with ops := 1, queue := [o], newest := some o } } }

/-- R288, R294: a row of `cpl` reaches memory with the swizzle undone; one whose record the fault log cannot take yet
keeps only when its fault was found. -/
theorem test_row_to_memory : after (exec (.copyRowComplete me 0 0 0) (storedRow 0x20000)) (fun t =>
      (readLE t.mem 0x2000050000 16, readLE t.mem 0x2000050010 16, (t.hart.stream 0).done)) = some (2, 1, 1) ∧
    (let s := storedRow 0x30000
     let u := { s with spaces := [{ Space.blank 1 with teEn := true, tvec := 0x10000, logBase := 0x50 }] }
     after (exec (.copyRowFault me 0 0 0) u) (fun t =>
       ((t.hart.stream 0).queue.flatMap (fun o => o.rows.map (fun r => r.found)), (t.space 1).logHead)) = some ([some 0], 0)) := by
  decide +kernel

/-- The hypotheses of MemoryEvents for a row that goes to memory, and for a line whose record waits. -/
theorem test_witness_row_to_memory : (let s := storedRow 0x20000
     let r := { copyRow with idx := 1, mem := 0x20000 }
     let o := { copyOp r with kind := .toMemory, len := 32, swz := 1 }
     (∃ t, attemptRow s o r = .over 0 [] t ∧ Memory.wf t.mem = true ∧ rowInFlight t o r = false) ∧ lineChunks 0x20000 32 = [(0, 32)] ∧
      (home s s.sp s.pt 0x20000 .store).1 = .ok 0x2000050307) ∧
    (let s := { mapped [] [] [{ line .retired with line := 0x800 }] with
       spaces := [{ Space.blank 1 with teEn := true, tvec := 0x10000, logBase := 0x50 }] }
     (home s s.sp s.pt 0x40000 .store).1 = .fault 0x0B ∧
      (writeRecord s (lineRecord 0 { line .retired with line := 0x800 } 0x0B false false)).2 = none) :=
  ⟨⟨⟨_, rfl, by decide +kernel⟩, by decide +kernel⟩, by decide +kernel⟩

/-- A row of 16 bytes bound to a byte barrier at 64 of the segment whose count is 16 and whose phase is open. -/
def barred : State :=
  let o := { copyOp { copyRow with fill := true } with bar := some 64 }
  { machine { hartWith [] with streams := Hart.blank.streams.set 0 { Stream.empty with ops := 1, queue := [o], newest := some o } } with
    teams := [{ team with seg := [(3, 9), (64, 16), (70, 1)] }] }

/-- R305, R306: the row arrives with its bytes, and the count of 0 completes the phase. -/
theorem test_row_arrival : after (exec (.copyRowComplete me 0 0 0) barred) (fun t => (t.seg, (t.hart.stream 0).done)) =
    some ([(70, 3)], 1) := by decide +kernel

/-- A hart with a record in its segment, a vector store in its queue, and so many held lines. -/
def queued (n : Nat) : State :=
  let s := replaying 6 0x400 [nw]
  { s with hart := { s.hart with vq := [entry 0x88200803], stores := List.replicate n (heldLine 0x400) } }

/-- R147, R368: `replay` waits for an entry that may write its record, and with all 64 lines held for none. -/
theorem test_replay_full : after (exec (.replay 3 1) (queued 63)) (fun t => (t.hart.wait, t.g 3)) = some (.commitQueue, 0) ∧
    after (exec (.replay 3 1) (queued 64)) (fun t => (t.hart.wait, t.g 3)) = some (.none, -1) ∧
    after (exec (.replay 3 0) { queued 1 with hart := { (queued 1).hart with stores := [] } }) (fun t => t.g 3) = some (-1) := by decide +kernel

/-- A held line that its home refuses, while the fault log's page migrates. -/
def unlogged : State :=
  { replaying 7 0x800 [nw] with spaces := [{ Space.blank 1 with teEn := true, tvec := 0x10000, logBase := 0x50 }] }

/-- R361: the line keeps when its fault was found until its record can be written. -/
theorem test_replay_unlogged : after (exec (.replay 3 0) unlogged) (fun t => (t.hart.wait, t.hart.stores.map (fun l => (l.again, l.found)))) =
    some (.replay 0, [(true, some 0)]) := by decide +kernel

/-- The hypotheses of Replays for those states. -/
theorem test_witness_replay_full : (∀ n ∈ [63, 64], let s := queued n
      s.g 1 ≠ 0 ∧ InSegment s (s.g 1) 64 ∧ NoElementRead s ∧ s.hart.queueMeets (s.g 1) 64 = true ∧
      (s.hart.stores.filter (fun l => l.stage = .held)).length = n ∧ readLE s.seg (nearOff (s.g 1)) 64 / 2 ^ 64 % 2 ^ 48 = 6 ∧
      (heldLine 0x400).seq.toNat = 7) ∧
    (let s := replaying 6 0x400 [nw]
     s.hart.queueMeets (s.g 1) 64 = false ∧ ∀ st ∈ s.hart.streams.toList, ∀ o ∈ st.queue, ∀ r ∈ o.rows, r.held = false) ∧
    (home unlogged 1 unlogged.pt 0x40000 .store).1 = .fault 0x0B ∧
    (writeRecord unlogged (lineRecord 0 (heldLine 0x800) 0x0B true false)).2.isNone = true := by
  simp only [InSegment, NoElementRead]
  decide +kernel

/-- The device with host-window and hub-window pages whose hart has some store lines and queue entries. -/
def behind (ls : List StoreLine) (vq : List VqEntry) (g : List Word) : State :=
  { devices g with hart := { (devices g).hart with stores := ls, vq := vq } }

/-- R260, R316: a release store of mapped memory retires a line; a device-class load waits for an earlier store that may go to its window
and for an entry that may access memory, and a store for such an entry (log 7). -/
theorem test_mapped_waits : after (exec (.stRelW 2 1 .system) (mapped [0x20004, 5] [] [])) (fun t =>
      t.hart.stores.map (fun l => (l.line, l.mask, l.data))) = some [(0x400, 0xFFFFFFFF00000000, 0x500000000)] ∧
    after (exec (.ldW 3 1 0) (behind [line .retired] [] [0x80000])) (fun t => t.hart.wait) = some .stores ∧
    after (exec (.ldW 3 1 0) (behind [] [entry 0x60000001] [0x80000])) (fun t => t.hart.wait) = some .queue ∧
    after (exec (.stB 2 1 0) (behind [] [entry 0x60000001] [0x20000])) (fun t => t.hart.wait) = some .queue := by decide +kernel
/-- The hypotheses of MappedAccesses on what comes before an access: each kind of store line, an entry that may access memory, a host
window access without its answer, 64 lines, a release. -/
theorem test_witness_mapped_waits : (∀ g ∈ [StoreStage.retired, .device, .window], let s := behind [line g] [] []
      NoDeviceRead s ∧ (∃ l ∈ s.hart.stores, l.stage = g) ∧ isHub ((line g).pa * 128) = isHub 0x8000000000004 ∧
      MappedAt s 0x80004 4 ∧ (home s s.sp s.pt 0x80004 .load).1 = .ok 0x8000000000127) ∧
    (let s := behind [] [entry 0x60000001] []
     s.hart.queueTouches = true ∧ NoDeviceRead s ∧ MappedAt s 0x80004 4 ∧ EntryReady s 0x20000 ∧ addressOk s s.sp s.pt 0x20000 = true ∧
      (home s s.sp s.pt 0x80004 .load).1 = .ok 0x8000000000127 ∧ (0x20000#64).toNat % 8 = 0) ∧
    (let w := { pendingOp false with size := 64, devc := false }
     ({ devices [0x70001] with windowOps := [w] } : State).windowOp? 0 0 = some w ∧ w.answer = none) ∧
    (let s := behind (List.replicate 64 (line .retired)) [] []
     s.hart.queueTouches = false ∧ s.hart.stores.length = 64 ∧ MappedAt s 0x40000 8 ∧
      (∀ c ∈ s.lines, c.place ≠ .l1d s.hart.id.core)) ∧
    (∀ sc ∈ [Scope.team, .facet, .package, .system], ReleaseReady (mapped [] [] []) sc ∧ (mapped [] [] []).hart.queueTouches = false ∧
      MappedAt (mapped [] [] []) 0x20008 8) ∧
    (let s := copied [] true
     MappedAt s 0x20000 8 ∧ (copyAt s (.l1d s.hart.id.core) 1 0x400).map (fun c => (c.w, hostHolds s c.pline)) = some (true, false)) ∧
    hostHolds (hosted none) 0x40000A00 = true := by
  simp only [NoDeviceRead, MappedAt, EntryReady, ReleaseReady]
  decide +kernel

/-- A combined line of the host window behind a device-class line. -/
def combined (pa : Nat) : State := windowed [{ deviceLine with line := 0xF80, pa := pa }, { line .combining with line := 0xE00, seq := 8 }]

/-- R316: a combined line follows an earlier device-class store to its window, and no other. R236: a home is asked for a store only where a
line of it stands, for an atomic only where it stalls. -/
theorem test_window_order : after (exec (.storeLineTranslate me 1) (combined (2 ^ 51 / 128))) (fun t => t.hart.stores.map (fun l => l.stage)) =
      some [.device, .combining] ∧
    after (exec (.storeLineTranslate me 1) (combined (2 ^ 50 / 128))) (fun t => t.hart.stores.map (fun l => l.stage)) =
      some [.device, .window] ∧
    after (exec (.homeRequest me 0x20000 .store) (mapped [] [] [line .device])) (fun t => (t.frames.length, readLE t.mem 0x62010 8)) =
      some (0, 0x2000050007) ∧
    after (exec (.homeRequest me 0x20000 .atomic) (mapped [] [] [])) (fun t => (t.frames.length, readLE t.mem 0x62010 8)) =
      some (0, 0x2000050007) := by decide +kernel

/-- Two device-class lines of one instruction and one line of memory, elements 0 and 1 and then 2, and the write of element 0. -/
def pieces : State :=
  let e (k : Nat) : LineElem := { idx := k, off := 16 * k, size := 16, data := 0xAB, mask := 2 ^ 64 - 1 }
  { windowed [{ deviceLine with elems := [e 0, e 1] }, { deviceLine with elems := [e 2] }] with
    windowOps := [{ pendingOp true with seq := 7, pa := 2 ^ 51 + 0x8000 }] }

/-- R246, R312: a completed write takes the piece of its element alone. -/
theorem test_pieces : after (exec (.hostWindowCompletion me 7 0) pieces) (fun t => t.hart.stores.map (fun l => l.elems.map (fun e => e.idx))) =
    some [[1], [2]] := by decide +kernel

/-- The hypotheses of MemoryEvents for those states, and for a row and a line whose records wait. -/
theorem test_witness_window_order : (∀ q ∈ [(2 ^ 51 / 128, false), (2 ^ 50 / 128, true)], let s := combined q.1
      (s.hart.stores[1]?.map (fun l => (l.stage, l.line))) = some (.combining, 0xE00) ∧
      (home s s.sp s.pt 0x70000 .store).1 = .ok 0x8000000000317 ∧ (s.hart.stores.take 1).all (fun k => !k.meets { line .combining with line := 0xE00 }) = true ∧
      (s.hart.stores.take 1).all (fun k => isHub (k.pa * 128) != isHub (2 ^ 51)) = q.2) ∧
    ((mapped [] [] [line .device]).hart.stores.all (fun k => k.stage != .retired) = true ∧
      (mapped [] [] []).hart.stalledAmo 0x20000 = false) ∧
    (let w := { pendingOp true with seq := 7, pa := 2 ^ 51 + 0x8000 }
     pieces.windowOps.find? (fun k => k.hart == me && k.seq == 7 && k.answer.isNone) = some w ∧ w.devc = true ∧ w.write = true) ∧
    (let s := { storedRow 0x30000 with spaces := [{ Space.blank 1 with teEn := true, tvec := 0x10000, logBase := 0x50 }] }
     let o := (vget s.hart.streams 0 Stream.empty).queue[0]?.getD (copyOp copyRow)
     let q := o.rows[0]?.getD copyRow
     q.fill = false ∧ o.handler = false ∧ ∃ w e rest s2, attemptRow s o q = .over w (e :: rest) s2 ∧
      (writeRecord (forgetRow s o q) (rowRecord s.clock.now o q (e :: rest) false)).2.isNone = true) := by
  refine ⟨by decide +kernel, by decide +kernel, by decide +kernel, ?_⟩
  exact ⟨rfl, rfl, _, _, _, _, rfl, by decide +kernel⟩

/-! ## Vector accesses of mapped memory (chapters 10 and 11) -/

/-- The mapped device with a grant of 512 bits and vector registers; `one` leaves element 0 alone in the body, else p1 is 0b101. -/
def vmapped (one : Bool) (g : List Word) (v : List VecReg) (stores : List StoreLine) : State :=
  let s := mapped g [(0x2000050008, 0x21), (0x200005000B, 0x80), (0x2000050010, 7)] stores
  { s with hart := { vecHart 512 g v with id := s.hart.id, stores := stores, ln := { lanes 512 with tv := one, trim := 1 } } }

/-- The same while the fault log's page migrates. -/
def vunlogged : State :=
  { vmapped true [0x30000] [] [] with spaces := [{ Space.blank 1 with teEn := true, tvec := 0x10000, logBase := 0x50 }] }

/-- A copy of the first line of page 2 in the facet's L2. -/
def l2Line (r : Bool) : CacheLine :=
  { cspace := 1, vline := 0x400, pline := 0x40000A00, place := .l2 0, r := r, w := false, x := false, own := false }

/-- The same with that copy. -/
def vcopied (r : Bool) : State := { vmapped false [0x20008] [] [] with lines := [l2Line r] }

/-- R243, R247: a vector load of mapped memory, of a discarded page, and of the L2's copies. -/
theorem test_mapped_vector_loads : low (.vld 3 1 0 1 .n32) (vmapped true [0x20008] [] []) = some ([0x80000021, 0, 0, 0], .n32, 0) ∧
    low (.vld 3 1 0 1 .n32) (vmapped true [0x40000] [] []) = some ([0, 0, 0, 0], .n32, 0) ∧
    low (.vld 3 1 0 1 .n32) (vcopied true) = some ([0x80000021, 0, 7, 0], .n32, 0) := by decide +kernel

/-- R244, R248, R361, Table 11.1: the L2's new copy; a page without a translation, TRAPELEM and VSTART; one that migrates; a fault whose
record waits. -/
theorem test_mapped_vector_stops :
    committed (.vld 3 1 0 1 .n32) (vmapped true [0x20008] [] []) (fun t => t.lines.map (fun c => (c.place, c.vline, c.pline))) =
      some [(.l2 0, 0x400, 0x40000A00)] ∧
    committed (.vld 3 1 0 1 .n32) (vmapped true [0x30000] [] []) (fun t => (t.hart.tr.code, t.hart.tr.val, t.hart.tr.elem, t.hart.ln.vstart)) =
      some (0x08, 0x30000, 0, 0) ∧
    committed (.vld 3 1 0 1 .n32) (vmapped true [0x50000] [] []) (fun t => t.hart.vq.length) = some 1 ∧
    committed (.vld 3 1 0 1 .n32) vunlogged (fun t => t.hart.ln.headFound) = some (some 0) := by decide +kernel

/-- The hypotheses of VectorLoads at mapped addresses. -/
theorem test_witness_mapped_vector_loads : let s := vmapped true [0x20008] [] []
    MappedAt s 0x20008 4 ∧ MappedAt s 0x30000 4 ∧ MappedAt s 0x40000 4 ∧ MappedAt s 0x50000 4 ∧ s.hart.ln.headFound = none ∧
      (l2Copy s 0x20008).isNone = true ∧ (l2Copy s 0x30000).isNone = true ∧
      (List.range 16).filter (fun j => s.hart.active 1 32 j) = [0] := by
  simp only [MappedAt, EntryReady]
  decide +kernel

theorem test_witness_mapped_vectors : let s := vmapped true [0x20008] [] []
    VecReady s ∧ FromStart s ∧ NoElementRead s ∧ NoCause s ∧ MayTrap s ∧
      (home s s.sp s.pt 0x20008 .load).1 = .ok 0x2000050107 ∧ isHbm (pteFrame 0x2000050107) = true ∧ natBits 0x2000050107 4 2 = 0 ∧
      (home s s.sp s.pt 0x30000 .load).1 = .fault 0x08 ∧ (home s s.sp s.pt 0x40000 .load).1 = .zeros ∧
      (home s s.sp s.pt 0x50000 .load).1 = .mig := by
  simp only [VecReady, Runs, NoElementRead, FromStart, NoCause, MayTrap]
  decide +kernel

/-- The hypotheses of the statements on vector reads of mapped memory: the L2's copies of two elements. -/
theorem test_witness_vector_copies : VecReads (vcopied true) 0x20008 4 (vcopied true).mem (0x40000A00 * 128 + 8) ∧
    VecReads (vcopied true) 0x20010 4 (vcopied true).mem (0x40000A00 * 128 + 16) ∧
    (vcopied true).hart.active 1 32 0 = true ∧ (vcopied true).hart.active 1 32 2 = true ∧ (vcopied true).hart.active 1 32 1 = false ∧
    l2Copy (vcopied false) 0x20008 = some (l2Line false) ∧ VecReads (vnear [] [] []) nw 4 (vnear [] [] []).seg (nearOff nw) := by
  have h : MappedAt (vcopied true) 0x20008 4 ∧ MappedAt (vcopied true) 0x20010 4 := by
    simp only [MappedAt, EntryReady]
    decide +kernel
  have k : InSegment (vnear [] [] []) nw 4 := by
    simp only [InSegment]
    decide +kernel
  refine ⟨.inr ⟨h.1, l2Line true, by decide +kernel, rfl, rfl, rfl⟩, .inr ⟨h.2, l2Line true, by decide +kernel, rfl, rfl, rfl⟩,
    by decide +kernel, by decide +kernel, by decide +kernel, by decide +kernel, .inl ⟨k, rfl, rfl⟩⟩

/-- R151, R271, R254, Table 11.1: a vector store of mapped memory retires one line under the mask of its elements; while 64 are held it
waits with VSTART at its element; one that fails a check traps with its index. -/
theorem test_mapped_vector_stores :
    committed (.vst 3 1 0 1 false) (vmapped false [0x20008] [VecReg.zero, VecReg.zero, VecReg.zero, words .n32 [1, 2, 3]] []) (fun t =>
      t.hart.stores.map (fun l => (l.line, l.mask, l.data, l.elems.map (fun e => e.idx)))) =
      some [(0x400, 0xFFFFFFFF00000000FFFFFFFF * 2 ^ 64, 0x300000000 * 2 ^ 96 + 2 ^ 64, [0, 2])] ∧
    committed (.vst 3 1 0 1 false) (vmapped false [0x20008] [VecReg.zero, VecReg.zero, VecReg.zero, words .n32 [1, 2, 3]]
      (List.replicate 64 (line .retired))) (fun t => (t.hart.vq.length, t.hart.stores.length)) = some (1, 64) ∧
    committed (.vsts 3 1 2 1 false) (vnear [] [nw + 0xFFF8, 4] [VecReg.zero, VecReg.zero, VecReg.zero, words .n32 [1, 2, 3]]) (fun t =>
      (t.hart.tr.code, t.hart.tr.val, t.hart.tr.elem, t.hart.ln.vstart, readLE t.seg 0xFFF8 4)) = some (0x08, nw + 0x10000, 2, 2, 1) := by
  decide +kernel

/-- R266, R274, R275: a vector atomic at its home; a page that migrates; one without a translation; an element that fails a check, the one
below it done. -/
theorem test_mapped_vector_atomics :
    committed (.vamoAdd 3 1 2 1 .team) (vmapped true [0x20010] [VecReg.zero, VecReg.zero, words .i32 [0], words .n32 [10, 20]] []) (fun t =>
      (readLE t.mem 0x2000050010 4, (t.hart.reg 3).elem 32 0, (t.hart.reg 3).elem 32 1, readLE t.mem 0x62010 8)) =
      some (17, 7, 20, 0x2000050307) ∧
    committed (.vamoAdd 3 1 2 1 .team) (vmapped true [0x50000] [VecReg.zero, VecReg.zero, words .i32 [0], words .n32 [10]] []) (fun t =>
      t.hart.vq.length) = some 1 ∧
    committed (.vamoAdd 3 1 2 1 .team) (vmapped true [0x30000] [VecReg.zero, VecReg.zero, words .i32 [0], words .n32 [10]] []) (fun t =>
      (t.hart.tr.code, t.hart.tr.val, t.hart.tr.elem)) = some (0x08, 0x30000, 0) ∧
    committed (.vamoAdd 3 1 2 1 .team) (vnear [(0, 5)] [nw] [VecReg.zero, VecReg.zero, words .i32 [0, 0, 2], words .n32 [10, 20, 30]]) (fun t =>
      ((t.hart.tr.code, t.hart.tr.elem, t.hart.ln.vstart), t.seg, (t.hart.reg 3).elem 32 0)) = some ((0x06, 2, 2), [(0, 15)], 5) := by
  decide +kernel

/-- The image of a predicate with bits 0 and 3 in the frame of page 2, and copies of its two lines in the L2. -/
def imaged : State :=
  let s := vmapped false [0x20000, 0x30000] [] []
  { s with
    mem := tables ++ [(0x2000050000, 0x20), (0x2000050001, 0x07), (0x2000050002, 2), (0x2000050004, 9), (0x2000050008, 16), (0x2000050080, 9)]
    lines := [l2Line true, { l2Line true with vline := 0x401, pline := 0x40000A01 }] }

/-- R276 to R280, Table 11.1: an image's lines, the last one short; an image out of the L2's copies; a header that its home refuses; a line
that fails a check, the one below it retired. -/
theorem test_mapped_images : committed (.vstR 1 1 0 true) (vmapped false [0x20000] [] []) (fun t =>
      t.hart.stores.map (fun l => (l.line, l.mask == 2 ^ (8 * min 128 (144 - 128 * (l.line - 0x400))) - 1, l.data.toNat % 2 ^ 64))) =
      some [(0x400, true, 0x0000000900020720), (0x401, true, 5)] ∧
    committed (.vldR 2 1 0 true) imaged (fun t => (vget t.hart.vec.p 2 0).toNat) = some 9 ∧
    committed (.vldR 2 2 0 true) imaged (fun t => (t.hart.tr.code, t.hart.tr.val, t.hart.tr.elem, t.hart.ln.vstart)) = some (0x08, 0x30000, 0, 0) := by
  decide +kernel

theorem test_image_check : committed (.vstR 1 1 0 false) { vmapped false [nw - 128] [] [] with teams := [{ team with segUnits := 0 }] } (fun t =>
      (t.hart.tr.code, t.hart.tr.val, t.hart.tr.elem, t.hart.stores.map (fun l => l.line))) =
      some (0x08, nw, 1, [(nw.toNat - 128) / 128]) := by decide +kernel

/-- The hypotheses of VectorStores, VectorAtomics and Images at mapped addresses. -/
theorem test_witness_mapped_vector_stores : let s := vmapped false [0x20008] [] []
    Mapped s 0x20008 4 ∧ Mapped s 0x20010 4 ∧ Mapped s 0x20000 128 ∧ Mapped s 0x20080 128 ∧ NoCause s ∧ MayTrap s ∧ FromStart s ∧ VecReady s ∧
      (List.range 16).filter (fun j => s.hart.active 1 32 j) = [0, 2] ∧ (∀ l ∈ [line .retired], l.seq ≠ s.hart.sc.iseq) ∧
      s.hart.stores.length + [0x400].dedup.length ≤ 64 := by
  simp only [Mapped, EntryReady, VecReady, Runs, FromStart, NoCause, MayTrap]
  decide +kernel

/-- Each check that an access may fail, the element below in the segment. -/
theorem test_witness_check_fails : let s := vnear [] [] []
    CheckFails s (nw + 2) 4 0x06 ∧ CheckFails s 0x0100000000020000 4 0x08 ∧ CheckFails s (nw + 0x10000) 4 0x08 ∧
      InSegment s nw 4 ∧ InSegment s (nw + 0xFFFC) 4 ∧ NoCause s ∧ MayTrap s := by
  simp only [CheckFails, InSegment, EntryReady, NoCause, MayTrap]
  decide +kernel

theorem test_witness_mapped_vector_atomics : let s := vmapped true [0x20010] [VecReg.zero, VecReg.zero, words .i32 [0], words .n32 [10]] []
    MappedAt s 0x20010 4 ∧ MappedAt s 0x50000 4 ∧ MappedAt s 0x30000 4 ∧ Memory.wf (home s s.sp s.pt 0x20010 .atomic).2.mem = true ∧
      (home s s.sp s.pt 0x20010 .atomic).1 = .ok 0x2000050307 ∧ (home s s.sp s.pt 0x50000 .atomic).1 = .mig ∧
      (home s s.sp s.pt 0x30000 .atomic).1 = .fault 0x08 ∧ isInt (s.hart.tag 2) = true ∧ s.hart.tag 3 = .n32 ∧
      (List.range 16).filter (fun j => s.hart.active 1 32 j && decide (j < s.hart.cnt 32)) = [0] := by
  simp only [MappedAt, EntryReady]
  decide +kernel

/-- The hypotheses of Images on reads: a header in the L2's copies, and one that no cache holds. -/
theorem test_witness_image_reads : VecReads imaged 0x20000 128 imaged.mem (0x40000A00 * 128 + 0) ∧
    VecReads imaged 0x20080 16 imaged.mem (0x40000A01 * 128 + 0) ∧ readLE imaged.mem (0x40000A00 * 128) 2 = 0x0720 ∧
    MappedAt imaged 0x30000 128 ∧ l2Copy imaged 0x30000 = none ∧ imaged.hart.ln.len = 2 ^ 9 := by
  have h : MappedAt imaged 0x20000 128 ∧ MappedAt imaged 0x20080 16 ∧ MappedAt imaged 0x30000 128 := by
    simp only [MappedAt, EntryReady]
    decide +kernel
  exact ⟨.inr ⟨h.1, l2Line true, by decide +kernel, rfl, rfl, rfl⟩,
    .inr ⟨h.2.1, { l2Line true with vline := 0x401, pline := 0x40000A01 }, by decide +kernel, rfl, rfl, rfl⟩, by decide +kernel, h.2.2,
    by decide +kernel, by decide +kernel⟩

/-! ## Lanes that are granted, folded and bound again (chapter 6) -/

/-- A waiting request of a class, arrived at 0. -/
def asks (cls : BitVec 2) : GrantReq := { cls := cls, arrived := 0, raised := 0, least := 512, most := 2048, square := false }

/-- The device whose hart has a grant of 4,096 bits and lanes changed in some way. -/
def granting (f : Lanes → Lanes) : State := machine { vecHart 4096 [] [] with ln := f (lanes 4096) }

/-- R64: 256 µs; R135, R148: a fold of 8 groups; R155: an unfold. -/
theorem test_lane_events : after (exec (.laneRequestAge me) (at_ 256000 (granting (fun l => { l with req := some (asks 2) })))) (fun t =>
      t.hart.ln.req.map (fun g => (g.raised, g.effective))) = some (some (1, 1)) ∧
    after (exec (.fold me 0) (governed (fun g => { g with step := 3, excess := true }) (machine { vecHart 4096 [] [] with
      sc := { Hart.blank.sc with prio := 3 } }))) (fun t => (t.hart.ln.groups, t.hart.ln.fold, t.hart.ln.len, t.hart.ln.folds)) =
      some ([0, 1, 2, 3], 1, 4096, 1) ∧
    after (exec (.unfold me) (granting (fun l => { l with groups := [0, 1, 2, 3], fold := 1 }))) (fun t =>
      (t.hart.ln.groups.length, t.hart.ln.fold)) = some (8, 0) ∧
    after (exec (.rebind me) (machine { vecHart 4096 [] [] with
      ln := { lanes 4096 with released := true, groups := [] }, vq := [entry 0x40400980] })) (fun t =>
      (t.hart.ln.groups.length, t.hart.ln.released)) = some (8, false) := by decide +kernel

/-- A `setvl g3, g1, 0` at the head that waits for 2,048 bits. -/
def settling : State :=
  machine { vecHart 512 [] [] with
    ln := { lanes 512 with req := some (asks 2) }, vq := [{ entry 0x5C304000 with opa := 2048 }] }

theorem test_setvl_grant : after (exec (.setvlGrant me) settling) (fun t => (t.g 3, t.hart.ln.len, t.hart.ln.groups.length,
    t.hart.ln.req.isNone, t.hart.vq.length)) = some (2048, 2048, 4, true, 0) := by decide +kernel

theorem test_witness_lane_events : (let s := settling
      Runs s me ∧ s.others = [] ∧ s.hart.vq = [{ entry 0x5C304000 with opa := 2048 }] ∧
      ({ entry 0x5C304000 with opa := 2048 } : VqEntry).instr = some (.setvl 3 1 0) ∧ s.hart.ln.req = some (asks 2) ∧
      s.hart.ln.vlmax = 2 ^ 16 ∧ (s.power.gov[s.hart.id.facet]?.all (fun g =>
        decide (4 * 60 * g.ratio ≤ vget g.allow s.hart.id.cluster 0 * 1000))) = true) ∧
    0 < (asks 2).effective ∧ (asks 0).effective = 0 ∧ 256000 * ((asks 2).raised + 1) ≤ (at_ 256000 (regs [])).clock.ran - (asks 2).arrived ∧
    (let s := governed (fun g => { g with step := 3, excess := true }) (machine { vecHart 4096 [] [] with sc := { Hart.blank.sc with prio := 3 } })
     foldableNow s s.hart = true ∧ firstVictim s s.hart none = true ∧ foldAsked s s.hart = false ∧ foldByGovernor s s.hart = true) ∧
    (let s := granting (fun l => { l with groups := [0, 1, 2, 3], fold := 1 })
     0 < s.hart.ln.fold ∧ s.hart.ln.released = false ∧ deviceBusy s s.hart = false ∧
      governorFolds s s.hart.id.facet = false ∧ 2 * s.hart.ln.groups.length ≤ 128) ∧
    (let s := machine (vecHart 512 [] [])
     foldAsked s s.hart = false ∧ (s.gov 0).excess = false ∧ clusterCost s 0 0 (s.gov 0).ratio ≤ vget (s.gov 0).allow 0 0) ∧
    needsNoBacking (.vadd 2 0 1 1 true) = false ∧ (entry 0x40400980).instr = some (.vadd 2 0 1 1 true) ∧
    (granting (fun l => { l with groups := [] })).hart.ln.groups = [] ∧ (lanes 4096).len = 2 ^ 12 := by
  simp only [Runs]
  decide +kernel

/-- A hart whose lanes the governor would fold, with its vector context switched out. -/
def lazily : State :=
  governed (fun g => { g with step := 3, excess := true }) (machine { vecHart 4096 [] [] with
    sc := { Hart.blank.sc with prio := 3 }, tr := { Hart.blank.tr with voff := true } })

/-- R158: a context that is switched out is not folded before its save. -/
theorem test_fold_voff : after (exec (.fold me 0) lazily) (fun t => (t.hart.ln.groups.length, t.hart.ln.fold)) = some (8, 0) ∧
    lazily.hart.tr.voff = true := by decide +kernel

/-! ## Modules and partitions (chapters 1 and 3) -/

/-- Little-endian 32-bit words as bytes. -/
def le32 (l : List Nat) : List Byte := l.flatMap (fun w => (List.range 4).map (fun i => BitVec.ofNat 8 (w / 256 ^ i)))

/-- A module file of one TEXT section of one `done`, one handler of type 0x21 at VL 512 and no hint, after Tables 1.3 to 1.6; its
CRC-32 was computed with another program. -/
def moduleFile : List Byte :=
  le32 ([0x314D584A, 1, 0x00010909, 1, 0x80, 0x60, 0x40, 0xA4, 0x8E67F157] ++ List.replicate 7 0 ++ (1 :: List.replicate 7 0) ++
    [0x0201, 0xA0, 4, 4, 0, 0, 0, 0] ++ (0x09000021 :: List.replicate 7 0) ++ [0x34001800])

/-- Addresses for that file: its text at VA 0x20000, no stack page. -/
def loadPlan : LoadPlan :=
  { bases := [0x20000], stackBase := 0x30000, stackPages := 0, frames := [0x2000050000], tables := [0x60000, 0x61000, 0x62000] }

/-- The device with space 1, an empty root, and partition 0 of facet 0 with VLP 512. -/
def loadable : State :=
  { State.reset with
    trans := { State.reset.trans with en := true, stpa := 1 }
    mem := cellsOf 0x20008 0x40001
    boot := { State.reset.boot with state := .ready, memok := true }
    parts := State.reset.parts.set 0 { State.reset.part 0 with en := true, facets := 1, logVlp := 9 } }

theorem test_module_checks : loadRefusal loadable 1 0 moduleFile = none ∧ loadRefusal loadable 1 0 (moduleFile.set 0xA0 1) = some 1 ∧
    loadRefusal loadable 1 1 moduleFile = some 5 := by decide +kernel

theorem test_module_load : after (exec (.moduleLoad 1 0 moduleFile loadPlan) loadable) (fun t =>
      ((t.space 1).modules.flatMap (fun m => m.handlers.map (fun h => (h.msgType, h.entry))), readLE t.mem 0x2000050000 4,
        readLE t.mem 0x62010 8, t.loadReport.map (fun r => r.answer))) =
      some ([(0x21, 0x20000)], 0x34001800, 0x200005000B, some (.installed 0)) ∧
    after (exec (.moduleLoad 1 1 moduleFile loadPlan) loadable) (fun t => t.loadReport) = some (some { space := 1, answer := .refused 5 }) := by decide +kernel

/-- A partition in a state. -/
def partAs (f : Partition → Partition) (s : State) : State := { s with parts := s.parts.set 0 (f (s.part 0)) }

theorem test_partitions : after (exec (.partitionEnable 0) (partAs (fun x => { x with facets := 1, logVlp := 9 }) (booted .ready))) (fun t =>
      ((t.part 0).en, (t.part 0).badcfg)) = some (true, false) ∧
    after (exec (.partitionEnable 0) (partAs (fun x => { x with facets := 1, logVlp := 8 }) (booted .ready))) (fun t =>
      ((t.part 0).en, (t.part 0).badcfg)) = some (false, true) ∧
    after (exec (.partitionOut 0) (booted .ready)) (fun t => (t.part 0).state) = some .halting ∧
    after (exec (.partitionHaltComplete 0) (partAs (fun x => { x with state := .halting }) (booted .ready))) (fun t =>
      ((t.part 0).state, t.teams.map (fun k => k.status))) = some (.shadow, [.stopped .parked]) := by decide +kernel

/-- A module of space 1 with one handler of type 0x21 at 0x20000. -/
def oneModule : Module :=
  { num := 0, crc := 0, vlmin := 512, vlmax := 65536, vlc := 65536, handlers := [{ msgType := 0x21, entry := 0x20000, request := 512 }]
    sections := [{ index := 0, base := 0x20000, msize := 4, glob := false }], teamSize := 1, gang := false, stream := false, cls := 3
    facets := 0, nearseg := 16, stackBase := 0x800000, stackSize := 128, stackBytes := 0x10000 }

/-- The device whose space 1 has that module and the tables. -/
def installed : State := { mapped [] [] [] with spaces := [{ Space.blank 1 with modules := [oneModule] }], teams := [], boot := (booted .ready).boot }

theorem test_module_remove : after (exec (.moduleRemove 1 0) installed) (fun t => ((t.space 1).modules.length, readLE t.mem 0x62010 8)) =
    some (0, 0) := by decide +kernel

theorem test_witness_modules : (let placed := (placedSections (fileSections moduleFile) loadPlan.bases).getD []
      (placedSections (fileSections moduleFile) loadPlan.bases).isSome = true ∧ loadRefusal loadable 1 0 moduleFile = none ∧
      clampedMax loadable 0 moduleFile = some 512 ∧ planOk loadable 1 0 moduleFile placed loadPlan = true ∧
      (mapModule loadable 1 0 moduleFile placed loadPlan).isSome = true ∧ freeModule (loadable.space 1) = some 0) ∧
    loadRefusal loadable 1 1 moduleFile = some 5 ∧ loadable.boot.state = .ready ∧ loadable.boot.memok = true ∧
    installed.boot.state = .ready ∧ installed.boot.memok = true ∧ (booted .recovery).boot.state = .recovery :=
  by decide +kernel

/-- R415: jxload works through the host's accesses of HBM, which are not served outside READY. -/
theorem test_module_unserved : after (exec (.moduleRemove 1 0) { installed with boot := (booted .recovery).boot }) (fun t =>
    (t.loadReport.map (fun r => r.answer), (t.space 1).modules.length)) = some (some .unchanged, 1) := by decide +kernel

theorem test_witness_partitions : (installed.space 1).modules.find? (fun k => k.num == 0) = some oneModule ∧ installed.teams = [] ∧
    (∃ k ∈ (regs []).teams, k.space.toNat = 0 ∧ k.modNo = 0) ∧ ((regs []).part 0).state = .running ∧ ((regs []).part 0).en = false ∧
    (let s := partAs (fun x => { x with state := .halting }) (booted .ready)
     (s.part 0).state = .halting ∧ s.boot.state = .ready ∧ s.power.emergency = none ∧ (∀ t ∈ s.teams, stoppable s t.uid = true)) ∧
    (let s := partAs (fun x => { x with state := .halting, facets := 1 })
        { booted .ready with parts := (booted .ready).parts.set 1 { (booted .ready).part 1 with state := .shadow, facets := 1 } }
     (s.part 1).state = .shadow ∧ (s.part 1).facets &&& (s.part 0).facets ≠ 0) ∧ (booted .rom).boot.state = .rom ∧
    (let s := partAs (fun x => { x with state := .shadow, restoring := true }) { booted .ready with
        teams := [{ team with status := .stopped .parked }] }
     (s.part 0).restoring = true ∧ s.boot.state = .ready ∧ s.power.emergency = none ∧
      (∀ h ∈ s.harts, h.ln.len = 0 ∧ ∀ l ∈ h.stores, l.stage = .held) ∧ (∀ n ∈ team.slots, n < 512) ∧ (exec (.partitionRestoreComplete 0) s matches .next _) = true) := by decide +kernel

/-- A pre-empted team whose segment is saved. -/
def parkedTeam : Team := { team with status := .stopped .preempt, segSaved := true }

/-- The device in a bring-up state whose partition 0, with that team, is in HBM. -/
def inHbm (st : HostState) : State := partAs (fun x => { x with state := .hbm }) { booted st with teams := [parkedTeam], hart := Hart.blank }

/-- R389, R393: a team that stands wholly in HBM counts as saved at the start of an emergency, and at a trip within one. -/
theorem test_saved_parked : after (exec (.thermalEmergency 0 105) (inHbm .ready)) (fun t =>
      t.power.pm.map (fun p => p.entries.map (fun e => e.saved))) = some (some [true]) ∧
    after (exec (.thermalEmergency 0 105) (booted .ready)) (fun t =>
      t.power.pm.map (fun p => p.entries.map (fun e => e.saved))) = some (some [false]) ∧
    after (exec (.thermalEmergency 0 105) (inHbm .ready)) (fun t => after (exec (.hardTrip 0 115) t) (fun u =>
      u.power.pm.map (fun p => (p.cause, p.entries.map (fun e => e.saved))))) = some (some (some (2, [true]))) ∧
    after (exec (.hardTrip 0 115) (inHbm .ready)) (fun u => u.power.pm.map (fun p => (p.cause, p.entries.map (fun e => e.saved)))) =
      some (some (3, [true])) := by decide +kernel

/-- The hypotheses of Emergencies on SAVED: a team in HBM, one that holds its segment, a trip within an emergency. -/
theorem test_witness_saved : (((inHbm .ready).part 0).state = .hbm ∧ parkedTeam.live = false ∧ parkedTeam.holdsSegment = false ∧
      (inHbm .ready).lines = [] ∧ parkedTeam.spaceSaved = false ∧ team.holdsSegment = true) ∧
    ((burning 0 none team).power.emergency.isSome = true ∧ (burning 0 none team).power.pm.isSome = true ∧ (regs []).power.emergency = none ∧
      (burning 0 none team).team? 1 = some team) := by decide +kernel

/-- R386, R391: a write of WARN or RESUME counts at once; R379: IDLE stays set while idle cycles are inserted. -/
theorem test_governor_heat : after (exec (.governorWrite 0 1 0x466E5A) (at_ 5 (governed (fun g => { g with hot := 92 }) (booted .ready)))) (fun t =>
      ((t.gov 0).shed, (t.gov 0).thrSince)) = some (true, 5) ∧
    after (exec (.governorWrite 0 1 0x466964) (governed (fun g => { g with hot := 97, shed := true }) (booted .ready))) (fun t =>
      ((t.gov 0).warn, (t.gov 0).shed)) = some (100, false) ∧
    after (exec (.governorWrite 0 3 2) (governed (fun g => { g with idle := true, step := 2 }) (booted .ready))) (fun t => (t.gov 0).idle) =
      some true ∧
    after (exec (.governorWrite 0 3 2) (governed (fun g => { g with idle := true, step := 1 }) (booted .ready))) (fun t => (t.gov 0).idle) =
      some false := by decide +kernel

/-- R391: the 100 ms begin anew with a RESUME below a sensor, and begin with one that no sensor exceeds. -/
theorem test_resume_write : after (exec (.governorWrite 0 1 0x466E5A) (governed (fun g => { g with hot := 80 }) (burning 5 (some 0) team))) (fun t =>
      t.power.emergency.map (fun e => e.cool)) = some (some none) ∧
    after (exec (.governorWrite 0 1 0x556E5A) (at_ 7 (governed (fun g => { g with hot := 80 }) (burning 5 none team)))) (fun t =>
      t.power.emergency.map (fun e => e.cool)) = some (some (some 7)) := by decide +kernel

/-- R374: a change of WDOG neither raises the notices of periods that have passed under the old one nor begins a period anew. -/
theorem test_wdog_change : (let s := { machine { hartWith [] with runNs := 101000000 } with spaces := [{ Space.blank 0 with wdog := 0 }] }
     let t := writeTe s 0 0 (5 * 2 ^ 56)
     ((t.space 0).wdog, t.hart.dogAt, t.hart.notice.watchdog, after (exec (.watchdog me) t) (fun u => u.hart.notice.watchdog),
       after (exec (.watchdog me) (t.withHart { t.hart with runNs := 105000000 })) (fun u => u.hart.notice.watchdog))) =
      (5, 101000000, none, some none, some (some 105)) := by decide +kernel

/-- The hypotheses of PowerAndTime and AsynchronousEvents for those, and of LegalKept for the registers. -/
theorem test_witness_changes : (let g := governed (fun g => { g with hot := 92 }) (booted .ready)
      (g.gov 0).hot.toNat < (g.gov 0).warn.toNat ∧ 90 ≤ (g.gov 0).hot.toNat) ∧ (burning 5 none team).power.emergency.isSome = true ∧
    (let s := { machine { hartWith [] with runNs := 101000000 } with spaces := [{ Space.blank 0 with wdog := 2 }] }
     s.hart.dogAt / 2000000 < s.hart.runNs / 2000000 ∧ (5 * 2 ^ 56) / 2 ^ 56 ≠ (s.space s.sp).wdog.toNat) ∧
    (let s := State.reset.withFetchWord 32 0x08104005
     (∀ h ∈ s.hart :: s.others, h.regsLegal = true ∧ h.vq.length ≤ 64) ∧ (after (step s) (fun _ => ())).isSome = true) := by decide +kernel

/-! ## Messages (chapter 2) -/

/-- Queue 5 of space 1: a ring of 64 entries at VA 0x70000. -/
def queue5 : Queue :=
  { Queue.blank 5 with
    en := true, space := 1, ringVa := 0x70000, logDepth := 0, maxTeams := 1, openq := true }

/-- The device READY with the module, the queue changed in some way, its ring mapped readable, a segment that holds a message of
type 0x21, and g1 and up. -/
def messaging (f : Queue → Queue) (g : List Word) : State :=
  let s := mapped g [] []
  { s with
    mem := tables ++ cellsOf 0x62038 0x7000050003
    spaces := [{ Space.blank 1 with teEn := true, tvec := 0x10000, modules := [oneModule] }]
    queues := [f queue5]
    teams := [{ team with space := 1, seg := [(0, 0x21), (8, 7)] }]
    farms := [farm false []]
    parts := s.parts.set 0 { s.part 0 with en := true, facets := 1, logVlp := 16 }
    boot := { State.reset.boot with state := .ready, memok := true } }

theorem test_launch : after (exec (.launch 1 2 0) (messaging id [5, nw])) (fun t =>
      (t.g 1, (t.queue 5).held, readLE t.mem 0x7000050000 4, readLE t.mem 0x7000050008 4)) = some (0, [0], 0x21, 7) ∧
    got (exec (.launch 1 2 0) (messaging (fun q => { q with en := false }) [5, nw])) 1 = some 2 ∧
    got (exec (.launch 1 2 0) (messaging (fun q => { q with held := List.range 64, lastSlot := some 1 }) [5, nw])) 1 = some 1 ∧
    got (exec (.launch 1 2 0) (messaging (fun q => { q with openq := false, space := 2 }) [5, nw])) 1 = some 9 ∧
    got (exec (.launch 1 2 0) (messaging id [0x10005, nw])) 1 = some 6 := by decide +kernel

/-- The same with a message of type 0x21 in mapped memory at VA 0x20000, and some store lines. -/
def mappedMessage (ls : List StoreLine) : State :=
  let s := messaging id [5, 0x20000]
  { s with mem := s.mem ++ [(0x2000050000, 0x21), (0x2000050008, 9)], hart := { s.hart with stores := ls } }

/-- R260: a message image in mapped memory; a held line makes `launch` trap. -/
theorem test_launch_mapped : after (exec (.launch 1 2 0) (mappedMessage [])) (fun t =>
      (t.g 1, (t.queue 5).held, readLE t.mem 0x7000050000 4, readLE t.mem 0x7000050008 4)) = some (0, [0], 0x21, 9) ∧
    after (exec (.launch 1 2 0) (mappedMessage [line .held])) (fun t => (t.hart.tr.code, t.hart.tr.val, (t.queue 5).held)) =
      some (0x09, 0x20000, []) ∧
    after (exec (.launch 1 2 0) (mappedMessage [{ line .retired with line := 0x900 }])) (fun t => t.hart.wait) = some .committed ∧
    after (exec (.launch 1 2 0) { mappedMessage [] with hart := { (mappedMessage []).hart with vq := [entry 0x40400980] } })
      (fun t => t.hart.wait) = some .commitQueue := by decide +kernel

theorem test_witness_launch_mapped : (let s := mappedMessage []
      MappedAt s 0x20000 64 ∧ NoElementRead s ∧ ReleaseReady s .package ∧ s.lines = [] ∧
      (home s s.sp s.pt 0x20000 .load).1 = .ok 0x2000050107 ∧ (home s s.sp s.pt 0x30000 .load).1 = .fault 0x08 ∧
      (home s s.sp s.pt 0x50000 .load).1 = .mig ∧ MappedAt s 0x50000 64 ∧ MappedAt s 0x30000 64) ∧
    (let s := { mappedMessage [] with lines := (copied [] true).lines }
     (copyAt s (.l1d s.hart.id.core) 1 0x400).map (fun c => c.r) = some true) ∧
    (∃ l ∈ (mappedMessage [line .held]).hart.stores, l.stage = .held) ∧
    (∃ l ∈ (mappedMessage [line .retired]).hart.stores, l.reached .package = false) := by
  simp only [MappedAt, EntryReady, NoElementRead, ReleaseReady]
  decide +kernel

theorem test_wake_write : after (exec (.wakeWrite (5 * 64) 64 0x21) (messaging id [])) (fun t =>
      ((t.queue 5).pending.map (fun x => (x.slot, x.origin)), readLE t.mem 0x7000050000 4)) = some ([(0, .host)], 0x21) ∧
    after (exec (.wakeWrite (5 * 64 + 8) 8 0x21) (messaging id [])) (fun t => ((t.queue 5).drops, (t.queue 5).lastCode)) = some (1, 4) ∧
    after (exec (.timerFire 0) { messaging id [] with timers := [{ at_ := 0, queue := 5, msg := 0x21, deadline := none, launched := none }] }) (fun t =>
      ((t.queue 5).held, t.timers)) = some ([0], []) := by decide +kernel

theorem test_queues : after (exec (.queueEnable 5) (messaging (fun q => { q with en := false, drops := 7 }) [])) (fun t =>
      ((t.queue 5).en, (t.queue 5).drops)) = some (true, 0) ∧
    after (exec (.queueEnable 5) (messaging (fun q => { q with en := false, ringVa := 0x70800 }) [])) (fun t =>
      ((t.queue 5).en, (t.queue 5).badcfg)) = some (false, true) ∧
    after (exec (.queueMaxteamsWrite 5 3) (messaging id [])) (fun t => (t.queue 5).maxTeams) = some 3 ∧
    after (exec (.queueDisable 5) (messaging id [])) (fun t => (t.queue 5).en) = some false := by decide +kernel

/-- The hypotheses of Messages: every disposition of a launch; the other ways in. -/
theorem test_witness_messages : (let s := messaging id [5, nw]
      InSegment s nw 64 ∧ NoElementRead s ∧ ReleaseReady s .package ∧ Memory.wf s.mem = true ∧ (5 : Nat) < 2 ^ 16 ∧
      (s.g 1).toNat / 2 ^ 24 = 0 ∧ s.devnum.toNat = 0 ∧ malformed 0x21 = false ∧ mustUnd s queue5 0x21 = false ∧
      queue5.freeEntry = some 0 ∧ ringEntry s queue5 0 = some 0x7000050000 ∧ optValue s queue5 0x21 2 = none ∧
      queue5.part = s.hart.id.part ∧ s.hart.id.space = queue5.space) ∧
    malformed 0xFFFF = true ∧ (nw + 8).toNat % 64 ≠ 0 ∧ ((messaging id [0x1000005, nw]).g 1).toNat / 2 ^ 24 ≠ 0 ∧
    mustUnd (messaging id []) queue5 (0x1FF * 2 ^ 128) = true ∧ optValue (messaging id []) queue5 (0x50002 * 2 ^ 128) 2 = some 5 ∧
    malformed (0x50002 * 2 ^ 128) = false ∧ ({ queue5 with held := List.range 64, lastSlot := some 1 }).freeEntry = none ∧
    routeTo (messaging id []) 1 = none ∧ denied queue5 (some (2, 0)) = false ∧ denied { queue5 with openq := false } (some (2, 0)) = true ∧
    (booted .rom).boot.state = .rom ∧ (linked.ports[0]?.map (fun x => x.en && x.up)) = some true ∧
    routeTo { linked with route := linked.route.set 1 0 } 1 = some 0 ∧
    (queue5.ringVa.toNat % 4096 = 0 ∧ queue5.logDepth.toNat ≤ 14 ∧ (queue5.mod? (messaging id [])).isSome = true) := by
  simp only [InSegment, NoElementRead, ReleaseReady]
  decide +kernel

/-- The device whose host holds the line of the ring entry that a message would take. -/
def ringHeld (x : List Inbound) (g : List Word) : State :=
  { messaging id g with
    hostLines := [{ pline := 0x7000050000 / 128, any := true, snooped := none, inval := true, late := false }], inbound := x }

/-- A message of the host for queue 5 on its link. -/
def onLink : Inbound := { origin := .host, queue := 5, msg := 0x21 }

/-- R252, R408: a message waits for the host's answer about its ring entry's line: at the instruction, on its link, in the timer unit. -/
theorem test_ring_snoops : after (exec (.launch 1 2 0) (ringHeld [] [5, nw])) (fun t =>
      (t.hart.wait, t.g 1, (t.queue 5).held, t.hostLines.map (fun h => h.snooped))) = some (.committed, 5, [], [some 0]) ∧
    after (exec (.wakeWrite (5 * 64) 64 0x21) (ringHeld [] [])) (fun t => (t.inbound, (t.queue 5).held)) = some ([onLink], []) ∧
    after (exec (.wakeWrite (5 * 64) 64 0x22) (ringHeld [onLink] [])) (fun t => t.inbound.map (fun x => x.msg)) = some [0x21, 0x22] ∧
    after (exec (.timerFire 0) { ringHeld [] [] with timers := [{ at_ := 0, queue := 5, msg := 0x21, deadline := none, launched := none }] })
      (fun t => (t.timers.length, (t.queue 5).held)) = some (1, []) := by decide +kernel

theorem test_inbound : after (step { ringHeld [onLink] [] with hostLines := [], agenda := [.inbound] }) (fun t =>
      (t.inbound, (t.queue 5).held, readLE t.mem 0x7000050000 4)) = some ([], [0], 0x21) ∧
    after (step { ringHeld [onLink] [] with agenda := [.inbound] }) (fun t => (t.inbound.length, t.hostLines.map (fun h => h.snooped))) =
      some (1, [some 0]) ∧
    after (step { ringHeld [onLink] [] with hostLines := [], agenda := [.inbound], boot := (booted .recovery).boot }) (fun t => t.inbound.length) =
      some 1 := by decide +kernel

/-- The hypotheses of Messages for those states. -/
theorem test_witness_inbound : (let s := ringHeld [] [5, nw]
      (launchWaits s 5 0x21).isSome = true ∧ (launchWaits (messaging id [5, nw]) 5 0x21).isNone = true ∧
      (ringWaits s (.of .host) 5 0x21 false).isSome = true ∧ (ringWaits s (.of .peer) 5 0x21 false).isSome = true ∧
      (ringWaits s { origin := .timer, owner := none, hart := none } 5 0x21 true).isSome = true ∧
      (ringWaits (messaging id []) { origin := .timer, owner := none, hart := none } 5 0x21 true).isNone = true ∧ s.inbound = []) ∧
    (∀ o ∈ [Origin.host, .peer], (ringWaits (messaging id []) (.of o) 5 0x21 false).isNone = true) ∧
    (let s := { ringHeld [onLink] [] with hostLines := [] }
     s.inbound = onLink :: [] ∧ s.boot.state = .ready ∧ (ringWaits s (.of .host) 5 0x21 false).isNone = true ∧
      mustUnd s queue5 0x21 = false ∧ takesMessages s = true ∧ s.inbound ≠ [] ∧ onLink.origin ≠ .launch) ∧
    takesMessages { ringHeld [onLink] [] with boot := (booted .recovery).boot } = false := by decide +kernel

/-! ## Dispatch and placement (chapters 2 and 3) -/

/-- A message of a type in ring entry 0, with a deadline or none. -/
def ringMsg (type : BitVec 512) (deadline : Option Int) : RingMsg := { slot := 0, msg := type, deadline := deadline, origin := .host }

/-- The device whose queue 5 holds a message, with harts and a team of that queue. -/
def dispatching (perTeam : Bool) (m : RingMsg) (hs : List Hart) (ts : List Team) : State :=
  let s := messaging (fun q => { q with perTeam := perTeam, held := [0], pending := [m] }) []
  { s with hart := Hart.blank, others := hs, teams := ts, nextUid := 2 }

/-- A serving team of queue 5, in a status. -/
def servingTeam (st : TeamStatus) : Team := { team with queue := 5, space := 1, status := st }

/-- Its hart between messages. -/
def freeHart : Hart := { hart1 [] with run := .free }

/-- R35, R36, R41, R42: a free hart, a farm, a message that is late, one that no handler takes. -/
theorem test_dispatch : after (exec (.onyxDispatch 0) (dispatching false (ringMsg 0x21 none) [freeHart] [servingTeam .resident])) (fun t =>
      (t.others.map (fun h => (h.run, h.msg.map (fun m => m.entry))), (t.queue 5).pending.length)) =
      some ([(.assigned, some 0x20000)], 0) ∧
    after (exec (.onyxDispatch 0) (dispatching true (ringMsg 0x21 none) [] [])) (fun t =>
      (t.placing.map (fun p => (p.farm, p.count)), t.farms.map (fun f => f.uid))) = some ([(2, 1)], [1, 2]) ∧
    after (exec (.onyxDispatch 0) (dispatching true (ringMsg 0x21 (some (-1))) [] [])) (fun t =>
      (t.events.map (fun e => e.code), (t.queue 5).held)) = some ([7], []) ∧
    after (exec (.onyxDispatch 0) (dispatching true (ringMsg 0x22 none) [] [])) (fun t =>
      (t.events.map (fun e => e.code), (t.queue 5).held)) = some ([8], []) := by decide +kernel

/-- The launch of one team of queue 5. -/
def launchOf (count : Nat) : Placing :=
  { farm := 1, queue := 5, desc := { queue5 with perTeam := true }, ring := ringMsg 0x21 none, perTeam := true, gang := false, cls := 3, first := 0, count := count, waiting := false }

theorem test_placement : after (exec (.teamPlace 0) { dispatching true (ringMsg 0x21 none) [] [] with placing := [launchOf 2] }) (fun t =>
      (t.teams.map (fun x => (x.uid, x.facet, x.cluster)), t.placing.map (fun p => (p.first, p.count)))) =
      some ([(2, 0, 0)], [(1, 1)]) ∧
    after (exec (.teamMove 1 0 7) (dispatching false (ringMsg 0x21 none) [freeHart] [servingTeam .resident])) (fun t =>
      t.teams.map (fun x => x.status)) = some [.moving 0 7 .move] ∧
    after (exec (.teamMoveComplete 1) (dispatching false (ringMsg 0x21 none) [freeHart] [servingTeam (.moving 0 7 .move)])) (fun t =>
      (t.teams.map (fun x => (x.status, x.cluster)), t.harts.map (fun h => h.id.phys))) = some ([(.resident, 7)], [0xE00]) ∧
    after (exec (.teamIdleRetire 1) (dispatching false (ringMsg 0x21 none) [freeHart] [{ servingTeam .resident with idleNs := 100000 }])) (fun t =>
      (t.teams, t.others)) = some ([], []) := by decide +kernel

/-- Team `i` of a full device: it holds the scratchpad of cluster `i − 1`, and runs no handler; the last alone is of partition 0. -/
def fillTeam (i : Nat) : Team :=
  { servingTeam .resident with uid := i, cluster := i - 1, order := i, segUnits := 1024, stackAt := i, part := if i = 32 then 0 else 1 }

/-- The device whose clusters have no scratchpad left, with a HIGH launch of one team. -/
def crowded : State :=
  let s := dispatching true (ringMsg 0x21 none) [] ((List.range 32).map (fun i => fillTeam (i + 1)))
  { s with
    spaces := [{ Space.blank 1 with teEn := true, tvec := 0x10000, modules := [{ oneModule with stackBytes := 0x200000 }] }]
    placing := [{ launchOf 1 with cls := 1 }], nextUid := 40 }

/-- A GANG farm of two teams. -/
def gangFarm : State :=
  let md := { oneModule with gang := true, stackBytes := 0x20000 }
  let s := dispatching true (ringMsg 0x21 none) [] []
  { s with
    spaces := [{ Space.blank 1 with teEn := true, tvec := 0x10000, modules := [md] }]
    farms := [farm true []], placing := [{ launchOf 2 with gang := true }] }

/-- R57, R58: a GANG farm starts whole, on one cluster with room. -/
theorem test_gang_placement : after (exec (.teamPlace 0) gangFarm) (fun t =>
    t.teams.map (fun x => (x.uid, x.teamId, x.facet, x.cluster, x.slots))) = some [(2, 0, 0, 0, [0]), (3, 1, 0, 0, [1])] := by decide +kernel

/-- R60: a HIGH launch pre-empts a team of a lower class where that makes room. -/
theorem test_preemption : after (exec (.teamPlace 0) crowded) (fun t =>
      (t.teams.filter (fun x => x.status != .resident)).map (fun x => (x.uid, x.status))) = some [(32, .stopped .preempt)] ∧
    after (exec (.teamPlace 0) crowded) (fun t => (t.teams.filter (fun x => x.uid == 40)).map (fun x => (x.cluster, x.slots))) =
      some [(31, [0])] := by decide +kernel

/-- The hypotheses of DispatchAndPlacement for those launches. -/
theorem test_witness_preempt_and_gang : (let s := crowded
     let p := { launchOf 1 with cls := 1 }
     let md := { oneModule with stackBytes := 0x200000 }
     let v := fillTeam 32
     let s1 := stopTeam s 32 (.stopped .preempt) .preempt
     partOpen s 0 = true ∧ p.halted s = false ∧ p.desc.mod? s = some md ∧ v ∈ s.teams ∧ v.runs = true ∧ 1 < teamRank s 32 ∧
      findCluster s (facetOrder s p.desc md p.ring) 1 (segUnits s 1 md) = none ∧
      (∀ x ∈ s.teams, x = v ∨ x.part ≠ v.part) ∧ (∀ x ∈ s.teams, x.uid = 32 → x = v) ∧
      (∀ x ∈ s.teams, x.uid < s.nextUid) ∧ stoppable s 32 = true ∧
      findCluster s1 (facetOrder s1 p.desc md p.ring) 1 (segUnits s1 1 md) = some (0, 31, [0]) ∧ (stackFor s1 1 md).isSome = true) ∧
    (let s := gangFarm
     let p := { launchOf 2 with gang := true }
     let md := { oneModule with gang := true, stackBytes := 0x20000 }
     partOpen s 0 = true ∧ p.halted s = false ∧ p.desc.mod? s = some md ∧ (md.handler? (msgType p.ring.msg)).isSome = true ∧
      (facetOrder s p.desc md p.ring).head? = some 0 ∧ (fits s 0 0 2 (2 * segUnits s 1 md)).isSome = true ∧
      2 * md.teamSize * md.stackSize ≤ md.stackBytes ∧ fits { s with teams := crowded.teams } 0 0 2 2 = none) := by decide +kernel

/-- A hart that has been given a message. -/
def assignedHart : Hart :=
  { hart1 [] with
    run := .assigned, id := { (hart1 []).id with teamSize := 4 }
    msg := some { queue := 5, slot := 0, msgVa := 0x70000, argPtr := 9, entry := 0x20000, request := 1024, cls := 2, stream := none }
    ln := { Hart.blank.ln with vlmax := 65536, vlmin := 512 } }

/-- Table 1.1: what a handler starts with. -/
theorem test_handler_entry : after (exec (.handlerEntry me) { dispatching false (ringMsg 0x21 none) [] [servingTeam .resident] with
      hart := assignedHart }) (fun t =>
    ([t.g 1, t.g 2, t.g 3, t.g 4, t.g 62, t.g 5, t.hart.sc.pc], t.hart.run, t.hart.ln.len, t.hart.sc.prio)) =
    some ([9, 0x70000, 0, 4, 0x800080, 0, 0x20000], .running, 1024, 2) := by decide +kernel

/-- A stream's entry. -/
def streamOf (draining : Bool) : StreamEntry :=
  { facet := 0, space := 1, stream := 3, base := 0x80000, lines := 1, timeoutUs := 5, last := 0, running := 0, draining := draining
    again := none }

theorem test_streams : after (exec (.streamTimeout 0) { at_ 5000 (regs []) with streamEntries := [streamOf false] }) (fun t =>
      t.streamEntries.map (fun e => e.draining)) = some [true] ∧
    after (exec (.streamTimeout 0) { at_ 4999 (regs []) with streamEntries := [streamOf false] }) (fun t =>
      t.streamEntries.map (fun e => e.draining)) = some [false] ∧
    after (exec (.streamDrainComplete 0) { regs [] with streamEntries := [streamOf true] }) (fun t => t.streamEntries) = some [] := by
  decide +kernel

theorem test_witness_dispatch : (let s := dispatching false (ringMsg 0x21 none) [freeHart] [servingTeam .resident]
      (nextQueue s).map (fun q => q.pending) = some [ringMsg 0x21 none] ∧ (freeHarts s (s.queue 5)).length = 1 ∧
      (s.queue 5).mod? s = some oneModule ∧ (oneModule.handler? (msgType 0x21)).isSome = true ∧
      (oneModule.handler? (msgType 0x22)).isNone = true) ∧
    (ringMsg 0x21 (some (-1))).late 0 = true ∧ (ringMsg 0x21 none).late 0 = false ∧
    (∀ q ∈ (regs []).queues, pendingQueue (regs []) q = false) ∧
    (let s := { dispatching true (ringMsg 0x21 none) [] [] with placing := [launchOf 2] }
     partOpen s (launchOf 2).desc.part = true ∧ (launchOf 2).halted s = false ∧ (launchOf 2).desc.mod? s = some oneModule ∧
      ((launchOf 2).desc.strm && msgSidv (launchOf 2).ring.msg) = false ∧ oneModule.gang = false ∧
      (s.farm? 1).map (fun f => f.gang) = some false ∧
      findCluster s (facetOrder s (launchOf 2).desc oneModule (ringMsg 0x21 none)) 1 (segUnits s 1 oneModule) = some (0, 0, [0]) ∧
      findCluster s [] 1 1 = none ∧ stackFor s 1 oneModule = some 0 ∧ stackFor s 1 { oneModule with stackBytes := 0 } = none) := by decide +kernel

theorem test_witness_teams : (let s := dispatching false (ringMsg 0x21 none) [freeHart] [servingTeam (.stopped .preempt)]
      s.placing = [] ∧ partOpen s 0 = true ∧ findCluster s (s.part 0).list 1 16 = some (0, 0, [0]) ∧
      (resumeTeam 0 s 1 0 0 [0] .preempt).isSome = true) ∧
    (let s := dispatching false (ringMsg 0x21 none) [freeHart] [servingTeam .resident]
     stoppable s 1 = true ∧ teamRank s 1 ≠ 0 ∧ shedding s 0 = false ∧ partOpen s 0 = true ∧ 0 ∈ (s.part 0).list ∧ (servingTeam .resident).at 0 7 = false ∧
      (fits s 0 7 1 16).isSome = true ∧ (s.farm? 1).map (fun f => f.perTeam) = some false ∧
      (∀ x ∈ s.harts, x.id.ref.team = 1 → runsHandler x = false)) ∧
    (let s := dispatching false (ringMsg 0x21 none) [freeHart] [servingTeam (.moving 0 7 .move)]
     (∃ k, s.team? 1 = some k ∧ k.status ≠ .stopped .preempt ∧ k.status ≠ .stopped .thermal ∧ k.status ≠ .resident) ∧ diesStill s = false ∧
      1 ≤ (freeSlots s 0 7).length ∧ (resumeTeam 0 s 1 0 7 ((freeSlots s 0 7).take 1) .move).isSome = true) ∧
    (let s := { dispatching false (ringMsg 0x21 none) [] [servingTeam .resident] with hart := assignedHart }
     isOut s me = false ∧ s.hart.ln.req = none ∧ s.others = [] ∧ s.hart.ln.vlmax = 2 ^ 16 ∧
      (s.power.gov[s.hart.id.facet]?.all (fun v => decide (1024 / 512 * 60 * v.ratio ≤ vget v.allow s.hart.id.cluster 0 * 1000))) = true) := by
  decide +kernel

/-! ## Traps that wait (Table 6.5) -/

/-- The device whose hart has a trap due, at its turn: the head's device-class access still runs, or is over. -/
def dueTrap (started : Bool) : State :=
  let h := { hartWith [] with vq := [entry 0x64008000], ln := { Hart.blank.ln with headDevc := started } }
  { machine { h with wait := .queue, due := some { code := 0x0D, pc := 0x10004, val := 5, seq := 0, iaddr := some 0x10000, raised := some 0 } } with
    agenda := [.hart me] }

/-- The same before the trap is raised. -/
def untrapped : State := { dueTrap true with hart := { (dueTrap true).hart with wait := .none, due := none } }

/-- Table 6.5: a trap that finds the head's device-class access started is kept as it was raised, and taken at the turn after it. -/
theorem test_due_trap : after (exec (.trap 5) untrapped) (fun t =>
      (t.hart.due.map (fun x => (x.code, x.val, x.raised)), t.hart.tr.hm)) = some (some (0x0D, 5, some 0), false) ∧
    after (step (dueTrap true)) (fun t => (t.hart.tr.hm, t.hart.due.isSome)) = some (false, true) ∧
    after (step (at_ 9 (dueTrap false))) (fun t => (t.hart.tr.code, t.hart.tr.pc, t.hart.tr.val, t.hart.due.isSome)) =
      some (0x0D, 0x10004, 5, false) := by decide +kernel

/-- The hypotheses of TrapEntry for a trap that is due, and for one whose record keeps when it was raised. -/
theorem test_witness_due_trap : (∀ b ∈ [true, false], let s := dueTrap b
      s.agenda = .hart s.hart.id.ref :: [] ∧ Runs s s.hart.id.ref ∧ s.hart.due.isSome = true ∧ s.hart.fatal = none ∧ diesStill s = false ∧
      headStarted s s.hart = b) ∧
    (let s := at_ 9 (logging 2)
     headStarted s s.hart = false ∧ s.hart.tr.hm = true ∧ s.clock.now ≠ 4 ∧
      (writeRecord s { endingRecord s 0x0D 5 with time := 4 }).2.isSome = true ∧
      after (.next (takeTrap s { code := 0x0D, pc := s.hart.sc.pc, val := 5, seq := s.hart.sc.iseq, raised := some 4 }))
        (fun t => readLE t.mem 0x2000050000 8) = some 4) := by
  simp only [Runs]
  decide +kernel

/-! ## Steps, encodings, reset -/

/-- The first step after reset runs an `addi g1, g1, 5` placed where it fetches; a long `li`; an event of the agenda. -/
theorem test_step : after (step (State.reset.withFetchWord 32 0x08104005)) (fun t => (t.g 1, t.hart.sc.pc)) = some (5, 0x10004) ∧
    after (step (State.reset.withFetchWord 64 (0xFD6789AB * 2 ^ 32 + 0xF80948D1))) (fun t => (t.g 9, t.hart.sc.pc)) =
      some (0x123456789AB, 0x10008) ∧
    after (step { booted .ready with agenda := [.event (.queueEnable 3)] }) (fun t => ((t.queue 3).badcfg, t.agenda.length)) = some (true, 0) := by
  decide +kernel

/-- The hypotheses of StepRunsDecoded: a turn of a hart, the words it fetches, a fault of a fetch, an event. -/
theorem test_witness_step : (let s := State.reset.withFetchWord 32 0x08104005
      ∃ r, s.agenda = .hart r :: [] ∧ Runs s r ∧ s.hart.fatal = none ∧ asyncReady { s with agenda := [] } = false ∧
        trapWaits { s with agenda := [] } = false ∧ diesStill s = false ∧ s.hart.heldByQueue = false ∧ s.hart.parked = false ∧ s.hart.wait = .none) ∧
    (∃ t, fetchWord { State.reset.withFetchWord 32 0x08104005 with agenda := [] } 0x10000 = .word 0x08104005 t) ∧
    isLong 0x08104005 = false ∧ decodeWord 0x08104005 = .ok (.addi 1 1 5) ∧ isLong 0xF80948D1 = true ∧
    (∃ t, fetchWord (regs []) 0x10000 = .fault 0x08 t) ∧ isEvent (.queueEnable 3) = true ∧ hartEvent (.queueEnable 3) = false ∧
    (hartEvent (.watchdog me) = true ∧ diesStill (regs []) = false) := by
  refine ⟨⟨_, rfl, ?_⟩, ⟨_, rfl⟩, by decide, by decide, by decide, ⟨_, rfl⟩, by decide, by decide, by decide⟩
  simp only [Runs]
  decide +kernel

/-- A word of an instruction of the long form, and one that is no continuation, where the first step after reset fetches. -/
def badPair : State := State.reset.withFetchWord 64 (0x08104005 * 2 ^ 32 + 0xF80948D1)

/-- R71: a long form whose second word is no continuation word is Illegal with both words in TRAPVAL. -/
theorem test_bad_pair : after (step { badPair with
      spaces := [{ Space.blank badPair.sp with teEn := true, tvec := 0x10000 }], teams := badPair.teams }) (fun t =>
    (t.hart.tr.code, t.hart.tr.val, t.hart.tr.pc)) = some (0x01, 0x08104005F80948D1, 0x10000) := by decide +kernel

/-- A hart at a page that migrates, whose turn it is. -/
def stalled : State :=
  let s := mapped [] [] []
  { s with
    mem := tables ++ cellsOf 0x62038 0x700005008B
    hart := { s.hart with sc := { s.hart.sc with pc := 0x70000 } }, agenda := [.hart me] }

/-- The hypotheses of StepRunsDecoded: a second word of either kind, a fetch that stalls, a turn that nothing may use. -/
theorem test_witness_bad_pair : (let s := { badPair with agenda := [] }
      (∃ t, fetchWord s 0x10000 = .word 0xF80948D1 t) ∧ ∃ t, fetchWord s 0x10004 = .word 0x08104005 t) ∧
    (0x08104005#32).toNat / 2 ^ 26 ≠ 0x3F ∧ (0xFC000000#32).toNat / 2 ^ 26 = 0x3F ∧ isLong 0xF80948D1 = true ∧
    (∃ t, fetchWord { stalled with agenda := [] } 0x70000 = .stall t) ∧
    (let s := { stalled with hart := { stalled.hart with vq := [entry 0x5C304000] } }
     Runs s me ∧ s.hart.fatal = none ∧ asyncReady { s with agenda := [] } = false ∧ diesStill s = false ∧
      s.hart.heldByQueue = true ∧ trapWaits { s with agenda := [] } = false) := by
  refine ⟨⟨⟨_, rfl⟩, ⟨_, rfl⟩⟩, by decide, by decide, by decide, ⟨_, rfl⟩, ?_⟩
  simp only [Runs]
  decide +kernel

/-- The hypotheses of StepRunsDecoded about a trap that is due. -/
theorem test_witness_due_turn : (∀ b ∈ [true, false], let s := dueTrap b
      let s0 := { s with agenda := [] }
      Runs s me ∧ s.hart.fatal = none ∧ asyncReady s0 = false ∧ diesStill s = false ∧ trapWaits s0 = b ∧ headStarted s0 s0.hart = b) ∧
    (State.reset.withFetchWord 32 0x08104005).hart.due = none ∧ stalled.hart.due = none := by
  simp only [Runs]
  decide +kernel

/-- R363: TRAPELEM and TRAPNPC of an asynchronous 0x09. -/
theorem test_async_records : after (exec (.asyncCauseTake me) (machine { hartWith [] with stores := [line .held], recs := [0x5000, 0x5040] }))
    (fun t => (t.hart.tr.elem, t.hart.tr.nrec, t.hart.tr.npc)) = some (2, 2, 0x10000) ∧
    (machine { hartWith [] with stores := [line .held], recs := [0x5000, 0x5040] }).hart.due = none := by decide +kernel

theorem test_witness_encodings : (∀ i ∈ [Instr.addi 1 1 5, .liL 9 0x123456789AB, .vadd 2 0 1 1 true, .jalL 63 2],
    i.wellFormed = true ∧ encode i ≠ []) ∧ isLong 0x08104005 = false ∧ isLong 0xF80948D1 = true ∧
    decodeLong 0xF80948D1 0xFD6789AB = .ok (.liL 9 0x123456789AB) := by decide

/-- A state that meets the premise of LegalKept with cells in every memory, and whose next step is a next state. -/
theorem test_witness_legal : let s := { mapped [] [] [] with teams := [{ team with seg := [(0, 1)] }], agenda := [.event (.queueEnable 3)] }
    s.memLegal = true ∧ (after (step s) (fun _ => ())).isSome = true := by decide +kernel

theorem test_reset : State.reset.boot.state = .rom ∧ (State.reset.gov 0).lbud = 1550 ∧ (State.reset.queue 7).cls = 3 ∧
    State.reset.route[255]? = some 0xFF := by decide +kernel

end Sys2Proof.Tests
end

section
/-! The integer logic, shifts and divisions (R102 to R105). -/

namespace Sys2Proof.Machine

/-! ### Shifts -/

theorem sext64_eq_ofInt {n : Nat} (i : BitVec n) : sext64 i = BitVec.ofInt 64 i.toInt := rfl

theorem shl_of_lt (x : Word) {n : Nat} (h : n < 64) : shl x n = BitVec.ofNat 64 (x.toNat * 2 ^ n) := by
  rw [shl, if_pos h]
  exact BitVec.eq_of_toNat_eq (by simp [Nat.shiftLeft_eq])

theorem shr_of_lt (x : Word) {n : Nat} (h : n < 64) : shr x n = BitVec.ofNat 64 (x.toNat / 2 ^ n) := by
  have hx : x.toNat / 2 ^ n < 2 ^ 64 := (Nat.div_le_self _ _).trans_lt x.isLt
  rw [shr, if_pos h]
  exact BitVec.eq_of_toNat_eq (by rw [BitVec.toNat_ushiftRight, BitVec.toNat_ofNat, Nat.shiftRight_eq_div_pow, Nat.mod_eq_of_lt hx])

theorem sar_of_lt (x : Word) {n : Nat} (h : n < 64) : sar x n = BitVec.ofInt 64 (x.toInt.fdiv (2 ^ n)) := by
  rw [sar, if_pos h, BitVec.sshiftRight, Int.shiftRight_eq_div_pow,
    Int.fdiv_eq_ediv_of_nonneg _ (by positivity)]
  norm_cast

theorem shl_eq (x : Word) (n : Nat) : shl x n = if n < 64 then BitVec.ofNat 64 (x.toNat * 2 ^ n) else 0 := by
  split
  case isTrue h => exact shl_of_lt x h
  case isFalse h => exact if_neg h

theorem shr_eq (x : Word) (n : Nat) : shr x n = if n < 64 then BitVec.ofNat 64 (x.toNat / 2 ^ n) else 0 := by
  split
  case isTrue h => exact shr_of_lt x h
  case isFalse h => exact if_neg h

/-- An arithmetic shift rounds towards −∞; one by 64 or more leaves copies of the sign (R103). -/
theorem sar_eq (x : Word) (n : Nat) : sar x n =
    if n < 64 then BitVec.ofInt 64 (x.toInt.fdiv (2 ^ n)) else if x.toInt < 0 then BitVec.ofInt 64 (-1) else 0 := by
  split
  case isTrue h => exact sar_of_lt x h
  case isFalse h =>
    rw [sar, if_neg h, BitVec.msb_eq_toInt]
    simp only [decide_eq_true_eq]
    rfl

/-- Settles O2: each instruction writes the model's operation, which agrees bit by bit, or with the shift's arithmetic form by
`shl_eq`, `shr_eq` and `sar_eq`; `rotr` is its arithmetic form. -/
theorem integerLogicAndShifts : Obligations.IntegerLogicAndShifts := by
  unfold Obligations.IntegerLogicAndShifts
  constructor
  · intro s d a b i
    refine ⟨⟨_, writeNext_gives s d _, ?_⟩, ⟨_, writeNext_gives s d _, ?_⟩, ⟨_, writeNext_gives s d _, ?_⟩,
      ⟨_, writeNext_gives s d _, ?_⟩, ⟨_, writeNext_gives s d _, ?_⟩, ⟨_, writeNext_gives s d _, ?_⟩,
      ⟨_, writeNext_gives s d _, ?_⟩⟩
    all_goals
      intro n hn
      simp [hn, sext64_eq_ofInt]
  · intro s d a b k n x
    rw [← shl_eq, ← shr_eq, ← sar_eq, ← shl_of_lt x k.isLt, ← shr_of_lt x k.isLt, ← sar_of_lt x k.isLt]
    exact ⟨writeNext_gives s d _, writeNext_gives s d _, writeNext_gives s d _, writeNext_gives s d _,
      writeNext_gives s d _, writeNext_gives s d _, writeNext_gives s d _⟩

/-! ### Division -/

theorem divU_eq (x y : Word) : divU x y = if y = 0 then BitVec.allOnes 64 else x / y := by
  unfold divU
  congr 1
  rw [← BitVec.toNat_udiv, BitVec.ofNat_toNat, BitVec.setWidth_eq]

theorem remU_eq (x y : Word) : remU x y = x % y := by
  rcases eq_or_ne y 0 with rfl | h
  · exact BitVec.umod_zero.symm
  · rw [remU, if_neg h, ← BitVec.toNat_umod, BitVec.ofNat_toNat, BitVec.setWidth_eq]

theorem divS_eq (x y : Word) : divS x y = if y = 0 then BitVec.allOnes 64 else x.sdiv y := by
  unfold divS
  congr 1
  exact BitVec.eq_of_toInt_eq (by rw [BitVec.toInt_ofInt, BitVec.toInt_sdiv])

theorem remS_eq (x y : Word) : remS x y = x.srem y := by
  rcases eq_or_ne y 0 with rfl | h
  · exact BitVec.srem_zero.symm
  · rw [remS, if_neg h, mul_comm, ← Int.tmod_def, ← BitVec.toInt_srem, BitVec.ofInt_toInt]

/-- b × (a div b) + (a rem b) = a modulo 2^64, for b = 0 and the signed overflow too (R104). -/
theorem mul_divS_add_remS (x y : Word) : y * divS x y + remS x y = x := by
  rcases eq_or_ne y 0 with rfl | h
  · simp [remS]
  · calc y * divS x y + remS x y
        = BitVec.ofInt 64 (y.toInt * x.toInt.tdiv y.toInt + (x.toInt - x.toInt.tdiv y.toInt * y.toInt)) := by
          rw [divS, if_neg h, remS, if_neg h, BitVec.ofInt_add, BitVec.ofInt_mul, BitVec.ofInt_toInt]
      _ = BitVec.ofInt 64 x.toInt := by congr 1; ring
      _ = x := BitVec.ofInt_toInt

theorem mul_divU_add_remU (x y : Word) : y * divU x y + remU x y = x := by
  rcases eq_or_ne y 0 with rfl | h
  · simp [remU]
  · calc y * divU x y + remU x y
        = BitVec.ofNat 64 (y.toNat * (x.toNat / y.toNat) + x.toNat % y.toNat) := by
          rw [divU, if_neg h, remU, if_neg h, BitVec.ofNat_add, BitVec.ofNat_mul, BitVec.ofNat_toNat, BitVec.setWidth_eq]
      _ = x := by rw [Nat.div_add_mod, BitVec.ofNat_toNat, BitVec.setWidth_eq]

/-- Settles O4: the model's divisions are those of bit vectors but for the quotients by zero, so the signed quotient is exact except at
the overflow. -/
theorem integerDivision : Obligations.IntegerDivision := by
  unfold Obligations.IntegerDivision
  intro s d a b x y lowest
  refine ⟨divS x y, remS x y, divU x y, remU x y, writeNext_gives s d _, writeNext_gives s d _, writeNext_gives s d _,
    writeNext_gives s d _, mul_divS_add_remS x y, mul_divU_add_remU x y, ?_, ?_, ?_, ?_⟩
  · intro hy
    rw [hy]
    exact ⟨rfl, rfl, rfl, rfl⟩
  · rintro ⟨hx, hy⟩
    rw [hx, hy]
    decide
  · rintro ⟨hy, hov⟩
    have hne : x ≠ BitVec.intMin 64 ∨ y ≠ -1#64 := not_and_or.1 hov
    rw [divS_eq, if_neg hy, BitVec.toInt_sdiv_of_ne_or_ne x y hne, remS_eq, BitVec.toInt_srem, Int.tmod_def, mul_comm]
    exact ⟨rfl, rfl⟩
  · intro hy
    rw [divU_eq, if_neg hy, remU_eq]
    exact ⟨BitVec.toNat_udiv, BitVec.toNat_umod⟩

end Sys2Proof.Machine
end

section
/-! The scalar selections of floating point: sign changes, minima and maxima, compares and classes (R115, R117 to R119). The lemmas
about patterns and values hold for every floating-point format, so that the vector forms can use them. -/

namespace Sys2Proof.Machine

/-! ### Formats and values -/

theorem width_pos {f : Fmt} (hf : isFloat f = true) : 0 < width f := by
  cases f <;> simp [isFloat, width] at hf ⊢

theorem fracBits_pos {f : Fmt} (hf : isFloat f = true) : 0 < fracBits f := by
  cases f <;> simp [isFloat, fracBits] at hf ⊢

theorem width_eq {f : Fmt} (hf : isFloat f = true) : width f - 1 = expBits f + fracBits f := by
  cases f <;> simp [isFloat, width, expBits, fracBits] at hf ⊢

theorem canonNan_eq {f : Fmt} (hf : isFloat f = true) : canonNan f = (nanOf f false).1 := by
  cases f
  case e2m1 | e4m3 | e5m2 | fp16 | bf16 | fp32 | fp64 => rfl
  all_goals exact absurd hf (by decide)

theorem isNan_iff (v : FpVal) : isNan v = true ↔ v.isNaN := by
  rcases v with (_ | _) | _ | _ <;> simp [isNan, FpVal.isNaN]

theorem isNan_eq_false_iff (v : FpVal) : isNan v = false ↔ ¬v.isNaN := by
  rw [← isNan_iff, Bool.not_eq_true]

theorem isSnan_iff (v : FpVal) : isSnan v = true ↔ v = .nan true := by
  rcases v with _ | _ | _ <;> simp [isSnan]

/-- A finite value as a whole number of units 2^q, for a q not above its last place. -/
theorem value_num_eq (n : Bool) (m : Nat) {e q : Int} (h : q ≤ e) :
    (FpVal.num n m e).value =
      (((if n then -((m * 2 ^ (e - q).toNat : Nat) : Int) else (m * 2 ^ (e - q).toNat : Nat)) : Int) : ℝ) * 2 ^ q := by
  have hpow : (2 : ℝ) ^ e = 2 ^ (e - q).toNat * 2 ^ q := by
    rw [← zpow_natCast, ← zpow_add₀ two_ne_zero, Int.toNat_of_nonneg (by omega), sub_add_cancel]
  cases n <;> simp [FpVal.value, hpow] <;> ring

/-- The compare of two finite values has the sign of their difference. -/
theorem fpCompare_num (n₁ n₂ : Bool) (m₁ m₂ : Nat) (e₁ e₂ : Int) :
    (fpCompare (.num n₁ m₁ e₁) (.num n₂ m₂ e₂) < 0 ↔ (FpVal.num n₁ m₁ e₁).value < (FpVal.num n₂ m₂ e₂).value) ∧
      (fpCompare (.num n₁ m₁ e₁) (.num n₂ m₂ e₂) = 0 ↔ (FpVal.num n₁ m₁ e₁).value = (FpVal.num n₂ m₂ e₂).value) := by
  have hpos : (0 : ℝ) < 2 ^ min e₁ e₂ := by positivity
  rw [value_num_eq n₁ m₁ (min_le_left e₁ e₂), value_num_eq n₂ m₂ (min_le_right e₁ e₂), mul_lt_mul_iff_left₀ hpos,
    mul_left_inj' hpos.ne', Int.cast_lt, Int.cast_inj, fpCompare, Int.sign_neg_iff, Int.sign_eq_zero_iff_zero]
  exact ⟨sub_neg, sub_eq_zero⟩

/-- The compare orders values that are no NaN by their place among the extended reals, −0 beside +0 (R118). -/
theorem fpCompare_place {x y : FpVal} (hx : ¬x.isNaN) (hy : ¬y.isNaN) :
    (fpCompare x y < 0 ↔ x.place < y.place) ∧ (fpCompare x y = 0 ↔ x.place = y.place) := by
  match x, y with
  | .nan true, _ | .nan false, _ => simp [FpVal.isNaN] at hx
  | _, .nan true | _, .nan false => simp [FpVal.isNaN] at hy
  | .inf true, .inf true | .inf true, .inf false | .inf false, .inf true | .inf false, .inf false =>
    simp [fpCompare, FpVal.place]
  | .inf true, .num _ _ _ | .inf false, .num _ _ _ | .num _ _ _, .inf true | .num _ _ _, .inf false =>
    simp [fpCompare, FpVal.place]
  | .num n₁ m₁ e₁, .num n₂ m₂ e₂ =>
    rw [FpVal.place, FpVal.place, EReal.coe_lt_coe_iff, EReal.coe_eq_coe_iff]
    · exact fpCompare_num n₁ n₂ m₁ m₂ e₁ e₂
    all_goals simp

/-- The model's test for the smaller operand is the order of R117. -/
theorem below_iff {x y : FpVal} (hx : ¬x.isNaN) (hy : ¬y.isNaN) :
    (decide (fpCompare x y < 0) || (fpCompare x y == 0 && negative x)) = true ↔ x.below y := by
  obtain ⟨hlt, heq⟩ := fpCompare_place hx hy
  simp [FpVal.below, hlt, heq]

/-! ### Sign changes -/

theorem add_top_mod {u k : Nat} (hu : u < 2 ^ (k + 1)) :
    (u + 2 ^ k) % 2 ^ (k + 1) = if u < 2 ^ k then u + 2 ^ k else u - 2 ^ k := by
  rw [pow_succ] at hu ⊢
  split
  case isTrue h => exact Nat.mod_eq_of_lt (by omega)
  case isFalse h => rw [Nat.mod_eq_sub_mod (by omega), Nat.mod_eq_of_lt (by omega)]; omega

theorem mod_top {u k : Nat} (hu : u < 2 ^ (k + 1)) : u % 2 ^ k = if u < 2 ^ k then u else u - 2 ^ k := by
  rw [pow_succ] at hu
  split
  case isTrue h => exact Nat.mod_eq_of_lt h
  case isFalse h => rw [Nat.mod_eq_sub_mod (by omega), Nat.mod_eq_of_lt (by omega)]

theorem fpPattern_lt {f : Fmt} (hf : isFloat f = true) (x : Word) : fpPattern f x < 2 ^ (width f - 1 + 1) := by
  rw [Nat.sub_add_cancel (width_pos hf)]
  exact Nat.mod_lt _ (by positivity)

/-- `fneg` flips the top bit of the pattern (R115). -/
theorem fopSign_flips {f : Fmt} (hf : isFloat f = true) (d a : GReg) (s : State) :
    let u := fpPattern f (s.g a)
    let top := 2 ^ (width f - 1)
    Gives (fopSign f true d a s) s d (BitVec.ofNat 64 (if u < top then u + top else u - top)) := by
  intro u top
  rw [← add_top_mod (fpPattern_lt hf (s.g a)), Nat.sub_add_cancel (width_pos hf)]
  exact writeNext_gives s d _

/-- `fabs` clears the top bit of the pattern (R115). -/
theorem fopSign_clears {f : Fmt} (hf : isFloat f = true) (d a : GReg) (s : State) :
    let u := fpPattern f (s.g a)
    let top := 2 ^ (width f - 1)
    Gives (fopSign f false d a s) s d (BitVec.ofNat 64 (if u < top then u else u - top)) := by
  intro u top
  rw [← mod_top (fpPattern_lt hf (s.g a))]
  exact writeNext_gives s d _

/-! ### Minima and maxima -/

/-- The minimum and the maximum of every floating-point format are those of R117. -/
theorem fpMinMax_isPick {f : Fmt} (hf : isFloat f = true) (larger : Bool) (u v : Nat) :
    IsPick f larger u v (fpMinMax f larger u v) := by
  unfold IsPick fpMinMax
  refine ⟨by simp [isSnan_iff, flagNV], fun hx hy => ?_, fun hx hy => ?_, fun hx hy => ?_, fun hx hy hb => ?_,
    fun hx hy hb => ?_⟩
  · simp [(isNan_iff _).2 hx, (isNan_iff _).2 hy, canonNan_eq hf]
  · simp [(isNan_iff _).2 hx, (isNan_eq_false_iff _).2 hy]
  · simp [(isNan_eq_false_iff _).2 hx, (isNan_iff _).2 hy]
  · have hc := (below_iff hx hy).2 hb
    cases larger <;> simp [(isNan_eq_false_iff _).2 hx, (isNan_eq_false_iff _).2 hy, hc]
  · have hc := Bool.eq_false_iff.2 (mt (below_iff hx hy).1 hb)
    cases larger <;> simp [(isNan_eq_false_iff _).2 hx, (isNan_eq_false_iff _).2 hy, hc]

/-! ### Compares -/

theorem fpRelation_of_nan (ordering : Bool) (test : Int → Bool) {x y : FpVal} (h : x.isNaN ∨ y.isNaN) :
    fpRelation ordering test x y = (false, if ordering = true ∨ x = .nan true ∨ y = .nan true then 16 else 0) := by
  simp [fpRelation, isNan_iff, isSnan_iff, h, or_assoc, flagNV]

theorem fpRelation_of_not_nan (ordering : Bool) (test : Int → Bool) {x y : FpVal} (hx : ¬x.isNaN) (hy : ¬y.isNaN) :
    fpRelation ordering test x y = (test (fpCompare x y), 0) := by
  simp [fpRelation, isNan_iff, hx, hy]

/-- Equality with a NaN is false, and NV marks a signalling one (R118). -/
theorem fopCompare_equality_of_nan (f : Fmt) (test : Int → Bool) (d a b : GReg) (s : State)
    (h : (fpOperand f s a).isNaN ∨ (fpOperand f s b).isNaN) :
    Writes (fopCompare f false test d a b s) s s.pc4 d 0
      (if fpOperand f s a = .nan true ∨ fpOperand f s b = .nan true then 16 else 0) := by
  rw [fopCompare, fpRelation_of_nan false test h]
  simp only [Bool.false_eq_true, false_or]
  exact writeFlagged_writes s d _

/-- An ordering with a NaN is false and raises NV (R118). -/
theorem fopCompare_ordering_of_nan (f : Fmt) (test : Int → Bool) (d a b : GReg) (s : State)
    (h : (fpOperand f s a).isNaN ∨ (fpOperand f s b).isNaN) :
    Writes (fopCompare f true test d a b s) s s.pc4 d 0 16 := by
  rw [fopCompare, fpRelation_of_nan true test h]
  exact writeFlagged_writes s d _

/-- Without a NaN a compare writes what its test says of the order, and raises nothing (R118). -/
theorem fopCompare_of_not_nan (f : Fmt) (ordering : Bool) (test : Int → Bool) (d a b : GReg) (s : State)
    (ha : ¬(fpOperand f s a).isNaN) (hb : ¬(fpOperand f s b).isNaN) :
    Gives (fopCompare f ordering test d a b s) s d (boolWord (test (fpCompare (fpOperand f s a) (fpOperand f s b)))) := by
  have hw := writeFlagged_writes s d ((boolWord (test (fpCompare (fpOperand f s a) (fpOperand f s b)))).toNat, 0)
  rw [BitVec.ofNat_toNat, BitVec.setWidth_eq] at hw
  rw [fopCompare, fpRelation_of_not_nan ordering test ha hb]
  exact hw

/-- What the three compares write, by the places of two values that are no NaN (R118). -/
theorem compareWords_of_place {x y : FpVal} (hx : ¬x.isNaN) (hy : ¬y.isNaN) :
    let e := boolWord (fpCompare x y == 0)
    let l := boolWord (decide (fpCompare x y < 0))
    let m := boolWord (decide (fpCompare x y ≤ 0))
    (x.place = y.place → e = 1 ∧ l = 0 ∧ m = 1) ∧ (x.place < y.place → e = 0 ∧ l = 1 ∧ m = 1) ∧
      (y.place < x.place → e = 0 ∧ l = 0 ∧ m = 0) := by
  intro e l m
  obtain ⟨hlt, heq⟩ := fpCompare_place hx hy
  refine ⟨fun h => ?_, fun h => ?_, fun h => ?_⟩
  · simp [e, l, m, boolWord, heq.2 h]
  · have hc := hlt.2 h
    simp [e, l, m, boolWord, hc, hc.ne, hc.le]
  · have hc : 0 < fpCompare x y := by
      have h₁ := mt hlt.1 h.not_gt
      have h₂ := mt heq.1 h.ne'
      omega
    simp [e, l, m, boolWord, hc.ne', hc.le, hc]

/-! ### Classes -/

theorem not_natBit_pred {m k : Nat} (hk : 0 < k) (hm : m < 2 ^ k) : (!natBit m (k - 1)) = decide (m < 2 ^ (k - 1)) := by
  have h2 : 2 ^ k = 2 * 2 ^ (k - 1) := by rw [← pow_succ', Nat.sub_add_cancel hk]
  rw [natBit, Bool.eq_iff_iff]
  by_cases h : m < 2 ^ (k - 1)
  · simp [h, Nat.div_eq_of_lt h]
  · simp [h, Nat.div_eq_of_lt_le (m := m) (n := 2 ^ (k - 1)) (k := 1) (by omega) (by omega)]

/-- The value that the fields of a pattern stand for (R163, R164); the format whose one NaN has the fraction 7 is E4M3. -/
theorem unpack_eq {f : Fmt} (hf : isFloat f = true) (x : Nat) :
    let e := x / 2 ^ fracBits f % 2 ^ expBits f
    let m := x % 2 ^ fracBits f
    let neg := decide (x / 2 ^ (width f - 1) % 2 = 1)
    unpack f x =
      if e = 2 ^ expBits f - 1 ∧ f ≠ .e2m1 ∧ (f = .e4m3 → m = 7) then
        if m = 0 then .inf neg else .nan (decide (m < 2 ^ (fracBits f - 1)))
      else if e = 0 then .num neg m (1 - bias f - fracBits f)
      else .num neg (2 ^ fracBits f + m) (e - bias f - fracBits f) := by
  intro e m neg
  have hneg : signBit f x = neg := by simp [signBit, natBit, neg, width_eq hf, beq_eq_decide]
  have hm : natBits x 0 (fracBits f) = m := by simp [natBits, m]
  have hq : (!natBit m (fracBits f - 1)) = decide (m < 2 ^ (fracBits f - 1)) :=
    not_natBit_pred (fracBits_pos hf) (Nat.mod_lt _ (by positivity))
  unfold unpack
  rw [hneg, hm, show natBits x (fracBits f) (expBits f) = e from rfl]
  by_cases h43 : f = .e4m3
  case neg => simp [h43, hq]
  case pos =>
    subst h43
    by_cases hs : e = 15 ∧ m = 7
    · simp [hs, expBits, fracBits]
    · simp [hs, expBits]

/-- The class mask has the one bit of the operand's class (R119). -/
theorem fpClass_eq {f : Fmt} (hf : isFloat f = true) (x : Nat) : fpClass f x = 2 ^ classBit f x := by
  have hm : x % 2 ^ fracBits f < 2 ^ fracBits f := Nat.mod_lt _ (by positivity)
  rw [fpClass, unpack_eq hf, classBit]
  by_cases hs : x / 2 ^ fracBits f % 2 ^ expBits f = 2 ^ expBits f - 1 ∧ f ≠ .e2m1 ∧ (f = .e4m3 → x % 2 ^ fracBits f = 7)
  · rw [if_pos hs, if_pos hs]
    by_cases hm0 : x % 2 ^ fracBits f = 0
    · rw [if_pos hm0, if_pos hm0]
      by_cases hn : x / 2 ^ (width f - 1) % 2 = 1 <;> simp [hn]
    · rw [if_neg hm0, if_neg hm0]
      by_cases hq : x % 2 ^ fracBits f < 2 ^ (fracBits f - 1) <;> simp [hq]
  · rw [if_neg hs, if_neg hs]
    by_cases he : x / 2 ^ fracBits f % 2 ^ expBits f = 0
    · rw [if_pos he, if_pos he]
      by_cases hm0 : x % 2 ^ fracBits f = 0 <;> by_cases hn : x / 2 ^ (width f - 1) % 2 = 1 <;> simp [hm0, hn, hm]
    · rw [if_neg he, if_neg he]
      by_cases hn : x / 2 ^ (width f - 1) % 2 = 1 <;> simp [hn]

theorem fopClass_gives {f : Fmt} (hf : isFloat f = true) (d a : GReg) (s : State) :
    Gives (fopClass f d a s) s d (BitVec.ofNat 64 (2 ^ classBit f (fpPattern f (s.g a)))) := by
  rw [← fpClass_eq hf]
  exact writeNext_gives s d _

/-- Settles O10: every operand that is no NaN has a place among the extended reals, and the model's compare is the order of places;
minima, maxima and the three compares follow from it, and the class mask from the fields of the pattern. -/
theorem fpSelections : Obligations.FpSelections := by
  unfold Obligations.FpSelections
  intro s d a b p hp w u v x y top nv picks
  simp only [List.mem_cons, List.not_mem_nil, or_false] at hp
  rcases hp with rfl | rfl
  all_goals
    exact ⟨fopSign_flips rfl d a s, fopSign_clears rfl d a s,
      ⟨_, fpMinMax_isPick rfl _ u v, writeFlagged_writes s d _⟩, ⟨_, fpMinMax_isPick rfl _ u v, writeFlagged_writes s d _⟩,
      fun h => ⟨fopCompare_equality_of_nan _ _ d a b s h, fopCompare_ordering_of_nan _ _ d a b s h,
        fopCompare_ordering_of_nan _ _ d a b s h⟩,
      fun hx hy => ⟨_, _, _, fopCompare_of_not_nan _ _ _ d a b s hx hy, fopCompare_of_not_nan _ _ _ d a b s hx hy,
        fopCompare_of_not_nan _ _ _ d a b s hx hy, compareWords_of_place hx hy⟩,
      fopClass_gives rfl d a s⟩

end Sys2Proof.Machine
end
